-- ==== Sys2Proof/Word.lean ====
section
/-! DEFINITION. The words of the device and the plainest arithmetic on them (R3, R4): bytes, halves, words,
lane values, and little-endian assembly. -/

namespace Sys2Proof

/-- A byte is 8 bits (R3). -/
abbrev Byte := BitVec 8
/-- A word is 32 bits (R3). -/
abbrev Word := BitVec 32
/-- A lane value: a word in the low half, or a register pair with the even register low (R4). -/
abbrev Dword := BitVec 64
/-- A set of lanes of one warp: bit l is lane l (W is at most 64, R14). -/
abbrev Mask := BitVec 64

/-- Is lane `l` in the mask? -/
abbrev Mask.has (m : Mask) (l : Nat) : Bool := m.getLsbD l

/-- The mask of the lanes below `w` that satisfy `f`. -/
def Mask.ofFn (w : Nat) (f : Nat → Bool) : Mask :=
  (List.range w).foldl (fun acc l => if f l then acc ||| (1#64 <<< l) else acc) 0#64

/-- The lanes of a mask, ascending. -/
def Mask.lanes (m : Mask) : List Nat := (List.range 64).filter m.has

/-- The lowest lane of a mask, if there is one. -/
def Mask.lowest (m : Mask) : Option Nat := (List.range 64).find? m.has

/-- The number of lanes in a mask. -/
def Mask.count (m : Mask) : Nat := m.lanes.length

/-- A number from its bytes, byte 0 lowest (R4). -/
def leNat : List Byte → Nat
  | [] => 0
  | b :: bs => b.toNat + 256 * leNat bs

/-- The `n` low bytes of a number, byte 0 first (R4). -/
def leBytes : Nat → Nat → List Byte
  | 0, _ => []
  | n + 1, x => BitVec.ofNat 8 x :: leBytes n (x / 256)

/-- Bits [hi:lo] of a number (R4: both ends included). -/
def bitsOf (x hi lo : Nat) : Nat := (x / 2 ^ lo) % 2 ^ (hi + 1 - lo)

/-- ceil(a / b). -/
def ceilDiv (a b : Nat) : Nat := (a + b - 1) / b

/-- The low word of a lane value. -/
abbrev Dword.lo (x : Dword) : Word := x.setWidth 32
/-- The high word of a lane value. -/
abbrev Dword.hi (x : Dword) : Word := (x >>> 32).setWidth 32
/-- A pair from its even (low) and odd (high) registers (R4). -/
def Dword.pair (lo hi : Word) : Dword := hi ++ lo
/-- A word as a lane value. -/
abbrev Word.ext (x : Word) : Dword := x.setWidth 64

/-- The words of a structure's 4-byte little-endian fields. -/
def leWords : List Byte → List Word
  | a :: b :: c :: d :: rest => BitVec.ofNat 32 (leNat [a, b, c, d]) :: leWords rest
  | _ => []

/-- A word's four bytes (R4). -/
def wordBytes (w : Word) : List Byte := leBytes 4 w.toNat

/-- Association lists keyed by numbers: the first entry under a key counts. -/
def alook {α : Type} (k : Nat) : List (Nat × α) → Option α
  | [] => none
  | (k', v) :: rest => if k' = k then some v else alook k rest

/-- An entry under a key, replacing an older one in its place, else put last. -/
def aput {α : Type} (k : Nat) (v : α) : List (Nat × α) → List (Nat × α)
  | [] => [(k, v)]
  | (k', v') :: rest => if k' = k then (k, v) :: rest else (k', v') :: aput k v rest

/-- An association list without a key. -/
def adel {α : Type} (k : Nat) (xs : List (Nat × α)) : List (Nat × α) := xs.filter (fun e => e.1 ≠ k)

/-- A list with position `i` replaced, unchanged when there is no such position. -/
def setAt {α : Type} (i : Nat) (x : α) (xs : List α) : List α := xs.set i x

/-- A list with position `i` rewritten. -/
def modAt {α : Type} (i : Nat) (f : α → α) : List α → List α
  | [] => []
  | x :: xs => match i with
    | 0 => f x :: xs
    | j + 1 => x :: modAt j f xs

end Sys2Proof
end

