-- ==== Sys2Proof/Syntax.lean ====
section
/-! DEFINITION. The rows of spec/opcode_table.json as one inductive: 147 instruction rows with their decoded
fields (R100 to R108), and 78 rows that are events of the device's other agents (spec/95). -/

namespace Sys2Proof

/-! ### Operand fields -/

/-- The inline constants 0xB0 to 0xBA (R75). -/
inductive InlineConst where
  | i0 | i1 | i2 | i4 | im1 | fHalf | f1 | f2 | fm1 | fQuarter | f4
  deriving DecidableEq, Repr, Inhabited

/-- An 8-bit operand code (R103): every one of the 256 codes is exactly one of these. -/
inductive Opnd where
  | v (n : BitVec 7)
  | s (n : BitVec 5)
  | p (n : BitVec 3)
  | lc (n : Fin 3)
  | xi
  | const (c : InlineConst)
  | idx (n : BitVec 6)
  /-- The nine reserved codes 0xAC to 0xAF (0 to 3) and 0xBB to 0xBF (4 to 8), which take `BADOPND`. -/
  | rsvd (k : Fin 9)
  deriving DecidableEq, Repr, Inhabited

/-- A permutation byte (R67): pattern and parameter. Pattern 0 with a nonzero parameter is no permutation
(it takes `RESBITS`); pattern 7 is `rsvd` and takes `BADOPND`. -/
inductive Perm where
  | ident
  | rot (k : BitVec 5)
  | bcast (k : BitVec 5)
  | bfly (k : BitVec 5)
  | mirror (k : BitVec 5)
  | qsw (k : BitVec 5)
  | seg (k : BitVec 5)
  | rsvd (k : BitVec 5)
  deriving DecidableEq, Repr, Inhabited

/-- A guard of a BR, L2 or L3 form (R101): predicate and negation. -/
structure Guard where
  p : BitVec 3
  neg : Bool
  deriving DecidableEq, Repr, Inhabited

/-- Unguarded: G 7, GN 0 (R101). -/
def Guard.always : Guard := { p := 7#3, neg := false }

/-- Rounding modes (R76). -/
inductive Rnd where
  | rne | rtz | rup | rdn
  deriving DecidableEq, Repr, Inhabited

/-- `.s32 .u32 .s64 .u64` (R339, R341). -/
inductive IntTy where
  | s32 | u32 | s64 | u64
  deriving DecidableEq, Repr, Inhabited

/-- `.s32 .u32`. -/
inductive W32Ty where
  | s32 | u32
  deriving DecidableEq, Repr, Inhabited

/-- `.s32 .s64` (R338). -/
inductive AbsTy where
  | s32 | s64
  deriving DecidableEq, Repr, Inhabited

/-- `.b32 .s32 .u32` (R383). -/
inductive ShiftTy where
  | b32 | s32 | u32
  deriving DecidableEq, Repr, Inhabited

/-- `.b32 .u64` (R361, R365, R375, R385, R388). -/
inductive BitTy where
  | b32 | u64
  deriving DecidableEq, Repr, Inhabited

/-- `.u32 .u64 .s64` (R355). -/
inductive LeaTy where
  | u32 | u64 | s64
  deriving DecidableEq, Repr, Inhabited

/-- `.f32 .f64`. -/
inductive FloatTy where
  | f32 | f64
  deriving DecidableEq, Repr, Inhabited

/-- `.f16 .bf16` (R337). -/
inductive HalfTy where
  | f16 | bf16
  deriving DecidableEq, Repr, Inhabited

/-- The types `CVT` accepts (R318): every TYPE code but `.b32` and the reserved one. -/
inductive CvtTy where
  | s32 | u32 | s64 | u64 | s16 | s8 | u8 | s4 | f32 | f64 | f16 | bf16 | e4m3 | e5m2
  deriving DecidableEq, Repr, Inhabited

/-- Comparison codes 0 to 5 (R106). -/
inductive ICmp where
  | eq | ne | lt | le | gt | ge
  deriving DecidableEq, Repr, Inhabited

/-- Comparison codes 0 to 5 and 8 to 15 (R106). -/
inductive FCmp where
  | eq | ne | lt | le | gt | ge | equ | neu | ltu | leu | gtu | geu | num | nan
  deriving DecidableEq, Repr, Inhabited

/-- Element types of `LD`, `ST`, `WAITADDR` (R104). -/
inductive MType where
  | b32 | f32 | bf16 | u8 | s8 | s16 | u64
  deriving DecidableEq, Repr, Inhabited

/-- Spaces (R104, R152). -/
inductive Space where
  | sh | sp | span | stk
  deriving DecidableEq, Repr, Inhabited

/-- Spaces of `ATOM`, `RED`, `WAITADDR` and `WAKE`. -/
inductive Space3 where
  | sh | sp | span
  deriving DecidableEq, Repr, Inhabited

/-- Operations of `ATOM` (R302). -/
inductive AtomOp where
  | add | min | max | and | or | xor | exch | cas
  deriving DecidableEq, Repr, Inhabited

/-- Operations of `RED`, `REDUX` and `SCAN` (R377, R378). -/
inductive RedOp where
  | add | min | max | and | or | xor
  deriving DecidableEq, Repr, Inhabited

/-- Types of `ATOM` and `RED` (R302). -/
inductive AtomTy where
  | b32 | s32 | u32 | f32 | u64
  deriving DecidableEq, Repr, Inhabited

/-- Order of an `ATOM` (R302). -/
inductive AtomOrd where
  | plain | acq | rel | ar
  deriving DecidableEq, Repr, Inhabited

/-- Types of `REDUX` and `SCAN` (R378). -/
inductive ReduxTy where
  | s32 | u32 | f32 | b32
  deriving DecidableEq, Repr, Inhabited

/-- Kinds of `FENCE` (R179). -/
inductive FenceKind where
  | acq | rel | ar | full
  deriving DecidableEq, Repr, Inhabited

/-- Scopes (R174). -/
inductive Scope where
  | warp | block | span | die | package | domain | sys
  deriving DecidableEq, Repr, Inhabited

/-- Modes of `VOTE` (R400). -/
inductive VoteMode where
  | some | every | agree | mask
  deriving DecidableEq, Repr, Inhabited

/-- Modes of `PMOV` (R372). -/
inductive PmovMode where
  | p | tomask | nz | frommask
  deriving DecidableEq, Repr, Inhabited

/-- Direction of a copy (R162). -/
inductive Dir where
  | inn | out
  deriving DecidableEq, Repr, Inhabited

/-- Completion of a `TCOPY` (R162). -/
inductive Done where
  | none | bar | stamp
  deriving DecidableEq, Repr, Inhabited

/-- Operations of `GLAZE` (R170). -/
inductive GlazeOp where
  | reg | swap | rel
  deriving DecidableEq, Repr, Inhabited

/-- Rounding, flush and modifier bits of an arithmetic MOD byte (R104). -/
structure FMod where
  rnd : Rnd
  ftz : Bool
  deriving DecidableEq, Repr, Inhabited

/-- Operation, type, rounding, flush and X of `REDUX` and `SCAN` (R378, R384). -/
structure ReduxMod where
  op : RedOp
  ty : ReduxTy
  rnd : Rnd
  ftz : Bool
  deriving DecidableEq, Repr, Inhabited

/-! ### Field bundles of the formats (R100) -/

/-- RRR with two sources. -/
structure Rrr where
  d : BitVec 7
  a : BitVec 7
  b : BitVec 7
  g : BitVec 3
  deriving DecidableEq, Repr, Inhabited

/-- RRR with one source. -/
structure Rr where
  d : BitVec 7
  a : BitVec 7
  g : BitVec 3
  deriving DecidableEq, Repr, Inhabited

/-- RI of a short shift: amount 0 to 31 (R383). -/
structure Shi where
  d : BitVec 7
  a : BitVec 7
  n : BitVec 5
  deriving DecidableEq, Repr, Inhabited

/-- RI of a short `LD` or `ST` (R107). -/
structure Mi where
  d : BitVec 7
  a : BitVec 7
  off : BitVec 10
  deriving DecidableEq, Repr, Inhabited

/-- L2 with two sources. -/
structure L2 where
  d : Opnd
  a : Opnd
  b : Opnd
  pa : Perm
  pb : Perm
  g : Guard
  deriving DecidableEq, Repr, Inhabited

/-- A source with its permutation (R67). -/
structure PermOpnd where
  o : Opnd
  perm : Perm
  deriving DecidableEq, Repr, Inhabited

/-- L2 with one source. -/
structure L2u where
  d : Opnd
  a : Opnd
  pa : Perm
  g : Guard
  deriving DecidableEq, Repr, Inhabited

/-- L3: three sources, a permutation on the first. -/
structure L3 where
  d : Opnd
  a : Opnd
  b : Opnd
  c : Opnd
  pa : Perm
  g : Guard
  deriving DecidableEq, Repr, Inhabited

/-- L2 with an address and no destination. -/
structure L2a where
  a : Opnd
  pa : Perm
  g : Guard
  deriving DecidableEq, Repr, Inhabited

/-- L2 with two sources and no destination. -/
structure L2ab where
  a : Opnd
  b : Opnd
  pa : Perm
  pb : Perm
  g : Guard
  deriving DecidableEq, Repr, Inhabited

/-- L2 with a destination only. -/
structure L2d where
  d : Opnd
  g : Guard
  deriving DecidableEq, Repr, Inhabited

/-- The carry fields of `IADDC` and `ISUBB` (R128): carry-in (none, or a predicate) and carry-out (7: none). -/
structure Carry where
  cin : Option (BitVec 3)
  cout : BitVec 3
  deriving DecidableEq, Repr, Inhabited

/-- Guard and signed word offset of a BR form (R100). -/
structure Br where
  g : Guard
  off : BitVec 19
  deriving DecidableEq, Repr, Inhabited

/-- MOD of `TCOPY` (R162). -/
structure TcMod where
  dir : Dir
  done : Done
  shadow : Bool
  deriving DecidableEq, Repr, Inhabited

/-! ### Arguments of the events -/

/-- Register classes with value-store entries (R34). -/
inductive RegClass where
  | v | s | p
  deriving DecidableEq, Repr, Inhabited

/-- Leaky-bucket kinds (R280). -/
inductive BucketKind where
  | bank | laneGroup | cluster
  deriving DecidableEq, Repr, Inhabited

/-- Physical memories (R232, R415). -/
inductive MemKind where
  | scratch | hbm | host
  deriving DecidableEq, Repr, Inhabited

/-- What a management ENERGY command names (R280). -/
inductive EnergyTarget where
  | context (slot : Nat)
  | launch (queue slot : Nat)
  deriving DecidableEq, Repr, Inhabited

/-- What SNAPREAD names (R280). -/
inductive SnapTarget where
  | launch (id : Nat)
  | package (pkg : Nat)
  deriving DecidableEq, Repr, Inhabited

/-- Links of a package: its 16 Zhobor links and two PCI Express links (R1, R273). -/
inductive LinkId where
  | zhobor (n : Fin 16)
  | pcie (n : Fin 2)
  deriving DecidableEq, Repr, Inhabited

/-- Where `LOOP` takes its count from (R129): the immediate, or an `s` register. -/
inductive LoopCount where
  | imm (n : Word)
  | sreg (n : BitVec 5)
  deriving DecidableEq, Repr, Inhabited

/-- A request to write a leaky bucket's fields (R280); absent fields keep their values. -/
structure BucketSet where
  leak : Option (BitVec 12)
  inc : Option (BitVec 4)
  mark : Option (BitVec 16)
  deriving DecidableEq, Repr, Inhabited

/-- Every row of spec/opcode_table.json. The instructions come first, then the events, each in the table's order. -/
inductive Instr where
  | abort (imm : BitVec 8)
  | acopy (dir : Dir) (counted : Bool) (d a c : Opnd) (g : Guard)
  | actv (f : L2u) (t : Fin 8) (ftz : Bool)
  | and (f : Rrr)
  | andLong (f : L2)
  | atom (op : AtomOp) (space : Space3) (ty : AtomTy) (ord : AtomOrd) (d a b c : Opnd) (g : Guard)
  | bar (span : Bool)
  | bfi (f : L3)
  | bfx (f : L3) (ty : W32Ty)
  | binit (a b : Opnd) (pa : Perm) (g : Guard)
  | bkpt (imm : BitVec 10)
  | bra (u : Bool) (f : Br)
  | brev (f : Rr)
  | brevLong (f : L2u)
  | brx (a : BitVec 7) (g : BitVec 3)
  | call (f : Br)
  | chload (k : Fin 4) (f : L2a)
  | chrun (f : L3) (k : Fin 4)
  | ckick (a b : Opnd) (pa : Perm) (g : Guard)
  | clz (f : Rr)
  | clzLong (f : L2u)
  | commit
  | cos (f : Rr)
  | cosLong (f : L2u) (ftz : Bool)
  | cvt (f : L2u) (rnd : Rnd) (dt st : CvtTy)
  | cwait (f : L2a)
  | dadd (f : L2) (m : FMod)
  | declw (slot : Fin 8) (a b : Opnd) (g : Guard)
  | dfma (f : L3) (m : FMod)
  | exit (g : BitVec 3)
  | exp2 (f : Rr)
  | exp2Long (f : L2u) (ftz : Bool)
  | fadd (f : Rrr)
  | faddLong (f : L2) (m : FMod)
  | fclass (f : L2u) (ty : FloatTy)
  | fcmp (f : L2) (ty : FloatTy) (cmp : FCmp)
  | fence (kind : FenceKind) (scope : Scope)
  | ffma (f : L3) (m : FMod)
  | fmax (f : Rrr)
  | fmaxLong (f : L2) (ftz : Bool)
  | fmin (f : Rrr)
  | fminLong (f : L2) (ftz : Bool)
  | fmul (f : Rrr)
  | fmulLong (f : L2) (m : FMod)
  | frnd (f : L2u) (ty : FloatTy) (m : FMod) (exact : Bool)
  | fsub (f : Rrr)
  | fsubLong (f : L2) (m : FMod)
  | getsr (d : Opnd) (sr : BitVec 8) (g : Guard)
  | glaze (op : GlazeOp) (pair : Fin 4) (a b : Opnd) (g : Guard)
  | halfmad (f : L3) (ty : HalfTy) (m : FMod)
  | iabs (f : Rr)
  | iabsLong (f : L2u) (ty : AbsTy)
  | iadd (f : Rrr)
  | iaddLong (f : L2) (ty : IntTy)
  | iaddc (d a b : Opnd) (pa : Perm) (k : Carry) (g : Guard)
  | icmp (f : L2) (ty : IntTy) (cmp : ICmp)
  | ifence
  | imad (f : L3) (ty : W32Ty)
  | imadw (f : L3) (cout : BitVec 3)
  | imax (f : Rrr)
  | imaxLong (f : L2) (ty : IntTy)
  | imin (f : Rrr)
  | iminLong (f : L2) (ty : IntTy)
  | imul (f : Rrr)
  | imulLong (f : L2) (ty : W32Ty)
  | imulhi (f : Rrr)
  | imulhiLong (f : L2) (ty : W32Ty)
  | isub (f : Rrr)
  | isubLong (f : L2) (ty : IntTy)
  | isubb (d a b : Opnd) (pa : Perm) (k : Carry) (g : Guard)
  | kstep
  | ld (f : Mi)
  | ldLong (space : Space) (ty : MType) (acq : Bool) (f : L2u) (off : BitVec 8)
  | ldact (t : Fin 8) (f : L2a)
  | lea (f : L3) (ty : LeaTy)
  | log2 (f : Rr)
  | log2Long (f : L2u) (ftz : Bool)
  | logic3 (f : L3) (fn : BitVec 8)
  | loop (n : Fin 3) (words : BitVec 8) (count : LoopCount)
  | ltag (d a : Opnd) (g : Guard)
  | matchLanes (f : L2u) (ty : BitTy) (whole : Bool)
  | mclr (t : BitVec 2)
  | meet (f : Br)
  | mma (f : L2a)
  | mov (f : Rr)
  | movLong (f : L2u) (ty : BitTy)
  | movi (d : Opnd) (imm : Word)
  | mrd (f : L2u) (t : BitVec 2)
  | mwm (d : BitVec 7) (t : BitVec 2)
  | nop
  | or (f : Rrr)
  | orLong (f : L2)
  | plop (d a b : Opnd) (lut : BitVec 4) (g : Guard)
  | pmov (mode : PmovMode) (f : L2u)
  | popc (f : Rr)
  | popcLong (f : L2u)
  | qfeat (d : Opnd) (g : Guard)
  | qswz (f : L2) (ty : BitTy)
  | rcp (f : Rr)
  | rcpLong (f : L2u) (ftz : Bool)
  | red (op : RedOp) (space : Space3) (ty : AtomTy) (rel : Bool) (f : L2ab)
  | redux (f : L2u) (m : ReduxMod)
  | ret (a : BitVec 7) (g : BitVec 3)
  | rng (d : Opnd) (a : PermOpnd) (g : Guard)
  | rsq (f : Rr)
  | rsqLong (f : L2u) (ftz : Bool)
  | rte
  | sar (f : Shi)
  | sarLong (f : L2) (ty : ShiftTy)
  | scan (f : L2u) (m : ReduxMod) (excl : Bool)
  | sel (f : L3) (ty : BitTy)
  | setsr (sr : BitVec 8) (f : L2a)
  | setxi (imm : BitVec 10)
  | setxiS (sreg : BitVec 5) (imm : BitVec 10)
  | shfl (f : L2) (ty : BitTy) (isXor : Bool)
  | shl (f : Shi)
  | shlLong (f : L2) (ty : ShiftTy)
  | shr (f : Shi)
  | shrLong (f : L2) (ty : ShiftTy)
  | sin (f : Rr)
  | sinLong (f : L2u) (ftz : Bool)
  | snap
  | sqrt (f : Rr)
  | sqrtLong (f : L2u) (ftz : Bool)
  | st (f : Mi)
  | stLong (space : Space) (ty : MType) (rel : Bool) (f : L2ab) (off : BitVec 8)
  | tanh (f : Rr)
  | tanhLong (f : L2u) (ftz : Bool)
  | tcopy (m : TcMod) (f : L3)
  | trap (imm : BitVec 10)
  | tryTx (lane : Bool) (off : BitVec 19)
  | vote (mode : VoteMode) (d a : Opnd) (g : Guard)
  | wadd (t : BitVec 4) (signed : Bool) (f : L2ab)
  | waitaddr (space : Space3) (wide acq : Bool) (f : L2)
  | wake (space : Space3) (f : L2a)
  | wcfg (t : BitVec 4) (log2count : Option (Fin 11)) (g : Guard)
  | wcut (t : BitVec 4) (f : L2u)
  | wfind (t : BitVec 4) (f : L2u)
  | wget (t : BitVec 4) (f : L2u)
  | wload (t : BitVec 4) (f : L2a)
  | wpre (t : BitVec 4) (f : L2u)
  | wsave (t : BitVec 4) (f : L2a)
  | wset (t : BitVec 4) (scale : Option (BitVec 8)) (f : L2ab)
  | wsum (t : BitVec 4) (d : Opnd) (g : Guard)
  | xor (f : Rrr)
  | xorLong (f : L2)
  | yieldTurn
  -- events
  | issueSelect (core q : Nat)
  | ageingLimit (core q : Nat)
  | entryReady (core eid : Nat)
  | registerFill (block warp : Nat) (cls : RegClass) (r piece : Nat)
  | trapEntry (block warp : Nat)
  | commitPoint (block warp : Nat)
  | atomicEngineGrant (cluster : Nat)
  | translationWalk (block warp tag : Nat)
  | copyPart (copy part : Nat)
  | requestEngineIssue (core : Nat)
  | reservationGrant (cluster : Nat)
  | matrixChunk (core op : Nat)
  | rowFinal (core op : Nat)
  | tableFlip (core ctx t : Nat)
  | chainSlotFlip (core ctx k : Nat)
  | sumTreeUnitComplete (core : Nat)
  | watchdog (core : Nat)
  | waitaddrContinue (block warp path : Nat)
  | spuriousWakeup (block warp path : Nat)
  | uncorrectableError (block : Nat) (entry : Option Nat)
  | correctedError (pkg : Nat) (kind : BucketKind) (index : Nat)
  | bucketLeak (pkg : Nat) (kind : BucketKind) (index : Nat)
  | launchPacket (fn q : Nat)
  | launchAccept (fn q : Nat)
  | blockDispatch (launch : Nat)
  | blockRefill (launch : Nat)
  | blockEnd (block : Nat)
  | launchComplete (launch : Nat)
  | idleTimer (cluster : Nat)
  | clusterWakeComplete (cluster : Nat)
  | stepEnd (launch : Nat)
  | coreHalt (core : Nat)
  | contextSaveComplete (core ctx : Nat)
  | icacheFill (block : Nat) (line : BitVec 64)
  | hostWrite (kind : MemKind) (addr : Nat) (bytes : List Byte)
  | snapshotPin (pkg : Nat)
  | tokenArrive (pkg serial : Nat)
  | tokenReturn (pkg serial : Nat)
  | frequencyTimestamp (group : List Nat) (step : Nat)
  | linkDown (pkg : Nat) (link : LinkId)
  | deviceReset
  | firmwareApply (pkg : Nat)
  | spdmMeasurement (pkg : Nat) (request : BitVec 64)
  | evvalWrite (fn : Nat) (high : Word)
  | evaddWrite (fn : Nat) (high : Word)
  | frespRetry (fn slot tag : Nat)
  | frespDecline (fn slot tag : Nat)
  | registerWrite (fn offset : Nat) (value : Word)
  | ctxcreate (fn : Nat)
  | ctxdestroy (fn : Nat)
  | inval (fn : Nat)
  | seal (fn : Nat)
  | preempt (fn : Nat)
  | resume (fn : Nat)
  | linfo (fn : Nat)
  | cinfo (fn : Nat)
  | grant (fn slot watts minStep : Nat) (boost : Bool)
  | envelope (pkg watts : Nat)
  | bucket (pkg : Nat) (kind : BucketKind) (index : Nat) (set : BucketSet)
  | idlecount (pkg count : Nat)
  | degrade (pkg die cluster : Nat)
  | restore (pkg die cluster : Nat)
  | spare (pkg die core bank : Nat)
  | drain (pkg die cluster : Nat)
  | drainComplete (cluster : Nat)
  | testpkg (pkg die cluster : Nat) (image : List Byte)
  | snapread (pkg : Nat) (target : SnapTarget)
  | energy (pkg fn : Nat) (target : EnergyTarget)
  | tokinit (pkg count : Nat)
  | floor (pkg : Nat)
  | fwload (pkg : Nat) (image : List Byte)
  | events (pkg start : Nat)
  | tokenSend (pkg dest : Nat) (link : Fin 16)
  | clusterGated (cluster : Nat)
  | accessPerformed (block warp serial : Nat)
  | fqheadWrite (fn slot : Nat) (value : BitVec 12)
  | badop (fn : Nat)
  | unknownCommand (pkg code : Nat)
  deriving DecidableEq, Repr, Inhabited

end Sys2Proof
end

