-- ==== Sys2Proof/Machine/Float.lean ====
section
/-! DEFINITION. Floating-point formats and exact arithmetic rounded once (R71, R72, R76 to R78, R80), and the SX
block formats (R81 to R83). -/

namespace Sys2Proof.Machine

open Sys2Proof

/-- A binary format (R71): exponent bits, fraction bits, whether it has infinities. -/
structure Fmt where
  eb : Nat
  fb : Nat
  inf : Bool
  deriving DecidableEq, Repr, Inhabited

/-- FP64. -/
def fp64 : Fmt := { eb := 11, fb := 52, inf := true }
/-- FP32. -/
def fp32 : Fmt := { eb := 8, fb := 23, inf := true }
/-- FP16. -/
def fp16 : Fmt := { eb := 5, fb := 10, inf := true }
/-- BF16. -/
def bf16 : Fmt := { eb := 8, fb := 7, inf := true }
/-- E5M2. -/
def e5m2 : Fmt := { eb := 5, fb := 2, inf := true }
/-- E4M3. -/
def e4m3 : Fmt := { eb := 4, fb := 3, inf := false }

/-- Exponent bias. -/
def Fmt.bias (f : Fmt) : Int := 2 ^ (f.eb - 1) - 1
/-- Exponent of the smallest normal. -/
def Fmt.emin (f : Fmt) : Int := 1 - f.bias
/-- Bit of the sign. -/
def Fmt.sbit (f : Fmt) : Nat := f.eb + f.fb
/-- Pattern of the canonical NaN (R71, R72). -/
def Fmt.nan (f : Fmt) : Nat := if f.inf then (2 ^ f.eb - 1) * 2 ^ f.fb + 2 ^ (f.fb - 1) else 2 ^ f.sbit - 1
/-- Pattern of the largest finite magnitude. -/
def Fmt.maxFin (f : Fmt) : Nat := if f.inf then (2 ^ f.eb - 1) * 2 ^ f.fb - 1 else 2 ^ f.sbit - 2
/-- Pattern of an infinity's magnitude. -/
def Fmt.infMag (f : Fmt) : Nat := (2 ^ f.eb - 1) * 2 ^ f.fb
/-- A sign over a magnitude pattern. -/
def Fmt.signed (f : Fmt) (neg : Bool) (mag : Nat) : Nat := (if neg then 2 ^ f.sbit else 0) + mag

/-- A value: NaN (signalling or not), infinity, or (−1)^neg × man × 2^exp. -/
inductive FVal where
  | nan (sig : Bool)
  | inf (neg : Bool)
  | fin (neg : Bool) (man : Nat) (exp : Int)
  deriving DecidableEq, Repr, Inhabited

/-- `WSTAT` bits (R61). -/
def flNV : Word := 1#32
/-- DZ. -/
def flDZ : Word := 2#32
/-- OF. -/
def flOF : Word := 4#32
/-- UF. -/
def flUF : Word := 8#32
/-- NX. -/
def flNX : Word := 16#32
/-- UDIV. -/
def flUDIV : Word := 0x100#32
/-- FMTSAT. -/
def flFMTSAT : Word := 0x200#32
/-- ACCWRAP. -/
def flACCWRAP : Word := 0x400#32
/-- MIGRATED. -/
def flMIGRATED : Word := 0x800#32

/-- The exact value of a pattern (R71). -/
def Fmt.decode (f : Fmt) (x : Nat) : FVal :=
  let neg := x.testBit f.sbit
  let e := (x / 2 ^ f.fb) % 2 ^ f.eb
  let m := x % 2 ^ f.fb
  if f.inf && e == 2 ^ f.eb - 1 then (if m = 0 then .inf neg else .nan (!m.testBit (f.fb - 1)))
  else if !f.inf && e == 2 ^ f.eb - 1 && m == 2 ^ f.fb - 1 then .nan false
  else if e = 0 then .fin neg m (f.emin - f.fb)
  else .fin neg (m + 2 ^ f.fb) ((e : Int) - f.bias - f.fb)

/-- Is a pattern subnormal? -/
def Fmt.subnormal (f : Fmt) (x : Nat) : Bool := (x / 2 ^ f.fb) % 2 ^ f.eb == 0 && x % 2 ^ f.fb != 0

/-- Flush of an operand (R77). -/
def Fmt.flush (f : Fmt) (ftz : Bool) (x : Nat) : Nat :=
  if ftz && f.subnormal x then f.signed (x.testBit f.sbit) 0 else x

/-- Does a magnitude with quotient `m`, remainder `r` of `d` and sticky tail round up? -/
def roundsUp (rnd : Rnd) (neg : Bool) (m r d : Nat) (sticky : Bool) : Bool :=
  let exact := r == 0 && !sticky
  match rnd with
  | .rne => if 2 * r = d then sticky || m % 2 == 1 else decide (d < 2 * r)
  | .rtz => false
  | .rup => !neg && !exact
  | .rdn => neg && !exact

/-- `man × 2^exp` cut at quantum `2^q`: rounded quotient, and whether anything was lost. -/
def cutAt (rnd : Rnd) (neg : Bool) (man : Nat) (exp q : Int) (sticky : Bool) : Nat × Bool :=
  if q ≤ exp then (man * 2 ^ (exp - q).toNat, sticky)
  else
    let d := 2 ^ (q - exp).toNat
    let m := man / d
    let r := man % d
    (if roundsUp rnd neg m r d sticky then m + 1 else m, r != 0 || sticky)

/-- Round a nonzero magnitude once (R76, R78). `sticky` adds a nonzero amount below every bit of `man`. -/
def Fmt.round (f : Fmt) (rnd : Rnd) (neg : Bool) (man : Nat) (exp : Int) (sticky : Bool) : Nat × Word :=
  let top := (man.log2 : Int) + exp
  let q := max (top - f.fb) (f.emin - f.fb)
  let (m, inexact) := cutAt rnd neg man exp q sticky
  -- the result's exponent field and pattern, with the carry into the next binade
  let (m, q) := if m = 2 ^ (f.fb + 1) then (2 ^ f.fb, q + 1) else (m, q)
  let mag : Nat := if m < 2 ^ f.fb then m else ((q + f.fb + f.bias).toNat) * 2 ^ f.fb + (m - 2 ^ f.fb)
  if f.maxFin < mag then
    let toInf := match rnd with | .rne => true | .rtz => false | .rup => !neg | .rdn => neg
    if toInf then
      if f.inf then (f.signed neg f.infMag, flOF ||| flNX) else (f.signed neg f.maxFin, flOF ||| flNX ||| flFMTSAT)
    else (f.signed neg f.maxFin, flOF ||| flNX)
  else
    -- tininess after rounding, with the exponent unbounded (R78)
    let tiny := decide (top < f.emin) && (let (t, _) := cutAt rnd neg man exp (top - f.fb) sticky
      !(t == 2 ^ (f.fb + 1) && top + 1 == f.emin))
    (f.signed neg mag, if inexact then (if tiny then flUF ||| flNX else flNX) else 0#32)

/-- A value in a format, rounded once. -/
def Fmt.encode (f : Fmt) (rnd : Rnd) : FVal → Nat × Word
  | .nan sig => (f.nan, if sig then flNV else 0#32)
  | .inf neg => if f.inf then (f.signed neg f.infMag, 0#32) else (f.signed neg f.maxFin, flFMTSAT)
  | .fin neg man exp => if man = 0 then (f.signed neg 0, 0#32) else f.round rnd neg man exp false

/-- Flush of a result (R77): subnormal results become zero with UF and NX. -/
def Fmt.flushResult (f : Fmt) (ftz : Bool) (r : Nat × Word) : Nat × Word :=
  if ftz && f.subnormal r.1 then (f.signed (r.1.testBit f.sbit) 0, r.2 ||| flUF ||| flNX) else r

/-- Is a value a signalling NaN? -/
def FVal.sig : FVal → Bool | .nan s => s | _ => false
/-- Is a value NaN? -/
def FVal.isNan : FVal → Bool | .nan _ => true | _ => false
/-- Is a value zero? -/
def FVal.isZero : FVal → Bool | .fin _ m _ => m == 0 | _ => false
/-- The sign of a value. -/
def FVal.neg : FVal → Bool | .nan _ => false | .inf n => n | .fin n _ _ => n
/-- The value with the other sign. -/
def FVal.flip : FVal → FVal | .nan s => .nan s | .inf n => .inf (!n) | .fin n m e => .fin (!n) m e

/-- Signed integer significand of a finite value at exponent `e` (at most its own). -/
def sigAt (neg : Bool) (man : Nat) (exp e : Int) : Int :=
  let m : Int := man * 2 ^ (exp - e).toNat
  if neg then -m else m

/-- Exact sum with the zero rule of R76; the flag is NV. -/
def FVal.add (rnd : Rnd) (a b : FVal) : FVal × Word :=
  let nv := if a.sig || b.sig then flNV else 0#32
  match a, b with
  | .nan _, _ => (.nan false, nv)
  | _, .nan _ => (.nan false, nv)
  | .inf x, .inf y => if x == y then (.inf x, 0#32) else (.nan false, flNV)
  | .inf x, _ => (.inf x, 0#32)
  | _, .inf y => (.inf y, 0#32)
  | .fin x m e, .fin y n k =>
    if m = 0 ∧ n = 0 then (.fin (if x == y then x else rnd == .rdn) 0 0, 0#32) else
    let lo := min e k
    let s := sigAt x m e lo + sigAt y n k lo
    if s = 0 then (.fin (rnd == .rdn) 0 0, 0#32) else (.fin (decide (s < 0)) s.natAbs lo, 0#32)

/-- Exact product (R72). -/
def FVal.mul (a b : FVal) : FVal × Word :=
  let neg := a.neg != b.neg
  let nv := if a.sig || b.sig then flNV else 0#32
  match a, b with
  | .nan _, _ => (.nan false, nv)
  | _, .nan _ => (.nan false, nv)
  | .fin _ m e, .fin _ n k => (.fin neg (m * n) (e + k), 0#32)
  | x, y => if x.isZero || y.isZero then (.nan false, flNV) else (.inf neg, 0#32)

/-- Exact a × b + c (R72: an invalid product raises NV whatever the addend). -/
def FVal.fma (rnd : Rnd) (a b c : FVal) : FVal × Word :=
  let (p, f) := FVal.mul a b
  let (s, g) := FVal.add rnd p c
  (s, f ||| g)

/-- An operation on patterns: decode with flush, compute exactly, round once, flush (R76 to R78). -/
def Fmt.op2 (f : Fmt) (m : FMod) (g : Rnd → FVal → FVal → FVal × Word) (x y : Nat) : Nat × Word :=
  let (v, fl) := g m.rnd (f.decode (f.flush m.ftz x)) (f.decode (f.flush m.ftz y))
  let (r, fr) := f.flushResult m.ftz (f.encode m.rnd v)
  (r, fl ||| fr)

/-- Addition. -/
def Fmt.add (f : Fmt) (m : FMod) (x y : Nat) : Nat × Word := f.op2 m FVal.add x y
/-- Subtraction. -/
def Fmt.sub (f : Fmt) (m : FMod) (x y : Nat) : Nat × Word := f.op2 m (fun r a b => FVal.add r a b.flip) x y
/-- Multiplication. -/
def Fmt.mul (f : Fmt) (m : FMod) (x y : Nat) : Nat × Word := f.op2 m (fun _ a b => FVal.mul a b) x y
/-- Fused multiply-add. -/
def Fmt.fma (f : Fmt) (m : FMod) (x y z : Nat) : Nat × Word :=
  f.op2 m (fun r a b => FVal.fma r a b (f.decode (f.flush m.ftz z))) x y

/-- Is a < b, for values that are no NaN (−0 equals +0)? -/
def FVal.lt (a b : FVal) : Bool :=
  match a, b with
  | .inf x, .inf y => x && !y
  | .inf x, .fin _ _ _ => x
  | .fin _ _ _, .inf y => !y
  | .fin x m e, .fin y n k => let lo := min e k; decide (sigAt x m e lo < sigAt y n k lo)
  | _, _ => false

/-- Are two values equal (no NaN)? -/
def FVal.eqv (a b : FVal) : Bool := !a.isNan && !b.isNan && !a.lt b && !b.lt a

/-- minimumNumber and maximumNumber (R72), on patterns: −0 lies below +0. -/
def Fmt.minMax (f : Fmt) (wantMax : Bool) (ftz : Bool) (x y : Nat) : Nat × Word :=
  let x := f.flush ftz x
  let y := f.flush ftz y
  let a := f.decode x
  let b := f.decode y
  let fl := if a.sig || b.sig then flNV else 0#32
  if a.isNan && b.isNan then (f.nan, fl)
  else if a.isNan then (y, fl)
  else if b.isNan then (x, fl)
  else
    let less := a.lt b || (!b.lt a && a.neg && !b.neg)
    (if less != wantMax then x else y, fl)

/-- A value rounded to an integer: the integer and whether it was inexact. -/
def roundInt (rnd : Rnd) (neg : Bool) (man : Nat) (exp : Int) : Int × Bool :=
  let (m, inexact) := cutAt rnd neg man exp 0 false
  (if neg then -(m : Int) else m, inexact)

/-- A binary rational significand of an integer, as a value. -/
def FVal.ofInt (x : Int) : FVal := .fin (decide (x < 0)) x.natAbs 0

/-! ### SX blocks -/

/-- Magnitude bits and block size of an SX format code (R81): 0x10, 0x11, 0x12. -/
def sxBits (fmt : Nat) : Nat := if fmt = 0x10 then 2 else if fmt = 0x11 then 4 else 7
/-- Block size in bytes (R81). -/
def sxSize (fmt : Nat) : Nat := if fmt = 0x10 then 8 else if fmt = 0x11 then 12 else 18

/-- Element `i` of a block (R82). One with s = 1 and M = 0 in a block of E 1 to 254 is -0: the formula gives 0 without a sign (DESIGN CHOICE,
log 38). -/
def sxDecode (fmt : Nat) (block : List Byte) (i : Nat) : FVal :=
  let x := leNat block
  let m := sxBits fmt
  let e := x % 256
  if e = 0 then .fin false 0 0
  else if e = 255 then .nan false
  else
    let mu := if x.testBit (8 + i / 2) then 1 else 0
    let field := bitsOf x (16 + (m + 1) * i + m) (16 + (m + 1) * i)
    .fin (field.testBit m) (field % 2 ^ m) ((e : Int) - 127 - mu - (m - 1))

/-- A magnitude divided by 2^e and rounded to an integer, ties to even. -/
def magOver (v : FVal) (e : Int) : Nat :=
  match v with | .fin _ man exp => (cutAt .rne false man exp e false).1 | _ => 0

/-- The first exponent from `e` on that holds every magnitude (R83), within fuel. -/
def sxExp (m : Nat) (vs : List FVal) : Nat → Nat → Nat
  | 0, e => e
  | k + 1, e =>
    if vs.all (fun v => match v with | .inf _ => false | _ => decide (magOver v ((e : Int) - 127 - (m - 1)) ≤ 2 ^ m - 1))
    then e else sxExp m vs k (e + 1)

/-- Encode 16 FP32 values as one block (R83): bytes, and whether an element saturated. -/
def sxEncode (fmt : Nat) (xs : List FVal) : List Byte × Bool :=
  let m := sxBits fmt
  let mmax := 2 ^ m - 1
  if xs.any FVal.isNan then (leBytes (sxSize fmt) 255, false) else
  let e := sxExp m xs 253 1
  let fits := fun (v : FVal) => match v with
    | .inf _ => false
    | _ => decide (magOver v ((e : Int) - 128 - (m - 1)) ≤ mmax)
  let mu := (List.range 8).map fun j => fits (xs.getD (2 * j) default) && fits (xs.getD (2 * j + 1) default)
  let ms := (List.range 16).map fun i =>
    match xs.getD i default with
    | .inf n => (n, mmax + 1)
    | v => (v.neg, magOver v ((e : Int) - 127 - (if mu.getD (i / 2) false then 1 else 0) - (m - 1)))
  let sat := ms.any fun x => decide (mmax < x.2)
  let fields := ms.map fun x => (if x.1 && x.2 != 0 then 2 ^ m else 0) + min x.2 mmax
  if fields.all (· % 2 ^ m == 0) then (leBytes (sxSize fmt) 0, sat) else
  let bits := (fields.foldr (fun x acc => x + 2 ^ (m + 1) * acc) 0) * 2 ^ 16
  let mus := mu.foldr (fun b acc => (if b then 1 else 0) + 2 * acc) 0
  (leBytes (sxSize fmt) (bits + 256 * mus + e), sat)

end Sys2Proof.Machine
end

