-- ==== Sys2Proof/WellFormed.lean ====
section
/-! DEFINITION. Which instructions the encodings of spec/06 can hold: the combinations of fields that decoding
would refuse with `RESBITS` (R101, R102) are not well formed. -/

namespace Sys2Proof

/-- G = 7 with GN = 1 takes `RESBITS` (R101). -/
def Guard.wf (g : Guard) : Bool := !(g.p == 7#3 && g.neg)

/-- Operand code 0x00, which an unused operand field holds (R103). -/
def Opnd.zero : Opnd := .v 0#7

/-- Operation and type pairs of the atomics (R302). -/
def atomPairOk : AtomOp → AtomTy → Bool
  | .add, t => t != .b32
  | .min, t | .max, t => t == .s32 || t == .u32 || t == .u64
  | .and, t | .or, t | .xor, t | .exch, t | .cas, t => t == .b32 || t == .u64

/-- The atomic operation of a `RED` (R377). -/
def RedOp.atom : RedOp → AtomOp
  | .add => .add | .min => .min | .max => .max | .and => .and | .or => .or | .xor => .xor

/-- What `REDUX` and `SCAN` accept (R378): RND only with `.f32` `ADD`, FTZ only with `.f32`. -/
def ReduxMod.wf (m : ReduxMod) : Bool :=
  (match m.op with
    | .add | .min | .max => m.ty != .b32
    | .and | .or | .xor => m.ty == .b32)
  && (m.rnd == .rne || (m.op == .add && m.ty == .f32)) && (!m.ftz || m.ty == .f32)

/-- The rows that are events of other agents, not instruction words (spec/95). -/
def Instr.isEvent : Instr → Bool
  | .issueSelect _ _
  | .ageingLimit _ _
  | .entryReady _ _
  | .registerFill _ _ _ _ _
  | .trapEntry _ _
  | .commitPoint _ _
  | .atomicEngineGrant _
  | .translationWalk _ _ _
  | .copyPart _ _
  | .requestEngineIssue _
  | .reservationGrant _
  | .matrixChunk _ _
  | .rowFinal _ _
  | .tableFlip _ _ _
  | .chainSlotFlip _ _ _
  | .sumTreeUnitComplete _
  | .watchdog _
  | .waitaddrContinue _ _ _
  | .spuriousWakeup _ _ _
  | .uncorrectableError _ _
  | .correctedError _ _ _
  | .bucketLeak _ _ _
  | .launchPacket _ _
  | .launchAccept _ _
  | .blockDispatch _
  | .blockRefill _
  | .blockEnd _
  | .launchComplete _
  | .idleTimer _
  | .clusterWakeComplete _
  | .stepEnd _
  | .coreHalt _
  | .contextSaveComplete _ _
  | .icacheFill _ _
  | .hostWrite _ _ _
  | .snapshotPin _
  | .tokenArrive _ _
  | .tokenReturn _ _
  | .frequencyTimestamp _ _
  | .linkDown _ _
  | .deviceReset
  | .firmwareApply _
  | .spdmMeasurement _ _
  | .evvalWrite _ _
  | .evaddWrite _ _
  | .frespRetry _ _ _
  | .frespDecline _ _ _
  | .registerWrite _ _ _
  | .ctxcreate _
  | .ctxdestroy _
  | .inval _
  | .seal _
  | .preempt _
  | .resume _
  | .linfo _
  | .cinfo _
  | .grant _ _ _ _ _
  | .envelope _ _
  | .bucket _ _ _ _
  | .idlecount _ _
  | .degrade _ _ _
  | .restore _ _ _
  | .spare _ _ _ _
  | .drain _ _ _
  | .drainComplete _
  | .testpkg _ _ _ _
  | .snapread _ _
  | .energy _ _ _
  | .tokinit _ _
  | .floor _
  | .fwload _ _
  | .events _ _
  | .tokenSend _ _ _
  | .clusterGated _
  | .accessPerformed _ _ _
  | .fqheadWrite _ _ _
  | .badop _
  | .unknownCommand _ _ => true
  | _ => false

/-- Is every field combination one that the encoding holds? Events have no encoding and are not well formed here. -/
def Instr.wf : Instr → Bool
  | .abort _ => true
  | .acopy _ counted _ _ c g => g.wf && (counted || c == Opnd.zero)
  | .actv f _ _ => f.g.wf
  | .and _ => true
  | .andLong f => f.g.wf
  | .atom op _ ty _ _ _ _ c g => g.wf && atomPairOk op ty && (op == .cas || c == Opnd.zero)
  | .bar _ => true
  | .bfi f => f.g.wf
  | .bfx f _ => f.g.wf
  | .binit _ _ _ g => g.wf
  | .bkpt _ => true
  | .bra _ f => f.g.wf
  | .brev _ => true
  | .brevLong f => f.g.wf
  | .brx _ _ => true
  | .call f => f.g.wf
  | .chload _ f => f.g.wf
  | .chrun f _ => f.g.wf
  | .ckick _ _ _ g => g.wf
  | .clz _ => true
  | .clzLong f => f.g.wf
  | .commit => true
  | .cos _ => true
  | .cosLong f _ => f.g.wf
  | .cvt f _ _ _ => f.g.wf
  | .cwait f => f.g.wf
  | .dadd f _ => f.g.wf
  | .declw _ _ _ g => g.wf
  | .dfma f _ => f.g.wf
  | .exit _ => true
  | .exp2 _ => true
  | .exp2Long f _ => f.g.wf
  | .fadd _ => true
  | .faddLong f _ => f.g.wf
  | .fclass f _ => f.g.wf
  | .fcmp f _ _ => f.g.wf
  | .fence _ _ => true
  | .ffma f _ => f.g.wf
  | .fmax _ => true
  | .fmaxLong f _ => f.g.wf
  | .fmin _ => true
  | .fminLong f _ => f.g.wf
  | .fmul _ => true
  | .fmulLong f _ => f.g.wf
  | .frnd f _ _ _ => f.g.wf
  | .fsub _ => true
  | .fsubLong f _ => f.g.wf
  | .getsr _ _ g => g.wf
  | .glaze op _ a b g => g.wf && (op == .reg || (a == Opnd.zero && b == Opnd.zero))
  | .halfmad f _ _ => f.g.wf
  | .iabs _ => true
  | .iabsLong f _ => f.g.wf
  | .iadd _ => true
  | .iaddLong f _ => f.g.wf
  | .iaddc _ _ _ _ _ g => g.wf
  | .icmp f _ _ => f.g.wf
  | .ifence => true
  | .imad f _ => f.g.wf
  | .imadw f _ => f.g.wf
  | .imax _ => true
  | .imaxLong f _ => f.g.wf
  | .imin _ => true
  | .iminLong f _ => f.g.wf
  | .imul _ => true
  | .imulLong f _ => f.g.wf
  | .imulhi _ => true
  | .imulhiLong f _ => f.g.wf
  | .isub _ => true
  | .isubLong f _ => f.g.wf
  | .isubb _ _ _ _ _ g => g.wf
  | .kstep => true
  | .ld _ => true
  | .ldLong _ _ _ f _ => f.g.wf
  | .ldact _ f => f.g.wf
  | .lea f _ => f.g.wf
  | .log2 _ => true
  | .log2Long f _ => f.g.wf
  | .logic3 f _ => f.g.wf
  | .loop _ _ _ => true
  | .ltag _ _ g => g.wf
  | .matchLanes f _ _ => f.g.wf
  | .mclr _ => true
  | .meet f => f.g.wf
  | .mma f => f.g.wf
  | .mov _ => true
  | .movLong f _ => f.g.wf
  | .movi _ _ => true
  | .mrd f _ => f.g.wf
  | .mwm _ _ => true
  | .nop => true
  | .or _ => true
  | .orLong f => f.g.wf
  | .plop _ _ _ _ g => g.wf
  | .pmov _ f => f.g.wf
  | .popc _ => true
  | .popcLong f => f.g.wf
  | .qfeat _ g => g.wf
  | .qswz f _ => f.g.wf
  | .rcp _ => true
  | .rcpLong f _ => f.g.wf
  | .red op _ ty _ f => f.g.wf && atomPairOk op.atom ty
  | .redux f m => f.g.wf && m.wf
  | .ret _ _ => true
  | .rng _ _ g => g.wf
  | .rsq _ => true
  | .rsqLong f _ => f.g.wf
  | .rte => true
  | .sar _ => true
  | .sarLong f _ => f.g.wf
  | .scan f m _ => f.g.wf && m.wf
  | .sel f _ => f.g.wf
  | .setsr _ f => f.g.wf
  | .setxi _ => true
  | .setxiS _ _ => true
  | .shfl f _ _ => f.g.wf
  | .shl _ => true
  | .shlLong f _ => f.g.wf
  | .shr _ => true
  | .shrLong f _ => f.g.wf
  | .sin _ => true
  | .sinLong f _ => f.g.wf
  | .snap => true
  | .sqrt _ => true
  | .sqrtLong f _ => f.g.wf
  | .st _ => true
  | .stLong _ _ _ f _ => f.g.wf
  | .tanh _ => true
  | .tanhLong f _ => f.g.wf
  | .tcopy m f => f.g.wf && (m.done != .none || f.c == Opnd.zero) && !(m.shadow && m.dir == .out)
  | .trap _ => true
  | .tryTx _ _ => true
  | .vote _ _ _ g => g.wf
  | .wadd _ _ f => f.g.wf
  | .waitaddr _ _ _ f => f.g.wf
  | .wake _ f => f.g.wf
  | .wcfg _ _ g => g.wf
  | .wcut _ f => f.g.wf
  | .wfind _ f => f.g.wf
  | .wget _ f => f.g.wf
  | .wload _ f => f.g.wf
  | .wpre _ f => f.g.wf
  | .wsave _ f => f.g.wf
  | .wset _ scale f => f.g.wf && (scale.isNone || f.pb == .ident)
  | .wsum _ _ g => g.wf
  | .xor _ => true
  | .xorLong f => f.g.wf
  | .yieldTurn => true
  | .issueSelect _ _
  | .ageingLimit _ _
  | .entryReady _ _
  | .registerFill _ _ _ _ _
  | .trapEntry _ _
  | .commitPoint _ _
  | .atomicEngineGrant _
  | .translationWalk _ _ _
  | .copyPart _ _
  | .requestEngineIssue _
  | .reservationGrant _
  | .matrixChunk _ _
  | .rowFinal _ _
  | .tableFlip _ _ _
  | .chainSlotFlip _ _ _
  | .sumTreeUnitComplete _
  | .watchdog _
  | .waitaddrContinue _ _ _
  | .spuriousWakeup _ _ _
  | .uncorrectableError _ _
  | .correctedError _ _ _
  | .bucketLeak _ _ _
  | .launchPacket _ _
  | .launchAccept _ _
  | .blockDispatch _
  | .blockRefill _
  | .blockEnd _
  | .launchComplete _
  | .idleTimer _
  | .clusterWakeComplete _
  | .stepEnd _
  | .coreHalt _
  | .contextSaveComplete _ _
  | .icacheFill _ _
  | .hostWrite _ _ _
  | .snapshotPin _
  | .tokenArrive _ _
  | .tokenReturn _ _
  | .frequencyTimestamp _ _
  | .linkDown _ _
  | .deviceReset
  | .firmwareApply _
  | .spdmMeasurement _ _
  | .evvalWrite _ _
  | .evaddWrite _ _
  | .frespRetry _ _ _
  | .frespDecline _ _ _
  | .registerWrite _ _ _
  | .ctxcreate _
  | .ctxdestroy _
  | .inval _
  | .seal _
  | .preempt _
  | .resume _
  | .linfo _
  | .cinfo _
  | .grant _ _ _ _ _
  | .envelope _ _
  | .bucket _ _ _ _
  | .idlecount _ _
  | .degrade _ _ _
  | .restore _ _ _
  | .spare _ _ _ _
  | .drain _ _ _
  | .drainComplete _
  | .testpkg _ _ _ _
  | .snapread _ _
  | .energy _ _ _
  | .tokinit _ _
  | .floor _
  | .fwload _ _
  | .events _ _
  | .tokenSend _ _ _
  | .clusterGated _
  | .accessPerformed _ _ _
  | .fqheadWrite _ _ _
  | .badop _
  | .unknownCommand _ _ => false

end Sys2Proof
end

