-- ==== Sys2Proof/Decode.lean ====
section
/-! DEFINITION. Reading an instruction from its words, total on any words (R100 to R109), and writing a
well-formed instruction's words from the same tables. -/

namespace Sys2Proof

/-- Why words are no instruction: an undefined opcode (R109), or a reserved bit or combination (R102). -/
inductive DecodeErr where
  | illop
  | resbits
  deriving DecidableEq, Repr, Inhabited

/-! ### Field codes -/

/-- Operand code of an 8-bit field (R103). -/
def opndOf (x : BitVec 8) : Opnd :=
  let n := x.toNat
  if n < 0x80 then .v (x.setWidth 7)
  else if n < 0xA0 then .s (x.setWidth 5)
  else if n < 0xA8 then .p (x.setWidth 3)
  else if n < 0xAB then .lc (Fin.ofNat 3 (n - 0xA8))
  else if n = 0xAB then .xi
  else if n < 0xB0 then .rsvd (Fin.ofNat 9 (n - 0xAC))
  else match n with
    | 0xB0 => .const .i0 | 0xB1 => .const .i1 | 0xB2 => .const .i2 | 0xB3 => .const .i4 | 0xB4 => .const .im1
    | 0xB5 => .const .fHalf | 0xB6 => .const .f1 | 0xB7 => .const .f2 | 0xB8 => .const .fm1
    | 0xB9 => .const .fQuarter | 0xBA => .const .f4
    | _ => if n < 0xC0 then .rsvd (Fin.ofNat 9 (n - 0xB7)) else .idx (x.setWidth 6)

/-- The number of an inline constant, 0 to 10, from code 0xB0 (R75). -/
def InlineConst.num : InlineConst → Nat
  | .i0 => 0 | .i1 => 1 | .i2 => 2 | .i4 => 3 | .im1 => 4 | .fHalf => 5 | .f1 => 6 | .f2 => 7 | .fm1 => 8
  | .fQuarter => 9 | .f4 => 10

/-- The 8-bit code of an operand (R103). -/
def Opnd.code : Opnd → BitVec 8
  | .v n => n.setWidth 8
  | .s n => 0x80#8 + n.setWidth 8
  | .p n => 0xA0#8 + n.setWidth 8
  | .lc n => 0xA8#8 + BitVec.ofNat 8 n.val
  | .xi => 0xAB#8
  | .const c => 0xB0#8 + BitVec.ofNat 8 c.num
  | .idx n => 0xC0#8 + n.setWidth 8
  | .rsvd k => if k.val < 4 then 0xAC#8 + BitVec.ofNat 8 k.val else 0xB7#8 + BitVec.ofNat 8 k.val

/-- A permutation byte (R67); `none` takes `RESBITS`. -/
def permOf (x : BitVec 8) : Option Perm :=
  let k : BitVec 5 := x.setWidth 5
  match x.toNat / 32 with
  | 0 => if k = 0#5 then some .ident else none
  | 1 => some (.rot k) | 2 => some (.bcast k) | 3 => some (.bfly k) | 4 => some (.mirror k)
  | 5 => some (.qsw k) | 6 => some (.seg k) | _ => some (.rsvd k)

/-- The byte of a permutation (R67). -/
def Perm.code : Perm → BitVec 8
  | .ident => 0#8
  | .rot k => 0x20#8 + k.setWidth 8 | .bcast k => 0x40#8 + k.setWidth 8 | .bfly k => 0x60#8 + k.setWidth 8
  | .mirror k => 0x80#8 + k.setWidth 8 | .qsw k => 0xA0#8 + k.setWidth 8 | .seg k => 0xC0#8 + k.setWidth 8
  | .rsvd k => 0xE0#8 + k.setWidth 8

/-- Rounding code (R76). -/
def rndOf (x : BitVec 2) : Rnd :=
  match x.toNat with | 0 => .rne | 1 => .rtz | 2 => .rup | _ => .rdn
/-- Code of a rounding mode (R76). -/
def Rnd.code : Rnd → BitVec 2
  | .rne => 0 | .rtz => 1 | .rup => 2 | .rdn => 3

/-- TYPE codes (R105) of the integer mould. -/
def intTyOf (x : BitVec 4) : Option IntTy :=
  match x.toNat with | 1 => some .s32 | 2 => some .u32 | 3 => some .s64 | 4 => some .u64 | _ => none
/-- Code of an integer type (R105). -/
def IntTy.code : IntTy → BitVec 4
  | .s32 => 1 | .u32 => 2 | .s64 => 3 | .u64 => 4

/-- `.s32` or `.u32` (R105). -/
def w32TyOf (x : BitVec 4) : Option W32Ty := match x.toNat with | 1 => some .s32 | 2 => some .u32 | _ => none
/-- Code of `.s32` or `.u32`. -/
def W32Ty.code : W32Ty → BitVec 4 | .s32 => 1 | .u32 => 2

/-- `.s32` or `.s64` (R338). -/
def absTyOf (x : BitVec 4) : Option AbsTy := match x.toNat with | 1 => some .s32 | 3 => some .s64 | _ => none
/-- Code of `.s32` or `.s64`. -/
def AbsTy.code : AbsTy → BitVec 4 | .s32 => 1 | .s64 => 3

/-- Types of the shift mould (R383). -/
def shiftTyOf (x : BitVec 4) : Option ShiftTy :=
  match x.toNat with | 0 => some .b32 | 1 => some .s32 | 2 => some .u32 | _ => none
/-- Code of a shift type. -/
def ShiftTy.code : ShiftTy → BitVec 4 | .b32 => 0 | .s32 => 1 | .u32 => 2

/-- `.b32` or `.u64` (R105). -/
def bitTyOf (x : BitVec 4) : Option BitTy := match x.toNat with | 0 => some .b32 | 4 => some .u64 | _ => none
/-- Code of `.b32` or `.u64`. -/
def BitTy.code : BitTy → BitVec 4 | .b32 => 0 | .u64 => 4

/-- Types of `LEA` (R355). -/
def leaTyOf (x : BitVec 4) : Option LeaTy :=
  match x.toNat with | 2 => some .u32 | 4 => some .u64 | 3 => some .s64 | _ => none
/-- Code of a `LEA` type. -/
def LeaTy.code : LeaTy → BitVec 4 | .u32 => 2 | .u64 => 4 | .s64 => 3

/-- `.f32` or `.f64` (R105). -/
def floatTyOf (x : BitVec 4) : Option FloatTy := match x.toNat with | 9 => some .f32 | 10 => some .f64 | _ => none
/-- Code of `.f32` or `.f64`. -/
def FloatTy.code : FloatTy → BitVec 4 | .f32 => 9 | .f64 => 10

/-- `.f16` or `.bf16` (R105). -/
def halfTyOf (x : BitVec 4) : Option HalfTy := match x.toNat with | 11 => some .f16 | 12 => some .bf16 | _ => none
/-- Code of `.f16` or `.bf16`. -/
def HalfTy.code : HalfTy → BitVec 4 | .f16 => 11 | .bf16 => 12

/-- TYPE codes that `CVT` accepts (R105, R318). -/
def cvtTyOf (x : BitVec 4) : Option CvtTy :=
  match x.toNat with
  | 1 => some .s32 | 2 => some .u32 | 3 => some .s64 | 4 => some .u64 | 5 => some .s16 | 6 => some .s8
  | 7 => some .u8 | 8 => some .s4 | 9 => some .f32 | 10 => some .f64 | 11 => some .f16 | 12 => some .bf16
  | 13 => some .e4m3 | 14 => some .e5m2 | _ => none
/-- Code of a `CVT` type (R105). -/
def CvtTy.code : CvtTy → BitVec 4
  | .s32 => 1 | .u32 => 2 | .s64 => 3 | .u64 => 4 | .s16 => 5 | .s8 => 6 | .u8 => 7 | .s4 => 8
  | .f32 => 9 | .f64 => 10 | .f16 => 11 | .bf16 => 12 | .e4m3 => 13 | .e5m2 => 14

/-- Integer comparison codes (R106). -/
def icmpOf (x : BitVec 4) : Option ICmp :=
  match x.toNat with
  | 0 => some .eq | 1 => some .ne | 2 => some .lt | 3 => some .le | 4 => some .gt | 5 => some .ge | _ => none
/-- Code of an integer comparison. -/
def ICmp.code : ICmp → BitVec 4 | .eq => 0 | .ne => 1 | .lt => 2 | .le => 3 | .gt => 4 | .ge => 5

/-- Float comparison codes (R106). -/
def fcmpOf (x : BitVec 4) : Option FCmp :=
  match x.toNat with
  | 0 => some .eq | 1 => some .ne | 2 => some .lt | 3 => some .le | 4 => some .gt | 5 => some .ge
  | 8 => some .equ | 9 => some .neu | 10 => some .ltu | 11 => some .leu | 12 => some .gtu | 13 => some .geu
  | 14 => some .num | 15 => some .nan | _ => none
/-- Code of a float comparison. -/
def FCmp.code : FCmp → BitVec 4
  | .eq => 0 | .ne => 1 | .lt => 2 | .le => 3 | .gt => 4 | .ge => 5 | .equ => 8 | .neu => 9 | .ltu => 10
  | .leu => 11 | .gtu => 12 | .geu => 13 | .num => 14 | .nan => 15

/-- MTYPE codes (R104). -/
def mtypeOf (x : BitVec 3) : Option MType :=
  match x.toNat with
  | 0 => some .b32 | 1 => some .f32 | 2 => some .bf16 | 3 => some .u8 | 4 => some .s8 | 5 => some .s16
  | 6 => some .u64 | _ => none
/-- Code of a memory type. -/
def MType.code : MType → BitVec 3
  | .b32 => 0 | .f32 => 1 | .bf16 => 2 | .u8 => 3 | .s8 => 4 | .s16 => 5 | .u64 => 6

/-- SPACE codes (R104). -/
def spaceOf (x : BitVec 3) : Option Space :=
  match x.toNat with | 0 => some .sh | 1 => some .sp | 2 => some .span | 3 => some .stk | _ => none
/-- Code of a space. -/
def Space.code : Space → BitVec 3 | .sh => 0 | .sp => 1 | .span => 2 | .stk => 3

/-- SPACE codes 0 to 2 (R195, R302). -/
def space3Of (n : Nat) : Option Space3 :=
  match n with | 0 => some .sh | 1 => some .sp | 2 => some .span | _ => none
/-- Code of a space. -/
def Space3.num : Space3 → Nat | .sh => 0 | .sp => 1 | .span => 2

/-- AOP codes (R302). -/
def atomOpOf (x : BitVec 4) : Option AtomOp :=
  match x.toNat with
  | 0 => some .add | 1 => some .min | 2 => some .max | 3 => some .and | 4 => some .or | 5 => some .xor
  | 6 => some .exch | 7 => some .cas | _ => none
/-- Code of an atomic operation. -/
def AtomOp.code : AtomOp → BitVec 4
  | .add => 0 | .min => 1 | .max => 2 | .and => 3 | .or => 4 | .xor => 5 | .exch => 6 | .cas => 7

/-- Op codes 0 to 5 (R377, R378). -/
def redOpOf (n : Nat) : Option RedOp :=
  match n with
  | 0 => some .add | 1 => some .min | 2 => some .max | 3 => some .and | 4 => some .or | 5 => some .xor | _ => none
/-- Code of a reduction operation. -/
def RedOp.num : RedOp → Nat | .add => 0 | .min => 1 | .max => 2 | .and => 3 | .or => 4 | .xor => 5

/-- ATYPE codes (R302). -/
def atomTyOf (x : BitVec 3) : Option AtomTy :=
  match x.toNat with
  | 0 => some .b32 | 1 => some .s32 | 2 => some .u32 | 3 => some .f32 | 4 => some .u64 | _ => none
/-- Code of an atomic type. -/
def AtomTy.code : AtomTy → BitVec 3 | .b32 => 0 | .s32 => 1 | .u32 => 2 | .f32 => 3 | .u64 => 4

/-- ORD of an `ATOM` (R302). -/
def atomOrdOf (x : BitVec 2) : AtomOrd :=
  match x.toNat with | 0 => .plain | 1 => .acq | 2 => .rel | _ => .ar
/-- Code of an atomic order. -/
def AtomOrd.code : AtomOrd → BitVec 2 | .plain => 0 | .acq => 1 | .rel => 2 | .ar => 3

/-- Types of `REDUX` and `SCAN` (R378). -/
def reduxTyOf (x : BitVec 4) : Option ReduxTy :=
  match x.toNat with | 0 => some .b32 | 1 => some .s32 | 2 => some .u32 | 9 => some .f32 | _ => none
/-- Code of a `REDUX` type. -/
def ReduxTy.code : ReduxTy → BitVec 4 | .b32 => 0 | .s32 => 1 | .u32 => 2 | .f32 => 9

/-- Kinds of `FENCE` (R179). -/
def fenceKindOf (x : BitVec 2) : FenceKind :=
  match x.toNat with | 0 => .acq | 1 => .rel | 2 => .ar | _ => .full
/-- Code of a fence kind. -/
def FenceKind.code : FenceKind → BitVec 2 | .acq => 0 | .rel => 1 | .ar => 2 | .full => 3

/-- Scopes (R174). -/
def scopeOf (x : BitVec 3) : Option Scope :=
  match x.toNat with
  | 0 => some .warp | 1 => some .block | 2 => some .span | 3 => some .die | 4 => some .package
  | 5 => some .domain | 6 => some .sys | _ => none
/-- Code of a scope. -/
def Scope.code : Scope → BitVec 3
  | .warp => 0 | .block => 1 | .span => 2 | .die => 3 | .package => 4 | .domain => 5 | .sys => 6

/-- Modes of `VOTE` (R400). -/
def voteModeOf (x : BitVec 2) : VoteMode :=
  match x.toNat with | 0 => .some | 1 => .every | 2 => .agree | _ => .mask
/-- Code of a vote mode. -/
def VoteMode.code : VoteMode → BitVec 2 | .some => 0 | .every => 1 | .agree => 2 | .mask => 3

/-- Modes of `PMOV` (R372). -/
def pmovModeOf (x : BitVec 2) : PmovMode :=
  match x.toNat with | 0 => .p | 1 => .tomask | 2 => .nz | _ => .frommask
/-- Code of a `PMOV` mode. -/
def PmovMode.code : PmovMode → BitVec 2 | .p => 0 | .tomask => 1 | .nz => 2 | .frommask => 3

/-- DIR (R162). -/
def dirOf (b : Bool) : Dir := if b then .out else .inn
/-- Code of a direction. -/
def Dir.bit : Dir → Bool | .inn => false | .out => true

/-- DONE (R162). -/
def doneOf (x : BitVec 2) : Option Done :=
  match x.toNat with | 0 => some .none | 1 => some .bar | 2 => some .stamp | _ => none
/-- Code of a completion. -/
def Done.code : Done → BitVec 2 | .none => 0 | .bar => 1 | .stamp => 2

/-- OP of `GLAZE` (R170). -/
def glazeOpOf (x : BitVec 2) : Option GlazeOp :=
  match x.toNat with | 0 => some .reg | 1 => some .swap | 2 => some .rel | _ => none
/-- Code of a `GLAZE` operation. -/
def GlazeOp.code : GlazeOp → BitVec 2 | .reg => 0 | .swap => 1 | .rel => 2

/-! ### Fields of words (R100) -/

/-- Bits [hi:lo] of a word, as a value of `n` = hi − lo + 1 bits. -/
abbrev Word.fld (w : Word) (lo n : Nat) : BitVec n := w.extractLsb' lo n

/-- RRR (R100). -/
def packRrr (op : BitVec 8) (d a b : BitVec 7) (g : BitVec 3) : Word := op ++ d ++ a ++ b ++ g
/-- RI (R100). -/
def packRi (op : BitVec 8) (d a : BitVec 7) (i : BitVec 10) : Word := op ++ d ++ a ++ i
/-- BR (R100). -/
def packBr (op : BitVec 8) (u : Bool) (g : Guard) (off : BitVec 19) : Word :=
  op ++ BitVec.ofBool u ++ g.p ++ BitVec.ofBool g.neg ++ off
/-- Word 0 of L2, L3 and LI (R100). -/
def packB4 (x3 x2 x1 x0 : BitVec 8) : Word := x3 ++ x2 ++ x1 ++ x0
/-- Word 1 of L2 and L3 (R100): two bytes, MOD, the guard and four zero bits. -/
def packL (x3 x2 m : BitVec 8) (g : Guard) : Word := x3 ++ x2 ++ m ++ g.p ++ BitVec.ofBool g.neg ++ 0#4

/-- The guard of word 1, with its zero bits checked (R101, R102). -/
def guardOf (w1 : Word) : Option Guard :=
  let g : Guard := { p := w1.fld 5 3, neg := w1.getLsbD 4 }
  if g.wf && w1.fld 0 4 == 0#4 then some g else none

/-- `RESBITS` unless the condition holds (R102). -/
def need {α : Type} (b : Bool) (x : Option α) : Option α := if b then x else none

/-- RRR fields with two sources. -/
def rrrOf (w : Word) : Rrr := { d := w.fld 17 7, a := w.fld 10 7, b := w.fld 3 7, g := w.fld 0 3 }
/-- RRR fields with one source; the unused B must be 0 (R296). -/
def rrOf (w : Word) : Option Rr :=
  need (w.fld 3 7 == 0#7) (some { d := w.fld 17 7, a := w.fld 10 7, g := w.fld 0 3 })
/-- RI fields of a short shift: IMM10 from 0 to 31 (R383). -/
def shiOf (w : Word) : Option Shi :=
  need (w.fld 5 5 == 0#5) (some { d := w.fld 17 7, a := w.fld 10 7, n := w.fld 0 5 })
/-- RI fields of a short `LD` or `ST`. -/
def miOf (w : Word) : Mi := { d := w.fld 17 7, a := w.fld 10 7, off := w.fld 0 10 }

/-- D, A, B of word 0 (R100). -/
abbrev Word.bD (w : Word) : BitVec 8 := w.fld 16 8
/-- A of word 0. -/
abbrev Word.bA (w : Word) : BitVec 8 := w.fld 8 8
/-- B of word 0. -/
abbrev Word.bB (w : Word) : BitVec 8 := w.fld 0 8
/-- Top byte of word 1: PERMA of L2, C of L3. -/
abbrev Word.b3 (w : Word) : BitVec 8 := w.fld 24 8
/-- Second byte of word 1: PERMB of L2, PERMA of L3. -/
abbrev Word.b2 (w : Word) : BitVec 8 := w.fld 16 8
/-- MOD of word 1. -/
abbrev Word.mod (w : Word) : BitVec 8 := w.fld 8 8

/-- L2 with two sources. -/
def l2Of (w0 w1 : Word) : Option L2 :=
  (permOf w1.b3).bind fun pa => (permOf w1.b2).bind fun pb => (guardOf w1).bind fun g =>
    some { d := opndOf w0.bD, a := opndOf w0.bA, b := opndOf w0.bB, pa := pa, pb := pb, g := g }
/-- L2 with one source: B and PERMB are unused and zero (R102). -/
def l2uOf (w0 w1 : Word) : Option L2u :=
  need (w0.bB == 0#8 && w1.b2 == 0#8) <|
    (permOf w1.b3).bind fun pa => (guardOf w1).bind fun g =>
      some { d := opndOf w0.bD, a := opndOf w0.bA, pa := pa, g := g }
/-- L2 with an address only: D, B and PERMB are zero. -/
def l2aOf (w0 w1 : Word) : Option L2a :=
  need (w0.bD == 0#8 && w0.bB == 0#8 && w1.b2 == 0#8) <|
    (permOf w1.b3).bind fun pa => (guardOf w1).bind fun g => some { a := opndOf w0.bA, pa := pa, g := g }
/-- L2 with two sources and no destination operand. -/
def l2abOf (w0 w1 : Word) : Option L2ab :=
  (permOf w1.b3).bind fun pa => (permOf w1.b2).bind fun pb => (guardOf w1).bind fun g =>
    some { a := opndOf w0.bA, b := opndOf w0.bB, pa := pa, pb := pb, g := g }
/-- L3. -/
def l3Of (w0 w1 : Word) : Option L3 :=
  (permOf w1.b2).bind fun pa => (guardOf w1).bind fun g =>
    some { d := opndOf w0.bD, a := opndOf w0.bA, b := opndOf w0.bB, c := opndOf w1.b3, pa := pa, g := g }
/-- Guard and offset of a BR form (R100, R101). -/
def brOf (w : Word) : Option Br :=
  let g : Guard := { p := w.fld 20 3, neg := w.getLsbD 19 }
  need g.wf (some { g := g, off := w.fld 0 19 })

/-- MOD of the float mould (R104, R325): TYPE `t`, RND, FTZ, X = 0. -/
def fmodOf (t : BitVec 4) (m : BitVec 8) : Option FMod :=
  need (m.extractLsb' 4 4 == t && m.getLsbD 0 == false)
    (some { rnd := rndOf (m.extractLsb' 2 2), ftz := m.getLsbD 1 })
/-- MOD byte of the float mould. -/
def fmodByte (t : BitVec 4) (m : FMod) (x : Bool) : BitVec 8 :=
  t ++ m.rnd.code ++ BitVec.ofBool m.ftz ++ BitVec.ofBool x

/-- FTZ of a MOD byte that is 0x90 or 0x92 (R132, R300). -/
def ftzOf (m : BitVec 8) : Option Bool := if m = 0x90#8 then some false else if m = 0x92#8 then some true else none
/-- 0x90, or 0x92 with FTZ. -/
def ftzByte (ftz : Bool) : BitVec 8 := if ftz then 0x92#8 else 0x90#8

/-- TYPE in [7:4] with [3:0] zero (R339). -/
def tyOnly {α : Type} (f : BitVec 4 → Option α) (m : BitVec 8) : Option α :=
  need (m.extractLsb' 0 4 == 0#4) (f (m.extractLsb' 4 4))
/-- A MOD byte with TYPE in [7:4]. -/
def tyByte (t : BitVec 4) (lo : BitVec 4) : BitVec 8 := t ++ lo

/-- Carry fields of `IADDC` and `ISUBB` (R128), from PERMB and MOD. -/
def carryOf (pb m : BitVec 8) : Option Carry :=
  need (m.extractLsb' 4 4 == 2#4 && m.getLsbD 0 == false && pb.extractLsb' 4 4 == 0#4
      && (pb.getLsbD 3 || pb.extractLsb' 0 3 == 0#3)) <|
    some { cin := if pb.getLsbD 3 then some (pb.extractLsb' 0 3) else none, cout := m.extractLsb' 1 3 }
/-- PERMB of `IADDC` and `ISUBB`. -/
def carryPermB (k : Carry) : BitVec 8 :=
  match k.cin with | some p => 0#4 ++ 1#1 ++ p | none => 0#8
/-- MOD of the carry mnemonics (R128). -/
def carryMod (cout : BitVec 3) : BitVec 8 := 2#4 ++ cout ++ 0#1

/-- MOD and op of `REDUX` (X 0) and `SCAN` (R378, R384). -/
def reduxModOf (op m : BitVec 8) : Option ReduxMod :=
  (redOpOf op.toNat).bind fun o => (reduxTyOf (m.extractLsb' 4 4)).bind fun t =>
    let r : ReduxMod := { op := o, ty := t, rnd := rndOf (m.extractLsb' 2 2), ftz := m.getLsbD 1 }
    need r.wf (some r)

/-- MOD of `TCOPY` (R162). -/
def tcModOf (m : BitVec 8) : Option TcMod :=
  (doneOf (m.extractLsb' 1 2)).bind fun dn =>
    let r : TcMod := { dir := dirOf (m.getLsbD 0), done := dn, shadow := m.getLsbD 3 }
    need (m.extractLsb' 4 4 == 0#4 && !(r.shadow && r.dir == .out)) (some r)
/-- MOD byte of a `TCOPY`. -/
def TcMod.byte (m : TcMod) : BitVec 8 := 0#4 ++ BitVec.ofBool m.shadow ++ m.done.code ++ BitVec.ofBool m.dir.bit

/-- Fields that must all be zero (R102). -/
def allZero (xs : List (BitVec 8)) : Bool := xs.all (· == 0#8)

/-! ### The opcode map (R108) -/

/-- One-word forms. Outer `none`: no such opcode (`ILLOP`); inner `none`: `RESBITS`. -/
def decodeShort (op : Nat) (w : Word) : Option (Option Instr) :=
  let rrr (f : Rrr → Instr) : Option (Option Instr) := some (some (f (rrrOf w)))
  let rr (f : Rr → Instr) : Option (Option Instr) := some ((rrOf w).map f)
  let fixed (i : Instr) : Option (Option Instr) := some (need (w.fld 0 24 == 7#24) (some i))
  match op with
  | 0x01 => rr .mov | 0x03 => rrr .iadd | 0x04 => rrr .isub | 0x07 => rrr .imul | 0x08 => rrr .imulhi
  | 0x0B => rr .iabs | 0x0C => rrr .imin | 0x0D => rrr .imax
  | 0x0E => some ((shiOf w).map .shl) | 0x0F => some ((shiOf w).map .shr) | 0x10 => some ((shiOf w).map .sar)
  | 0x11 => rrr .and | 0x12 => rrr .or | 0x13 => rrr .xor | 0x15 => rr .popc | 0x16 => rr .clz | 0x17 => rr .brev
  | 0x1F => rrr .fadd | 0x20 => rrr .fsub | 0x21 => rrr .fmul | 0x23 => rrr .fmin | 0x24 => rrr .fmax
  | 0x2C => rr .rcp | 0x2D => rr .rsq | 0x2E => rr .sqrt | 0x2F => rr .exp2 | 0x30 => rr .log2
  | 0x31 => rr .sin | 0x32 => rr .cos | 0x33 => rr .tanh
  | 0x3D => some (some (.ld (miOf w))) | 0x3E => some (some (.st (miOf w)))
  | 0x41 => some (need (w.fld 5 19 == 0#19) ((scopeOf (w.fld 2 3)).map (.fence (fenceKindOf (w.fld 0 2)))))
  | 0x42 => fixed .ifence
  | 0x45 => some (need (w.fld 1 23 == 0#23) (some (.bar (w.getLsbD 0))))
  | 0x4E => some (need (w.fld 2 22 == 0#22) (some (.mclr (w.fld 0 2))))
  | 0x4F => some (need (w.fld 2 15 == 0#15) (some (.mwm (w.fld 17 7) (w.fld 0 2))))
  | 0x5C => some ((brOf w).map (.bra (w.getLsbD 23)))
  | 0x5D => some (need (w.fld 17 7 == 0#7 && w.fld 3 7 == 0#7) (some (.brx (w.fld 10 7) (w.fld 0 3))))
  | 0x5E => some (need (w.getLsbD 23 == false) ((brOf w).map .call))
  | 0x5F => some (need (w.fld 17 7 == 0#7 && w.fld 3 7 == 0#7) (some (.ret (w.fld 10 7) (w.fld 0 3))))
  | 0x60 => some (need (w.getLsbD 23 == false) ((brOf w).map .meet))
  | 0x61 => some (need (w.fld 3 21 == 0#21) (some (.exit (w.fld 0 3))))
  | 0x63 => fixed .yieldTurn
  | 0x64 => some (need (w.fld 19 4 == 14#4) (some (.tryTx (w.getLsbD 23) (w.fld 0 19))))
  | 0x65 => fixed .commit
  | 0x66 => some (need (w.fld 8 16 == 0#16) (some (.abort (w.fld 0 8))))
  | 0x67 => fixed .nop
  | 0x68 => some (need (w.fld 10 14 == 0#14) (some (.bkpt (w.fld 0 10))))
  | 0x69 => some (need (w.fld 10 14 == 0#14) (some (.trap (w.fld 0 10))))
  | 0x6A => fixed .rte
  | 0x6D =>
      if w.fld 10 14 == 0#14 then some (some (.setxi (w.fld 0 10)))
      else some (need (w.fld 15 9 == 4#9) (some (.setxiS (w.fld 10 5) (w.fld 0 10))))
  | 0x6F => fixed .snap
  | 0x70 => some (need (w.fld 0 24 == 0#24) (some .kstep))
  | _ => none

/-- Two-word forms; `op` is the base opcode, without the L bit. -/
def decodeLong (op : Nat) (w0 w1 : Word) : Option (Option Instr) :=
  let m := w1.mod
  let int2 (f : L2 → IntTy → Instr) : Option (Option Instr) :=
    some ((l2Of w0 w1).bind fun x => (tyOnly intTyOf m).map (f x))
  let w2 (f : L2 → W32Ty → Instr) : Option (Option Instr) :=
    some ((l2Of w0 w1).bind fun x => (tyOnly w32TyOf m).map (f x))
  let sh2 (f : L2 → ShiftTy → Instr) : Option (Option Instr) :=
    some ((l2Of w0 w1).bind fun x => (tyOnly shiftTyOf m).map (f x))
  let bit2 (f : L2 → Instr) : Option (Option Instr) := some (need (m == 0#8) ((l2Of w0 w1).map f))
  let bit1 (f : L2u → Instr) : Option (Option Instr) := some (need (m == 0#8) ((l2uOf w0 w1).map f))
  let sfu (f : L2u → Bool → Instr) : Option (Option Instr) :=
    some ((l2uOf w0 w1).bind fun x => (ftzOf m).map (f x))
  let flt2 (f : L2 → FMod → Instr) : Option (Option Instr) :=
    some ((l2Of w0 w1).bind fun x => (fmodOf 9#4 m).map (f x))
  let fmm (f : L2 → Bool → Instr) : Option (Option Instr) :=
    some ((l2Of w0 w1).bind fun x => (fmodOf 9#4 m).bind fun k => need (k.rnd == .rne) (some (f x k.ftz)))
  let adr (f : L2a → Instr) : Option (Option Instr) := some (need (m == 0#8) ((l2aOf w0 w1).map f))
  let tree : BitVec 4 := m.extractLsb' 0 4
  let q1 (f : BitVec 4 → L2u → Instr) : Option (Option Instr) :=
    some (need (m.extractLsb' 4 4 == 0#4) ((l2uOf w0 w1).map (f tree)))
  let img (f : BitVec 4 → L2a → Instr) : Option (Option Instr) :=
    some (need (m.extractLsb' 4 4 == 0#4) ((l2aOf w0 w1).map (f tree)))
  let plain : Option Guard := need (allZero [w1.b3, w1.b2]) (guardOf w1)
  match op with
  | 0x01 => some ((l2uOf w0 w1).bind fun x => (tyOnly bitTyOf m).map (.movLong x))
  | 0x02 => some (need (allZero [w0.bA, w0.bB]) (some (.movi (opndOf w0.bD) w1)))
  | 0x03 => int2 .iaddLong | 0x04 => int2 .isubLong
  | 0x05 => some ((permOf w1.b3).bind fun pa => (guardOf w1).bind fun g => (carryOf w1.b2 m).map fun k =>
      .iaddc (opndOf w0.bD) (opndOf w0.bA) (opndOf w0.bB) pa k g)
  | 0x06 => some ((permOf w1.b3).bind fun pa => (guardOf w1).bind fun g => (carryOf w1.b2 m).map fun k =>
      .isubb (opndOf w0.bD) (opndOf w0.bA) (opndOf w0.bB) pa k g)
  | 0x07 => w2 .imulLong | 0x08 => w2 .imulhiLong
  | 0x09 => some ((l3Of w0 w1).bind fun x => (tyOnly w32TyOf m).map (.imad x))
  | 0x0A => some (need (m.extractLsb' 4 4 == 2#4 && m.getLsbD 0 == false)
      ((l3Of w0 w1).map fun x => .imadw x (m.extractLsb' 1 3)))
  | 0x0B => some ((l2uOf w0 w1).bind fun x => (tyOnly absTyOf m).map (.iabsLong x))
  | 0x0C => int2 .iminLong | 0x0D => int2 .imaxLong
  | 0x0E => sh2 .shlLong | 0x0F => sh2 .shrLong | 0x10 => sh2 .sarLong
  | 0x11 => bit2 .andLong | 0x12 => bit2 .orLong | 0x13 => bit2 .xorLong
  | 0x14 => some ((l3Of w0 w1).map (.logic3 · m))
  | 0x15 => bit1 .popcLong | 0x16 => bit1 .clzLong | 0x17 => bit1 .brevLong
  | 0x18 => some ((l3Of w0 w1).bind fun x => (tyOnly w32TyOf m).map (.bfx x))
  | 0x19 => some (need (m == 0#8) ((l3Of w0 w1).map .bfi))
  | 0x1A => some ((l2Of w0 w1).bind fun x => (intTyOf (m.extractLsb' 4 4)).bind fun t =>
      (icmpOf (m.extractLsb' 0 4)).map (.icmp x t))
  | 0x1B => some ((l3Of w0 w1).bind fun x => (tyOnly bitTyOf m).map (.sel x))
  | 0x1C => some ((l3Of w0 w1).bind fun x => (tyOnly leaTyOf m).map (.lea x))
  | 0x1D => some (need (m.extractLsb' 4 4 == 0#4) (plain.map fun g =>
      .plop (opndOf w0.bD) (opndOf w0.bA) (opndOf w0.bB) (m.extractLsb' 0 4) g))
  | 0x1E => some (need (m.extractLsb' 2 6 == 0#6) ((l2uOf w0 w1).map (.pmov (pmovModeOf (m.extractLsb' 0 2)))))
  | 0x1F => flt2 .faddLong | 0x20 => flt2 .fsubLong | 0x21 => flt2 .fmulLong
  | 0x22 => some ((l3Of w0 w1).bind fun x => (fmodOf 9#4 m).map (.ffma x))
  | 0x23 => fmm .fminLong | 0x24 => fmm .fmaxLong
  | 0x25 => some ((l2Of w0 w1).bind fun x => (floatTyOf (m.extractLsb' 4 4)).bind fun t =>
      (fcmpOf (m.extractLsb' 0 4)).map (.fcmp x t))
  | 0x26 => some ((l2uOf w0 w1).bind fun x => (tyOnly floatTyOf m).map (.fclass x))
  | 0x27 => some ((l2uOf w0 w1).bind fun x => (floatTyOf (m.extractLsb' 4 4)).map fun t =>
      .frnd x t { rnd := rndOf (m.extractLsb' 2 2), ftz := m.getLsbD 1 } (m.getLsbD 0))
  | 0x28 => some ((l2Of w0 w1).bind fun x => (fmodOf 10#4 m).map (.dadd x))
  | 0x29 => some ((l3Of w0 w1).bind fun x => (fmodOf 10#4 m).map (.dfma x))
  | 0x2A => some ((l3Of w0 w1).bind fun x => (halfTyOf (m.extractLsb' 4 4)).bind fun t =>
      (fmodOf t.code m).map (.halfmad x t))
  | 0x2B => some (need (w0.fld 2 6 == 0#6 && w1.b2 == 0#8) ((permOf w1.b3).bind fun pa => (guardOf w1).bind fun g =>
      (cvtTyOf (m.extractLsb' 4 4)).bind fun dt => (cvtTyOf (m.extractLsb' 0 4)).map fun st =>
        .cvt { d := opndOf w0.bD, a := opndOf w0.bA, pa := pa, g := g } (rndOf (w0.fld 0 2)) dt st))
  | 0x2C => sfu .rcpLong | 0x2D => sfu .rsqLong | 0x2E => sfu .sqrtLong | 0x2F => sfu .exp2Long
  | 0x30 => sfu .log2Long | 0x31 => sfu .sinLong | 0x32 => sfu .cosLong | 0x33 => sfu .tanhLong
  | 0x34 => some (need (w0.fld 3 5 == 0#5 && w1.b2 == 0#8) ((permOf w1.b3).bind fun pa => (guardOf w1).bind fun g =>
      (ftzOf m).map (.actv { d := opndOf w0.bD, a := opndOf w0.bA, pa := pa, g := g } (Fin.ofNat 8 (w0.fld 0 3).toNat))))
  | 0x35 => some (need (m == 0#8 && w0.fld 19 5 == 0#5 && w0.bB == 0#8 && w1.b2 == 0#8)
      ((permOf w1.b3).bind fun pa => (guardOf w1).map fun g =>
        .ldact (Fin.ofNat 8 (w0.fld 16 3).toNat) { a := opndOf w0.bA, pa := pa, g := g }))
  | 0x36 => bit1 fun f => .rng f.d { o := f.a, perm := f.pa } f.g
  | 0x37 => some (need (m.extractLsb' 1 3 == 0#3) ((l2Of w0 w1).bind fun x =>
      (bitTyOf (m.extractLsb' 4 4)).map fun t => .shfl x t (m.getLsbD 0)))
  | 0x38 => some ((l2Of w0 w1).bind fun x => (tyOnly bitTyOf m).map (.qswz x))
  | 0x39 => some (need (m.extractLsb' 2 6 == 0#6 && w0.bB == 0#8) (plain.map
      (.vote (voteModeOf (m.extractLsb' 0 2)) (opndOf w0.bD) (opndOf w0.bA))))
  | 0x3A => some (need (m.getLsbD 0 == false && w1.b2 == 0#8) ((permOf w1.b3).bind fun pa => (guardOf w1).bind fun g =>
      (reduxModOf w0.bB m).map (.redux { d := opndOf w0.bD, a := opndOf w0.bA, pa := pa, g := g })))
  | 0x3B => some (need (w1.b2 == 0#8) ((permOf w1.b3).bind fun pa => (guardOf w1).bind fun g =>
      (reduxModOf w0.bB m).map fun r => .scan { d := opndOf w0.bD, a := opndOf w0.bA, pa := pa, g := g } r (m.getLsbD 0)))
  | 0x3C => some (need (m.extractLsb' 1 3 == 0#3) ((l2uOf w0 w1).bind fun x =>
      (bitTyOf (m.extractLsb' 4 4)).map fun t => .matchLanes x t (m.getLsbD 0)))
  | 0x3D => some (need (w0.bB == 0#8 && m.getLsbD 1 == false) ((permOf w1.b3).bind fun pa => (guardOf w1).bind fun g =>
      (spaceOf (m.extractLsb' 5 3)).bind fun s => (mtypeOf (m.extractLsb' 2 3)).map fun t =>
        .ldLong s t (m.getLsbD 0) { d := opndOf w0.bD, a := opndOf w0.bA, pa := pa, g := g } w1.b2))
  | 0x3E => some (need (m.getLsbD 0 == false) ((l2abOf w0 w1).bind fun x =>
      (spaceOf (m.extractLsb' 5 3)).bind fun s => (mtypeOf (m.extractLsb' 2 3)).map fun t =>
        .stLong s t (m.getLsbD 1) x w0.bD))
  | 0x3F => some (need (w1.fld 16 4 == 0#4) ((atomOpOf (w1.fld 20 4)).bind fun o =>
      (space3Of (m.extractLsb' 5 3).toNat).bind fun s => (atomTyOf (m.extractLsb' 2 3)).bind fun t =>
        need (atomPairOk o t && (o == .cas || w1.b3 == 0#8)) ((guardOf w1).map fun g =>
          .atom o s t (atomOrdOf (m.extractLsb' 0 2)) (opndOf w0.bD) (opndOf w0.bA) (opndOf w0.bB) (opndOf w1.b3) g)))
  | 0x40 => some ((redOpOf (m.extractLsb' 4 4).toNat).bind fun o => (space3Of w0.bD.toNat).bind fun s =>
      (atomTyOf (m.extractLsb' 1 3)).bind fun t => need (atomPairOk o.atom t)
        ((l2abOf w0 w1).map (.red o s t (m.getLsbD 0))))
  | 0x43 => some (need (m.getLsbD 1 == false && (m.extractLsb' 2 3 == 0#3 || m.extractLsb' 2 3 == 6#3))
      ((space3Of (m.extractLsb' 5 3).toNat).bind fun s => (l2Of w0 w1).map
        (.waitaddr s (m.extractLsb' 2 3 == 6#3) (m.getLsbD 0))))
  | 0x44 => some (need (m.extractLsb' 0 5 == 0#5) ((space3Of (m.extractLsb' 5 3).toNat).bind fun s =>
      (l2aOf w0 w1).map (.wake s)))
  | 0x46 => some ((tcModOf m).bind fun t => (l3Of w0 w1).bind fun x =>
      need (t.done != .none || w1.b3 == 0#8) (some (.tcopy t x)))
  | 0x47 => some (need (m.extractLsb' 2 6 == 0#6 && w0.bB == 0#8 && w1.b2 == 0#8 && (m.getLsbD 1 || w1.b3 == 0#8))
      ((guardOf w1).map fun g =>
        .acopy (dirOf (m.getLsbD 0)) (m.getLsbD 1) (opndOf w0.bD) (opndOf w0.bA) (opndOf w1.b3) g))
  | 0x48 => some (need (allZero [w0.bD, w1.b2, m]) ((permOf w1.b3).bind fun pa => (guardOf w1).map fun g =>
      .ckick (opndOf w0.bA) (opndOf w0.bB) pa g))
  | 0x49 => adr .cwait
  | 0x4A => some (need (allZero [w0.bD, w1.b2, m]) ((permOf w1.b3).bind fun pa => (guardOf w1).map fun g =>
      .binit (opndOf w0.bA) (opndOf w0.bB) pa g))
  | 0x4B => some (need (m.extractLsb' 2 6 == 0#6 && w0.fld 18 6 == 0#6) ((glazeOpOf (m.extractLsb' 0 2)).bind fun o =>
      need (o == .reg || allZero [w0.bA, w0.bB]) (plain.map
        (.glaze o (Fin.ofNat 4 (w0.fld 16 2).toNat) (opndOf w0.bA) (opndOf w0.bB)))))
  | 0x4C => adr .mma
  | 0x4D => some (need (m.extractLsb' 2 6 == 0#6) ((l2uOf w0 w1).map (.mrd · (m.extractLsb' 0 2))))
  | 0x50 => some (need (m == 0#8 && w0.fld 18 6 == 0#6 && w0.bB == 0#8 && w1.b2 == 0#8)
      ((permOf w1.b3).bind fun pa => (guardOf w1).map fun g =>
        .chload (Fin.ofNat 4 (w0.fld 16 2).toNat) { a := opndOf w0.bA, pa := pa, g := g }))
  | 0x51 => some (need (m.extractLsb' 2 6 == 0#6) ((l3Of w0 w1).map
      (.chrun · (Fin.ofNat 4 (m.extractLsb' 0 2).toNat))))
  | 0x52 => some (need (allZero [w0.bD, w0.bA, w0.bB]) (plain.bind fun g =>
      let k := (m.extractLsb' 4 4).toNat
      if k = 0 then some (.wcfg tree none g)
      else if 4 ≤ k ∧ k ≤ 14 then some (.wcfg tree (some (Fin.ofNat 11 (k - 4))) g) else none))
  | 0x53 => some (need (m.extractLsb' 5 3 == 0#3 && w0.bD == 0#8) <|
      if m.getLsbD 4 then
        (permOf w1.b3).bind fun pa => (guardOf w1).map fun g =>
          .wset tree (some w1.b2) { a := opndOf w0.bA, b := opndOf w0.bB, pa := pa, pb := .ident, g := g }
      else (l2abOf w0 w1).map (.wset tree none))
  | 0x54 => some (need (m.extractLsb' 5 3 == 0#3 && w0.bD == 0#8) ((l2abOf w0 w1).map (.wadd tree (m.getLsbD 4))))
  | 0x55 => q1 .wget
  | 0x56 => some (need (m.extractLsb' 4 4 == 0#4 && allZero [w0.bA, w0.bB]) (plain.map (.wsum tree (opndOf w0.bD))))
  | 0x57 => q1 .wpre | 0x58 => q1 .wfind | 0x59 => q1 .wcut
  | 0x5A => img .wload | 0x5B => img .wsave
  | 0x62 => some (need (w0.bD == 0#8 && w0.fld 3 5 == 0#5 && w0.fld 0 2 != 3#2) <|
      let n := Fin.ofNat 3 (w0.fld 0 2).toNat
      if w0.getLsbD 2 then need (w1.fld 5 27 == 0#27) (some (.loop n w0.bA (.sreg (w1.fld 0 5))))
      else some (.loop n w0.bA (.imm w1)))
  | 0x6B => some (need (allZero [w0.bA, w0.bB]) (plain.map (.getsr (opndOf w0.bD) m)))
  | 0x6C => some ((l2aOf w0 w1).map (.setsr m))
  | 0x6E => some (need (allZero [w0.bA, w0.bB, m]) (plain.map (.qfeat (opndOf w0.bD))))
  | 0x71 => some (need (m == 0#8 && w0.fld 19 5 == 0#5) (plain.map
      (.declw (Fin.ofNat 8 (w0.fld 16 3).toNat) (opndOf w0.bA) (opndOf w0.bB))))
  | 0x72 => some (need (allZero [w0.bB, m]) (plain.map (.ltag (opndOf w0.bD) (opndOf w0.bA))))
  | _ => none

/-- Is the opcode byte one of an instruction (R109)? The length follows from the L bit alone (R100). -/
def decodeWords (w0 w1 : Word) : Except DecodeErr Instr :=
  let r := if w0.getLsbD 31 then decodeLong (w0.fld 24 7).toNat w0 w1 else decodeShort (w0.fld 24 7).toNat w0
  match r with
  | none => .error .illop
  | some none => .error .resbits
  | some (some i) => .ok i

/-- How many words an instruction's first word says it has (R100). -/
def wordLen (w0 : Word) : Nat := if w0.getLsbD 31 then 2 else 1

/-- What a list of bytes begins with: an instruction and the bytes after it, a refusal, or too few bytes. -/
inductive Decoded where
  | ok (i : Instr) (rest : List Byte)
  | refused (e : DecodeErr)
  | short
  deriving DecidableEq, Repr

/-- Decode the bytes of a code stream (R4: little-endian words). -/
def decode (bytes : List Byte) : Decoded :=
  match bytes with
  | a :: b :: c :: d :: rest =>
    let w0 : Word := BitVec.ofNat 32 (leNat [a, b, c, d])
    if wordLen w0 = 1 then
      match decodeWords w0 0#32 with
      | .ok i => .ok i rest
      | .error e => .refused e
    else match rest with
      | e :: f :: g :: h :: rest' =>
        match decodeWords w0 (BitVec.ofNat 32 (leNat [e, f, g, h])) with
        | .ok i => .ok i rest'
        | .error x => .refused x
      | _ => .short
  | _ => .short

/-- The instruction whose bits are `w`, bit 0 the least significant bit of the first word; bits above
`nbits` are 0. -/
def decodeTableWord (nbits w : Nat) : Option Instr :=
  match decode (leBytes 8 (w % 2 ^ nbits)) with
  | .ok i _ => some i
  | _ => none

/-! ### The encoder -/

/-- Words of an RRR form. -/
def encRrr (op : BitVec 8) (f : Rrr) : List Word := [packRrr op f.d f.a f.b f.g]
/-- Words of an RRR form with one source. -/
def encRr (op : BitVec 8) (f : Rr) : List Word := [packRrr op f.d f.a 0 f.g]
/-- Words of a short shift. -/
def encShi (op : BitVec 8) (f : Shi) : List Word := [packRi op f.d f.a (f.n.setWidth 10)]
/-- Words of an L2 form with two sources. -/
def encL2 (op m : BitVec 8) (f : L2) : List Word :=
  [packB4 op f.d.code f.a.code f.b.code, packL f.pa.code f.pb.code m f.g]
/-- Words of an L2 form with one source. -/
def encL2u (op m : BitVec 8) (f : L2u) : List Word :=
  [packB4 op f.d.code f.a.code 0, packL f.pa.code 0 m f.g]
/-- Words of an L2 form with an address; D is a plain number. -/
def encL2a (op d m : BitVec 8) (f : L2a) : List Word := [packB4 op d f.a.code 0, packL f.pa.code 0 m f.g]
/-- Words of an L2 form with two sources; D is a plain number. -/
def encL2ab (op d m : BitVec 8) (f : L2ab) : List Word :=
  [packB4 op d f.a.code f.b.code, packL f.pa.code f.pb.code m f.g]
/-- Words of an L3 form. -/
def encL3 (op m : BitVec 8) (f : L3) : List Word :=
  [packB4 op f.d.code f.a.code f.b.code, packL f.c.code f.pa.code m f.g]
/-- Words of an L2 form without permutations. -/
def encPlain (op d a b m : BitVec 8) (g : Guard) : List Word := [packB4 op d a b, packL 0 0 m g]

/-- MOD of `LD`, `ST` and `WAITADDR` (R104). -/
def memMod (space : BitVec 3) (ty : BitVec 3) (ord : BitVec 2) : BitVec 8 := space ++ ty ++ ord

/-- The words of a well-formed instruction; an event has none. -/
def encode : Instr → List Word
  | .abort imm => [packRi 0x66 0 0 (imm.setWidth 10)]
  | .acopy dir cnt d a c g =>
      [packB4 0xC7 d.code a.code 0, packL c.code 0 (0#6 ++ BitVec.ofBool cnt ++ BitVec.ofBool dir.bit) g]
  | .actv f t z => [packB4 0xB4 f.d.code f.a.code (BitVec.ofNat 8 t.val), packL f.pa.code 0 (ftzByte z) f.g]
  | .and f => encRrr 0x11 f
  | .andLong f => encL2 0x91 0 f
  | .atom op sp ty ord d a b c g =>
      [packB4 0xBF d.code a.code b.code,
        packL c.code (op.code ++ 0#4) (BitVec.ofNat 3 sp.num ++ ty.code ++ ord.code) g]
  | .bar sp => [packRi 0x45 0 0 (0#9 ++ BitVec.ofBool sp)]
  | .bfi f => encL3 0x99 0 f
  | .bfx f ty => encL3 0x98 (tyByte ty.code 0) f
  | .binit a b pa g => [packB4 0xCA 0 a.code b.code, packL pa.code 0 0 g]
  | .bkpt imm => [packRi 0x68 0 0 imm]
  | .bra u f => [packBr 0x5C u f.g f.off]
  | .brev f => encRr 0x17 f
  | .brevLong f => encL2u 0x97 0 f
  | .brx a g => [packRrr 0x5D 0 a 0 g]
  | .call f => [packBr 0x5E false f.g f.off]
  | .chload k f => encL2a 0xD0 (BitVec.ofNat 8 k.val) 0 f
  | .chrun f k => encL3 0xD1 (BitVec.ofNat 8 k.val) f
  | .ckick a b pa g => [packB4 0xC8 0 a.code b.code, packL pa.code 0 0 g]
  | .clz f => encRr 0x16 f
  | .clzLong f => encL2u 0x96 0 f
  | .commit => [packRrr 0x65 0 0 0 7]
  | .cos f => encRr 0x32 f
  | .cosLong f z => encL2u 0xB2 (ftzByte z) f
  | .cvt f r dt st =>
      [packB4 0xAB f.d.code f.a.code (0#6 ++ r.code), packL f.pa.code 0 (dt.code ++ st.code) f.g]
  | .cwait f => encL2a 0xC9 0 0 f
  | .dadd f m => encL2 0xA8 (fmodByte 10 m false) f
  | .declw slot a b g => encPlain 0xF1 (BitVec.ofNat 8 slot.val) a.code b.code 0 g
  | .dfma f m => encL3 0xA9 (fmodByte 10 m false) f
  | .exit g => [packRrr 0x61 0 0 0 g]
  | .exp2 f => encRr 0x2F f
  | .exp2Long f z => encL2u 0xAF (ftzByte z) f
  | .fadd f => encRrr 0x1F f
  | .faddLong f m => encL2 0x9F (fmodByte 9 m false) f
  | .fclass f ty => encL2u 0xA6 (tyByte ty.code 0) f
  | .fcmp f ty c => encL2 0xA5 (tyByte ty.code c.code) f
  | .fence k sc => [packRi 0x41 0 0 (0#5 ++ sc.code ++ k.code)]
  | .ffma f m => encL3 0xA2 (fmodByte 9 m false) f
  | .fmax f => encRrr 0x24 f
  | .fmaxLong f z => encL2 0xA4 (fmodByte 9 { rnd := .rne, ftz := z } false) f
  | .fmin f => encRrr 0x23 f
  | .fminLong f z => encL2 0xA3 (fmodByte 9 { rnd := .rne, ftz := z } false) f
  | .fmul f => encRrr 0x21 f
  | .fmulLong f m => encL2 0xA1 (fmodByte 9 m false) f
  | .frnd f ty m x => encL2u 0xA7 (fmodByte ty.code m x) f
  | .fsub f => encRrr 0x20 f
  | .fsubLong f m => encL2 0xA0 (fmodByte 9 m false) f
  | .getsr d sr g => encPlain 0xEB d.code 0 0 sr g
  | .glaze op pr a b g => encPlain 0xCB (BitVec.ofNat 8 pr.val) a.code b.code (0#6 ++ op.code) g
  | .halfmad f ty m => encL3 0xAA (fmodByte ty.code m false) f
  | .iabs f => encRr 0x0B f
  | .iabsLong f ty => encL2u 0x8B (tyByte ty.code 0) f
  | .iadd f => encRrr 0x03 f
  | .iaddLong f ty => encL2 0x83 (tyByte ty.code 0) f
  | .iaddc d a b pa k g => [packB4 0x85 d.code a.code b.code, packL pa.code (carryPermB k) (carryMod k.cout) g]
  | .icmp f ty c => encL2 0x9A (tyByte ty.code c.code) f
  | .ifence => [packRrr 0x42 0 0 0 7]
  | .imad f ty => encL3 0x89 (tyByte ty.code 0) f
  | .imadw f cout => encL3 0x8A (carryMod cout) f
  | .imax f => encRrr 0x0D f
  | .imaxLong f ty => encL2 0x8D (tyByte ty.code 0) f
  | .imin f => encRrr 0x0C f
  | .iminLong f ty => encL2 0x8C (tyByte ty.code 0) f
  | .imul f => encRrr 0x07 f
  | .imulLong f ty => encL2 0x87 (tyByte ty.code 0) f
  | .imulhi f => encRrr 0x08 f
  | .imulhiLong f ty => encL2 0x88 (tyByte ty.code 0) f
  | .isub f => encRrr 0x04 f
  | .isubLong f ty => encL2 0x84 (tyByte ty.code 0) f
  | .isubb d a b pa k g => [packB4 0x86 d.code a.code b.code, packL pa.code (carryPermB k) (carryMod k.cout) g]
  | .kstep => [packRi 0x70 0 0 0]
  | .ld f => [packRi 0x3D f.d f.a f.off]
  | .ldLong sp ty acq f off =>
      [packB4 0xBD f.d.code f.a.code 0, packL f.pa.code off (memMod sp.code ty.code (0#1 ++ BitVec.ofBool acq)) f.g]
  | .ldact t f => encL2a 0xB5 (BitVec.ofNat 8 t.val) 0 f
  | .lea f ty => encL3 0x9C (tyByte ty.code 0) f
  | .log2 f => encRr 0x30 f
  | .log2Long f z => encL2u 0xB0 (ftzByte z) f
  | .logic3 f fn => encL3 0x94 fn f
  | .loop n words c =>
      match c with
      | .imm k => [packB4 0xE2 0 words (BitVec.ofNat 8 n.val), k]
      | .sreg r => [packB4 0xE2 0 words (BitVec.ofNat 8 (4 + n.val)), r.setWidth 32]
  | .ltag d a g => encPlain 0xF2 d.code a.code 0 0 g
  | .matchLanes f ty x => encL2u 0xBC (tyByte ty.code (0#3 ++ BitVec.ofBool x)) f
  | .mclr t => [packRi 0x4E 0 0 (t.setWidth 10)]
  | .meet f => [packBr 0x60 false f.g f.off]
  | .mma f => encL2a 0xCC 0 0 f
  | .mov f => encRr 0x01 f
  | .movLong f ty => encL2u 0x81 (tyByte ty.code 0) f
  | .movi d imm => [packB4 0x82 d.code 0 0, imm]
  | .mrd f t => encL2u 0xCD (t.setWidth 8) f
  | .mwm d t => [packRi 0x4F d 0 (t.setWidth 10)]
  | .nop => [packRrr 0x67 0 0 0 7]
  | .or f => encRrr 0x12 f
  | .orLong f => encL2 0x92 0 f
  | .plop d a b lut g => encPlain 0x9D d.code a.code b.code (0#4 ++ lut) g
  | .pmov mode f => encL2u 0x9E (0#6 ++ mode.code) f
  | .popc f => encRr 0x15 f
  | .popcLong f => encL2u 0x95 0 f
  | .qfeat d g => encPlain 0xEE d.code 0 0 0 g
  | .qswz f ty => encL2 0xB8 (tyByte ty.code 0) f
  | .rcp f => encRr 0x2C f
  | .rcpLong f z => encL2u 0xAC (ftzByte z) f
  | .red op sp ty rel f =>
      encL2ab 0xC0 (BitVec.ofNat 8 sp.num) (BitVec.ofNat 4 op.num ++ ty.code ++ BitVec.ofBool rel) f
  | .redux f m =>
      [packB4 0xBA f.d.code f.a.code (BitVec.ofNat 8 m.op.num),
        packL f.pa.code 0 (fmodByte m.ty.code { rnd := m.rnd, ftz := m.ftz } false) f.g]
  | .ret a g => [packRrr 0x5F 0 a 0 g]
  | .rng d a g => encL2u 0xB6 0 { d := d, a := a.o, pa := a.perm, g := g }
  | .rsq f => encRr 0x2D f
  | .rsqLong f z => encL2u 0xAD (ftzByte z) f
  | .rte => [packRrr 0x6A 0 0 0 7]
  | .sar f => encShi 0x10 f
  | .sarLong f ty => encL2 0x90 (tyByte ty.code 0) f
  | .scan f m x =>
      [packB4 0xBB f.d.code f.a.code (BitVec.ofNat 8 m.op.num),
        packL f.pa.code 0 (fmodByte m.ty.code { rnd := m.rnd, ftz := m.ftz } x) f.g]
  | .sel f ty => encL3 0x9B (tyByte ty.code 0) f
  | .setsr sr f => encL2a 0xEC 0 sr f
  | .setxi imm => [packRi 0x6D 0 0 imm]
  | .setxiS r imm => [packRi 0x6D 1 (r.setWidth 7) imm]
  | .shfl f ty x => encL2 0xB7 (tyByte ty.code (0#3 ++ BitVec.ofBool x)) f
  | .shl f => encShi 0x0E f
  | .shlLong f ty => encL2 0x8E (tyByte ty.code 0) f
  | .shr f => encShi 0x0F f
  | .shrLong f ty => encL2 0x8F (tyByte ty.code 0) f
  | .sin f => encRr 0x31 f
  | .sinLong f z => encL2u 0xB1 (ftzByte z) f
  | .snap => [packRrr 0x6F 0 0 0 7]
  | .sqrt f => encRr 0x2E f
  | .sqrtLong f z => encL2u 0xAE (ftzByte z) f
  | .st f => [packRi 0x3E f.d f.a f.off]
  | .stLong sp ty rel f off => encL2ab 0xBE off (memMod sp.code ty.code (BitVec.ofBool rel ++ 0#1)) f
  | .tanh f => encRr 0x33 f
  | .tanhLong f z => encL2u 0xB3 (ftzByte z) f
  | .tcopy m f => encL3 0xC6 m.byte f
  | .trap imm => [packRi 0x69 0 0 imm]
  | .tryTx lane off => [packBr 0x64 lane Guard.always off]
  | .vote mode d a g => encPlain 0xB9 d.code a.code 0 (0#6 ++ mode.code) g
  | .wadd t s f => encL2ab 0xD4 0 (0#3 ++ BitVec.ofBool s ++ t) f
  | .waitaddr sp wide acq f =>
      encL2 0xC3 (memMod (BitVec.ofNat 3 sp.num) (if wide then 6 else 0) (0#1 ++ BitVec.ofBool acq)) f
  | .wake sp f => encL2a 0xC4 0 (BitVec.ofNat 3 sp.num ++ 0#5) f
  | .wcfg t c g =>
      encPlain 0xD2 0 0 0 ((match c with | none => 0#4 | some k => BitVec.ofNat 4 (k.val + 4)) ++ t) g
  | .wcut t f => encL2u 0xD9 (0#4 ++ t) f
  | .wfind t f => encL2u 0xD8 (0#4 ++ t) f
  | .wget t f => encL2u 0xD5 (0#4 ++ t) f
  | .wload t f => encL2a 0xDA 0 (0#4 ++ t) f
  | .wpre t f => encL2u 0xD7 (0#4 ++ t) f
  | .wsave t f => encL2a 0xDB 0 (0#4 ++ t) f
  | .wset t sc f =>
      match sc with
      | none => encL2ab 0xD3 0 (0#4 ++ t) f
      | some k => [packB4 0xD3 0 f.a.code f.b.code, packL f.pa.code k (1#4 ++ t) f.g]
  | .wsum t d g => encPlain 0xD6 d.code 0 0 (0#4 ++ t) g
  | .xor f => encRrr 0x13 f
  | .xorLong f => encL2 0x93 0 f
  | .yieldTurn => [packRrr 0x63 0 0 0 7]
  | .issueSelect _ _
  | .ageingLimit _ _
  | .entryReady _ _
  | .registerFill _ _ _ _ _
  | .trapEntry _ _
  | .commitPoint _ _
  | .atomicEngineGrant _
  | .translationWalk _ _ _
  | .copyPart _ _
  | .requestEngineIssue _
  | .reservationGrant _
  | .matrixChunk _ _
  | .rowFinal _ _
  | .tableFlip _ _ _
  | .chainSlotFlip _ _ _
  | .sumTreeUnitComplete _
  | .watchdog _
  | .waitaddrContinue _ _ _
  | .spuriousWakeup _ _ _
  | .uncorrectableError _ _
  | .correctedError _ _ _
  | .bucketLeak _ _ _
  | .launchPacket _ _
  | .launchAccept _ _
  | .blockDispatch _
  | .blockRefill _
  | .blockEnd _
  | .launchComplete _
  | .idleTimer _
  | .clusterWakeComplete _
  | .stepEnd _
  | .coreHalt _
  | .contextSaveComplete _ _
  | .icacheFill _ _
  | .hostWrite _ _ _
  | .snapshotPin _
  | .tokenArrive _ _
  | .tokenReturn _ _
  | .frequencyTimestamp _ _
  | .linkDown _ _
  | .deviceReset
  | .firmwareApply _
  | .spdmMeasurement _ _
  | .evvalWrite _ _
  | .evaddWrite _ _
  | .frespRetry _ _ _
  | .frespDecline _ _ _
  | .registerWrite _ _ _
  | .ctxcreate _
  | .ctxdestroy _
  | .inval _
  | .seal _
  | .preempt _
  | .resume _
  | .linfo _
  | .cinfo _
  | .grant _ _ _ _ _
  | .envelope _ _
  | .bucket _ _ _ _
  | .idlecount _ _
  | .degrade _ _ _
  | .restore _ _ _
  | .spare _ _ _ _
  | .drain _ _ _
  | .drainComplete _
  | .testpkg _ _ _ _
  | .snapread _ _
  | .energy _ _ _
  | .tokinit _ _
  | .floor _
  | .fwload _ _
  | .events _ _
  | .tokenSend _ _ _
  | .clusterGated _
  | .accessPerformed _ _ _
  | .fqheadWrite _ _ _
  | .badop _
  | .unknownCommand _ _ => []

/-- The first and second word of an instruction, the second 0 when there is none. -/
def encodePair (i : Instr) : Word × Word := ((encode i).getD 0 0, (encode i).getD 1 0)

end Sys2Proof
end

