-- ==== Sys2Proof/Machine/State.lean ====
section
/-! DEFINITION. The state of the device as plain data, and the state right after reset. -/

namespace Sys2Proof.Machine

open Sys2Proof

/-- Memory: bytes by address, addresses strictly rising, no byte 0 listed. An unlisted byte reads 0. -/
abbrev Memory := List Host.Cell

/-- Why a step stops. -/
inductive Fault where
  /-- Raised by `exec` for an instruction row when no path has been chosen to issue it. SAFE: the device issues
  nothing but what ISSUE_SELECT chose, so no run of the device reaches it. -/
  | noIssuingPath
  deriving DecidableEq, Repr

/-- Why a step has no meaning. -/
inductive Refusal where
  /-- Raised by an arm of `exec` that is not modelled yet. SAFE: nothing can be proved of what follows. -/
  | notModelled (mnemonic : String)
  deriving DecidableEq, Repr

/-! ### Value store (03) -/

/-- State of an entry (R35, R37). -/
inductive EState where
  | pending | ready | abandoned
  deriving DecidableEq, Repr, Inhabited

/-- A source in a lineage key (R39): an entry by class and identity (0 is the zero entry), or an operand code with
the value it delivers (inline constants carry 0). -/
inductive KSrc where
  | entry (cls : RegClass) (eid : Nat)
  | code (c : BitVec 8) (value : Word)
  deriving DecidableEq, Repr, Inhabited

/-- The memory field of a load key (R46). -/
structure MemKey where
  space : Space
  size : Nat
  fmt : Nat
  geom : Nat
  off : Nat
  owner : Nat
  deriving DecidableEq, Repr, Inhabited

/-- A lineage key (R39). -/
structure Key where
  op : Nat
  mod : Nat
  width : Nat
  srcs : List KSrc
  perms : List (BitVec 8)
  imm : Nat
  version : Option (Nat × Nat)
  ctx : Word
  saggar : Bool
  mem : Option MemKey
  ident : Option (Nat × List Word)
  /-- Classes of the destinations: the class of each result entry. -/
  dsts : List RegClass
  deriving DecidableEq, Repr, Inhabited

/-- Who produces an entry (R37, R50): a warp, whether it adopted the production, and the serial number at which it did. -/
structure Producer where
  block : Nat
  warp : Nat
  adopted : Bool
  since : Nat := 0
  deriving DecidableEq, Repr, Inhabited

/-- An entry of a core's value store (R34, R35). `eid` is its identity, never reused. -/
structure Entry where
  eid : Nat
  cls : RegClass
  index : Nat
  gen : BitVec 3
  size : Nat
  value : List Word
  st : EState
  /-- The value has been computed; it becomes readable when the entry is ready. -/
  known : Bool
  /-- Cycle of its quadrant at which a VEC result is ready (R98); `none` for the other classes. -/
  due : Option Nat
  /-- Flags raised, in the bit order of `WSTAT`. -/
  flags : Word
  verified : Bool
  /-- A lineage-bearing result of a saggar launch: its lanes are compared before it is ready (R41, R258). -/
  bearing : Bool := false
  key : Option Key
  /-- The instruction that the key record describes (R50), with the registers it named resolved to entries. -/
  insn : Option (Word × Word)
  poison : Bool
  /-- Which result of its instruction it is, counted from 0. -/
  part : Nat
  ctx : Word
  producer : Producer
  /-- Warps that take the flags when it becomes ready (R44), with the serial number at which each joined. -/
  bound : List (Nat × Nat × Nat)
  /-- A pending entry whose count has reached 0 (R37). -/
  dead : Bool
  /-- A private entry of a restored register that takes the value of another entry when that is ready (R55). -/
  copyOf : Option Nat
  deriving DecidableEq, Repr, Inhabited

/-- A key of the key table (R40), with its results and the bytes a load read (R46). -/
structure KeyRec where
  key : Key
  results : List Nat
  lastUse : Nat
  born : Nat
  /-- Block that owns the bytes (shared memory), or none for scratchpad; then byte ranges. -/
  watch : List (Nat × Nat × Nat)
  launch : Option Nat
  deriving DecidableEq, Repr, Inhabited

/-! ### Memory accesses not yet performed (11) -/

/-- Where an access goes: shared memory of a block, scratchpad by physical address, or a DET view (R242). -/
inductive Place where
  | shared (block : Nat)
  | scratch
  deriving DecidableEq, Repr, Inhabited

/-- What an access does when it is performed. -/
inductive AccKind where
  | load (ty : MType) (acq : Bool)
  | store (ty : MType) (rel : Bool)
  | atom (op : AtomOp) (ty : AtomTy) (ord : AtomOrd) (returns : Bool) (b c : Dword)
  | fence (kind : FenceKind) (scope : Scope)
  | wake
  /-- A lane of a load that is bound to a pending entry (R49): it is performed when the load that produces the entry is. -/
  | bound (eid : Nat) (acq : Bool)
  /-- A lane of a `WAITADDR` that waits for a translation, with the value it compares (R194, R229). -/
  | wait (wide acq : Bool) (want : Option Dword)
  deriving DecidableEq, Repr, Inhabited

/-- Page-kind order (R155, R175). -/
inductive POrd where
  | so | rc | uo
  deriving DecidableEq, Repr, Inhabited

/-- One event, issued and not yet performed (R172, R177): that of one lane, or of several lanes for a fence and for a block of an SX
page (R85). `lane` is one of its lanes: of a block's the last, whose place in the order of lanes it takes (R395). -/
structure Access where
  serial : Nat
  /-- Serial shared by the lanes of one instruction. -/
  group : Nat
  lanes : Mask
  lane : Nat
  kind : AccKind
  place : Place
  addr : Nat
  size : Nat
  ord : POrd
  /-- Element of an SX page: block base, index and format (R84); `none` for RAW. -/
  sx : Option (Nat × Nat × Nat)
  data : List Byte
  /-- Destination entries of a load or a returning atomic. -/
  dests : List Nat
  /-- A `.sp` atomic waits in the engine of this cluster (R158). -/
  engine : Option Nat
  va : Nat
  /-- It names its place through `.span` (R152, R260). -/
  span : Bool
  /-- A later access of its thread has been performed before it. -/
  passed : Bool
  /-- Address of its instruction. -/
  pc : Word
  deriving DecidableEq, Repr, Inhabited

/-- Kinds of access for TRANSLATE and fault records (R221). -/
inductive AccessKind where
  | ld | st | atom | wait | copy | fetch
  deriving DecidableEq, Repr, Inhabited

/-- One entry of a replay queue (R229): what is replayed when the host answers. -/
structure Parked where
  tag : Nat
  kind : AccessKind
  va : Nat
  mask : Mask
  fpc : Word
  /-- Step-line shortage (R246). -/
  line : Bool
  /-- Accesses of the instruction, their `addr` still virtual. -/
  accs : List Access
  /-- The copy that parks, by its number. -/
  copy : Option Nat
  answer : Option Bool
  /-- The fault record has been posted. -/
  posted : Bool
  /-- A rollback has cancelled the access; the record stands until the rerun issues it again (R261). -/
  stale : Bool
  /-- It parks because its core halts (R234): its accesses have been translated before. -/
  placed : Bool := false
  deriving DecidableEq, Repr, Inhabited

/-! ### Warps (02, 04) -/

/-- Why a path does not issue (R22, R180, R240); `rolled` threads have left a transaction under `TRY.L` (R209), `debug` ones are
halted for a debug session (R221); `passed` threads stopped by a handler (R223) have passed a rendezvous since, and go on after their instruction when the
handler ends (R303). -/
inductive Hold where
  | meet | bar | span | kstep | rolled | debug | passed
  deriving DecidableEq, Repr, Inhabited

/-- One word of a WAITADDR: lane, compared value, place, address, element of an SX page. -/
structure WaitWord where
  lane : Nat
  want : Dword
  place : Place
  addr : Nat
  sx : Option (Nat × Nat × Nat)
  deriving DecidableEq, Repr, Inhabited

/-- A parked WAITADDR (R194, R402): its words, the lanes that park, and its destination entries. -/
structure Park where
  space : Space3
  wide : Bool
  words : List WaitWord
  lanes : Mask
  dests : List Nat
  /-- Group of its accesses, for the completion flags (R96). -/
  group : Nat
  /-- A write or WAKE of a word has released it. -/
  released : Bool
  deriving DecidableEq, Repr, Inhabited

/-- Position inside a clause (R92, R93): header address and word, instructions issued. -/
structure Clause where
  at_ : Word
  header : Word
  done : Nat
  deriving DecidableEq, Repr, Inhabited

/-- A trap held for delivery in place of a path's next issue (R230, R244, R53). -/
structure Delivery where
  cause : Nat
  info : Word
  /-- A trap at the path's next instruction, decided when that would have issued (R220). -/
  precise : Bool
  /-- Threads that issued the access; the path with the lowest of them takes the trap. -/
  threads : Mask
  replay : Bool
  fpc : Word
  fva : Nat
  fmask : Mask
  /-- Words of an adopted instruction (R51). -/
  adopted : Option (Word × Word)
  deriving DecidableEq, Repr, Inhabited

/-- A path (R19 to R25). -/
structure Path where
  id : Nat
  mask : Mask
  pc : Word
  clause : Option Clause
  hold : Option Hold
  park : Option Park
  age : Nat
  /-- Cycle in which the counter reached 256. -/
  aged : Option Nat
  /-- Cycle of the last issue of the previous clause (R95). -/
  last : Option Nat
  /-- Earliest cycle of the next instruction of the clause (R95), or after YIELD (R251). -/
  next : Nat
  /-- `s` pointers (R53). -/
  s : List (Nat × Nat)
  /-- `s` registers not yet filled (R65), with the value at the trap's entry where a different one in the slot counts as a
  write (R53). -/
  sAbsent : List (Nat × Option Word)
  /-- Writes of each `s` register since the warp divided, newest first (R53). -/
  log : List (Nat × List Nat)
  /-- A DET WAITADDR that found its words unchanged (R248), with their width. -/
  waiting : Option (Bool × List WaitWord)
  /-- The code line whose fetch holds the path back, by virtual address (R229). -/
  fetch : Option Nat
  /-- Chosen in this cycle already, and it did not issue. -/
  tried : Bool
  /-- It could issue in the cycle under way (R24). -/
  ready : Bool
  /-- The cycle that a `YIELD` leaves to other ready paths (R251). -/
  yield : Option Nat
  deriving DecidableEq, Repr, Inhabited

/-- A thread outside its path: the meeting register and what it is (R19, R27). -/
structure Thread where
  mr : Option Word
  exited : Bool
  absent : Bool
  helper : Bool
  /-- PC of an exited thread. -/
  pc : Word
  deriving DecidableEq, Repr, Inhabited

/-- A loop record (R130); the warp's list has the most recently opened first. -/
structure LoopRec where
  n : Fin 3
  start : Word
  stop : Word
  deriving DecidableEq, Repr, Inhabited

/-- Registers and records that a checkpoint holds (R198). -/
structure Checkpoint where
  v : List (Nat × Nat)
  s : List (Nat × Nat)
  p : List (Nat × Nat)
  lc : List Word
  loops : List LoopRec
  xi : Word
  wstat : Word
  mr : List (Option Word)
  deriving DecidableEq, Repr, Inhabited

/-- A buffered byte of a transaction (R202): space (0 `.sh`, 1 `.sp` physical), address, value, the lanes of its last write
(several for a byte of an SX block), whether another lane wrote it earlier (R209), and whether it lies on an SO page (R186). -/
structure TxByte where
  space : Nat
  addr : Nat
  val : Byte
  lanes : Mask
  shared : Bool
  so : Bool := false
  deriving DecidableEq, Repr, Inhabited

/-- An open transaction (R197 to R203). -/
structure Tx where
  depth : Nat
  /-- Serial number at its `TRY`: stores with later ones are performed at the commit point (R96, R204). -/
  since : Nat
  label : Word
  lane : Bool
  ck : Checkpoint
  writes : List TxByte
  reads : List (Nat × Nat)
  conflict : Bool
  /-- The outermost `COMMIT` has issued and waits for its commit point (R204). -/
  committing : Bool
  /-- First lane fault's cause (R204, R209). -/
  laneCause : Option Nat
  deriving DecidableEq, Repr, Inhabited

/-- In a handler (R223): MASK. Cause and detail stand in the frame. -/
structure Handler where
  mask : Mask
  /-- Paths outside MASK, stopped until RTE. -/
  others : List Path
  /-- Loop records at entry, most recently opened first. -/
  loops : List LoopRec
  /-- Writes and values of the trapped path's `s` registers at entry (R53). -/
  log : List (Nat × List Nat)
  s : List Word
  deriving DecidableEq, Repr, Inhabited

/-- What a completion flag waits for (R96). -/
inductive Token where
  | entry (eid : Nat)
  | access (group : Nat)
  /-- A parked `WAITADDR`. -/
  | park (group : Nat)
  /-- A sum-tree instruction, by its number. -/
  | tree (id : Nat)
  | request (id : Nat)
  deriving DecidableEq, Repr, Inhabited

/-- A warp (R14, R36). -/
structure Warp where
  idx : Nat
  role : Nat
  grant : Nat
  slot : Nat
  /-- The second slot of a 64-wide warp (R17). -/
  slot2 : Option Nat
  start : Nat
  threads : List Thread
  paths : List Path
  v : List (Nat × Nat)
  p : List (Nat × Nat)
  xi : Word
  lc : List Word
  loops : List LoopRec
  wstat : Word
  binds : Word
  keys : Word
  deaths : Word
  retired : Dword
  /-- Clock of its quadrant when it started; while it is saved, less the clock then. -/
  cycle0 : Int
  tx : Option Tx
  txcode : Nat
  txarg : Nat
  txlanes : Dword
  frame : Nat
  handler : Option Handler
  /-- Pieces not yet filled (R65), and whether they fill from the context frame. -/
  absent : List (RegClass × Nat × Nat)
  fromCtx : Bool
  /-- Linked registers (R226), with their entries. -/
  links : List (RegClass × Nat × Nat)
  flags : List (Nat × Token)
  pend : List Access
  replay : List Parked
  deliver : List Delivery
  /-- Bytes of the spill stack written since the warp started (R152), each as the warp wrote it last: what a checkpoint restores. -/
  stack : List (Nat × Byte)
  /-- BAR and BAR.span rendezvous passed (R180). -/
  bars : Nat
  spans : Nat
  /-- DET: path pointer (R249). -/
  pointer : Nat
  /-- Waiting to read these entries since (R50): entry, order, and the lowest lane of the path that waits. -/
  waits : List (Nat × Nat × Nat)
  deriving DecidableEq, Repr, Inhabited

/-! ### Blocks -/

/-- A glazed pair (R170): the visible half's bytes stand at the window, the hidden half's at the shadow window. -/
structure Glaze where
  base : Nat
  len : Nat
  deriving DecidableEq, Repr, Inhabited

/-- An atomic of a kiln step (R243, R245), in program order. -/
structure StepAtom where
  addr : Nat
  op : AtomOp
  ty : AtomTy
  b : Dword
  c : Dword
  deriving DecidableEq, Repr, Inhabited

/-- A checkpoint of a block (R259): operations with smaller serials were issued before it. -/
structure BlockCk where
  serial : Nat
  warps : List Warp
  trees : List (Nat × List Nat)
  tiles : List (Nat × List Word)
  marks : List (Nat × Nat)
  stamps : Nat
  glaze : List (Nat × Glaze)
  cur : Nat
  passed : Nat
  turnOver : Bool
  arrived : Bool
  view : List (Nat × Byte)
  written : List Nat
  atoms : List StepAtom
  stepCopies : List (Nat × Byte)
  lines : List (Nat × Nat)
  deriving DecidableEq, Repr, Inhabited

/-- Latched snapshot registers of a block (R265): per warp PC, RETIRED, BAR count; and the step number. -/
structure Snap where
  warps : List (Word × Dword × Nat)
  step : Nat
  deriving DecidableEq, Repr, Inhabited

/-- A buffered outbound write of a CONTAINED launch (R260): bytes, or a reduction. -/
structure Buffered where
  warp : Nat
  /-- Group of its store, for the completion flags (R96). -/
  group : Nat
  /-- It goes to an SO page (R186). -/
  so : Bool
  place : Place
  addr : Nat
  bytes : List Byte
  red : Option (AtomOp × AtomTy × Dword)
  deriving DecidableEq, Repr, Inhabited

/-- A resident, saved or ended block. -/
structure Block where
  id : Nat
  launch : Nat
  num : Nat
  core : Nat
  slot : Nat
  /-- The core that it was saved from. -/
  home : Nat
  shared : Memory
  warps : List Warp
  trees : List (Nat × List Nat)
  /-- Accumulator tiles and watermarks (R122, R235), under 4q + t: a tile not listed holds zeros, a watermark 16. -/
  tiles : List (Nat × List Word)
  marks : List (Nat × Nat)
  stamps : Nat
  glaze : List (Nat × Glaze)
  declw : List (Nat × Nat × Nat)
  ck : Option BlockCk
  undoLog : List (Nat × Byte)
  rollbacks : Nat
  eligible : Bool
  /-- Release buffer of a CONTAINED launch (R260), in order. -/
  release : List Buffered
  snap : Snap
  /-- DET: current warp and turns passed without progress (R247, R250). -/
  cur : Nat
  passed : Nat
  /-- DET: the current warp has completed a switch point (R248). -/
  turnOver : Bool
  /-- DET: the block has arrived at the step's boundary (R240). -/
  arrived : Bool
  /-- DET: the step's writes by physical address, and its atomics (R242, R245). -/
  view : List (Nat × Byte)
  written : List Nat
  atoms : List StepAtom
  stepCopies : List (Nat × Byte)
  /-- Lines drawn from the step-line pool (R246), each with its place in the pool. -/
  lines : List (Nat × Nat)
  mma : Bool
  saved : Bool
  ended : Bool
  deriving DecidableEq, Repr, Inhabited

/-! ### Copies and core engines (07, 08, 09, 10) -/

/-- One part of a copy (R172): global virtual address, shared offset, length, lane; a fill has no global address. -/
structure Part where
  g : Option Nat
  sh : Nat
  len : Nat
  fill : List Byte
  lane : Nat
  deriving DecidableEq, Repr, Inhabited

/-- A copy in flight (R162, R165): its parts still to be moved, the completion it owes, its range in the scoreboard, and
whether its reservation is granted. -/
structure Copy where
  id : Nat
  /-- Its instruction: its own number, or that of the request list it comes from. -/
  op : Nat
  block : Nat
  warp : Nat
  core : Nat
  lane : Nat
  issued : Mask
  fpc : Word
  dir : Dir
  acopy : Bool
  parts : List Part
  done : Done
  comp : Nat
  stamp : Nat
  ranges : List (Nat × Nat)
  reserved : Bool
  deriving DecidableEq, Repr, Inhabited

/-- A range held in the scoreboard by an engine other than a copy (R118, R134, R148). -/
structure RangeHold where
  id : Nat
  block : Nat
  lo : Nat
  len : Nat
  /-- Loads stall too. -/
  loads : Bool
  deriving DecidableEq, Repr, Inhabited

/-- A queued or running matrix operation (R116 to R121). -/
structure MatOp where
  id : Nat
  block : Nat
  warp : Nat
  quads : List Nat
  pb : Nat
  words : List Word
  a : List Byte
  /-- Captured entries: holder, register, entry. -/
  caps : List (Nat × Nat × Nat)
  /-- Captured values, once read. -/
  b : List (List Word)
  st : Nat
  reserved : Bool
  requested : Bool
  progress : Nat
  rows : Nat
  acc : List (Nat × List Word)
  flags : Word
  wrap : Bool
  hold : Nat
  /-- The STATE, with PROGRESS before it, that the engine still has to write because its words are held (R126, R148): 3 for an operation
  that has parked, 4 for one that has finished otherwise; 0 none. -/
  owes : Nat := 0
  deriving DecidableEq, Repr, Inhabited

/-- An instruction that the sum-tree unit has taken and not completed (R149): its results, the image that a `WSAVE` writes
when it completes, and the range it holds. -/
structure TreeOp where
  id : Nat
  block : Nat
  warp : Nat
  dests : List Nat
  save : Option (Nat × List Byte)
  hold : Option Nat
  deriving DecidableEq, Repr, Inhabited

/-- An activation table or chain slot (R134, R136): version, image, and an image on its way in. -/
structure Buffer where
  version : BitVec 16
  image : List Byte
  incoming : List (Nat × Nat × Nat × List Byte)
  deriving DecidableEq, Repr, Inhabited

/-- A kicked request list (R164). -/
structure Kick where
  id : Nat
  block : Nat
  warp : Nat
  lane : Nat
  issued : Mask
  fpc : Word
  /-- Request entries still to be issued, each with its record as read at the `CKICK`. -/
  entries : List (List Word × List Word)
  deriving DecidableEq, Repr, Inhabited

/-- A line of the I-cache (R283): its context, the block whose view it was read through in DET mode (R242), virtual address, words,
header map. -/
structure CodeLine where
  ctx : Word
  owner : Option Nat
  va : Nat
  words : List Word
  map : Word
  deriving DecidableEq, Repr, Inhabited

/-- A quadrant of a core: clock and last issue of each class (R219). -/
structure Quad where
  clock : Nat
  busy : Nat
  sfu : Nat
  lastClass : List (Option Nat)
  deriving DecidableEq, Repr, Inhabited

/-- A core. -/
structure CoreSt where
  entries : List Entry
  keys : List KeyRec
  gens : List (RegClass × Nat × BitVec 3)
  quads : List Quad
  matq : List MatOp
  trees : List TreeOp
  holds : List RangeHold
  kicks : List Kick
  acts : List (Word × List Buffer)
  chains : List (Word × List Buffer)
  icache : List CodeLine
  /-- Bytes of spill stacks in the core's stack cache (R1, R152), the latest first: block, warp, offset. -/
  stackCache : List (Nat × Nat × Nat) := []
  /-- Current reservations waiting for CHRUN: block, warp, path, and whether granted. -/
  chrun : List (Nat × Nat × Nat × Bool)
  halting : Option Nat
  halted : Bool
  deriving DecidableEq, Repr, Inhabited

/-! ### Clusters, packages, functions -/

/-- Gating state of a cluster (R218, R266). -/
inductive Gate where
  | active | gating | gated | waking
  deriving DecidableEq, Repr, Inhabited

/-- Class of a current-reservation request, in the order of R267. -/
inductive ReqClass where
  | matrix | copy | vector
  deriving DecidableEq, Repr, Inhabited

/-- A waiting request for current (R267). -/
structure CurReq where
  serial : Nat
  cls : ReqClass
  core : Nat
  who : Nat
  units : Nat
  passed : Nat
  deriving DecidableEq, Repr, Inhabited

/-- A cluster. -/
structure Cluster where
  gate : Gate
  degraded : Bool
  draining : Bool
  /-- `DRAIN` has completed. -/
  drained : Bool
  /-- `DRAIN` commands not answered yet (R280). -/
  drains : Nat := 0
  offline : Bool
  /-- Grants to local requests in a row, and the last local core granted (R158). -/
  locals : Nat
  lastCore : Nat
  reqs : List CurReq
  /-- Reservations held: class, holder, units. -/
  held : List (ReqClass × Nat × Nat × Nat)
  tested : Nat
  deriving DecidableEq, Repr, Inhabited

/-- A leaky bucket (R257). -/
structure Bucket where
  fill : BitVec 16
  leak : BitVec 12
  inc : BitVec 4
  mark : BitVec 16
  deriving DecidableEq, Repr, Inhabited

/-- Records of the device event log (R280). -/
inductive LogEvent where
  | predictive (pkg : Nat) (kind : BucketKind) (index : Nat)
  | watchdog (core : Nat)
  | codeAuth (block : Nat)
  | noProgress (block : Nat)
  | hostWrite (addr : Nat)
  /-- Data with an uncorrectable error that nothing has used (R261). -/
  | poisoned (addr : Nat)
  /-- A debug session is told that a warp has halted (R221, R307). -/
  | halted (block warp : Nat)
  | rejected (pkg : Nat)
  deriving DecidableEq, Repr, Inhabited

/-- What management reads back (R280): a completion code and words. -/
structure Answer where
  code : Nat
  words : List Nat
  deriving DecidableEq, Repr, Inhabited

/-- A package. -/
structure Package where
  tokens : Nat
  tokinit : Bool
  /-- Tokens sent and not yet arrived: serial, destination, link. -/
  flight : List (Nat × Nat × Nat)
  envelope : Nat
  idleCount : Nat
  zhobor : List (Fin 16)
  pcie : List (Fin 2)
  feature : Word
  firmware : Nat
  image : Option (List Byte)
  buckets : List (BucketKind × Nat × Bucket)
  spared : List (Nat × Nat × Nat)
  log : List LogEvent
  /-- Frequency steps of its four rails: matrix, vector, SRAM, fabric (R266, R269 to R271). -/
  freq : List Nat
  /-- Packages of its collective group (R271), itself among them; none when it belongs to no group. -/
  group : List Nat
  answers : List Answer
  spdm : List (BitVec 64 × Nat)
  deriving DecidableEq, Repr, Inhabited

/-- A queue's registers (R274). -/
structure Queue where
  base : Dword
  size : Nat
  prio : Nat
  loc : Bool
  en : Bool
  door : BitVec 16
  stat : Dword
  head : BitVec 16
  ctx : Nat
  deriving DecidableEq, Repr, Inhabited

/-- Context states (R276). -/
inductive CtxState where
  | empty | idle | active | saved
  deriving DecidableEq, Repr, Inhabited

/-- A translation buffer: a core's own, or the one that the cores of a cluster share (R1, R233). -/
inductive TlbUnit where
  | core (n : Nat)
  | cluster (n : Nat)
  deriving DecidableEq, Repr, Inhabited

/-- A leaf that a translation buffer holds for a context (R233): page base and size, attribute word, frame. -/
structure TlbEntry where
  unit : TlbUnit
  base : Nat
  size : Nat
  word : Word
  frame : Nat
  deriving DecidableEq, Repr, Inhabited

/-- A context slot with its window (R274, R276). -/
structure Ctx where
  st : CtxState
  id : Word
  root : Dword
  vecbase : Dword
  fqbase : Dword
  fqsize : Nat
  fqtail : BitVec 12
  fqhead : BitVec 12
  cbase : Dword
  csize : Dword
  tbase : Dword
  frbase : Dword
  frcount : Nat
  stksize : Nat
  stkbase : Dword
  stepbase : Dword
  stepsize : Dword
  counters : List (Nat × Dword)
  watts : Nat
  minStep : Nat
  boost : Bool
  featver : Word
  feature : Word
  /-- Package that saved the blocks. -/
  pkg : Nat
  /-- Fault records that wait for room (R275). -/
  records : List (List Word)
  /-- What the translation buffers hold for it, oldest first (R233). -/
  tlb : List TlbEntry
  /-- Active before PREEMPT, with the cores still to save. -/
  saving : List Nat
  /-- Energy counter in microjoules (R272). -/
  energy : Dword
  /-- A debug session is attached (R221, R307). -/
  debug : Bool
  /-- Frames that a mapping of the context has reached (R157): HBM or scratchpad, address, length. -/
  pages : List (Bool × Nat × Nat)
  deriving DecidableEq, Repr, Inhabited

/-- A function's command registers, queues and context slots (R274). -/
structure Fn where
  queues : List (Nat × Queue)
  cmdbase : Dword
  cmdsize : Nat
  cmddoor : BitVec 12
  cmdhead : BitVec 12
  evsel : Word
  evvalLo : Word
  /-- High half of the counter that the last read of word 0 of EVVAL took (R278). -/
  evvalHi : Word
  evaddLo : Word
  ctxs : List (Nat × Ctx)
  /-- A PREEMPT or RESUME that has not finished: the command's address. -/
  running : Option Nat
  deriving DecidableEq, Repr, Inhabited

/-- Phase of a launch (R211). -/
inductive Phase where
  | waiting | running | complete
  deriving DecidableEq, Repr, Inhabited

/-- A launch read from a queue slot (R210 to R215). -/
structure Launch where
  id : Nat
  fn : Nat
  queue : Nat
  slot : Nat
  ctx : Nat
  ctxid : Word
  prio : Nat
  words : List Word
  phase : Phase
  accepted : Nat
  next : Nat
  refill : Bool
  ended : Nat
  lost : Nat
  spanLost : Bool
  step : Nat
  /-- Host writes held to the next merge (R242). -/
  held : List (MemKind × Nat × List Byte)
  watts : Nat
  statAddr : Nat
  statLoc : Bool
  /-- Energy counter in microjoules (R272). -/
  energy : Dword
  /-- DET: bytes that others have overwritten since the last merge, as that merge left them (R242); HBM under 2^66 + address. -/
  base : List (Nat × Byte)
  deriving DecidableEq, Repr, Inhabited

/-- The path that ISSUE_SELECT has chosen (R219). -/
structure Issuing where
  block : Nat
  warp : Nat
  path : Nat
  /-- The second of a packed pair, whose first has issued in this cycle (R18). -/
  second : Bool := false
  deriving DecidableEq, Repr, Inhabited

/-- The device. -/
structure State where
  /-- Counter that free values are drawn with. -/
  tick : Nat
  /-- Serial numbers of entries, blocks, copies, accesses, launches. -/
  serial : Nat
  agenda : List Instr
  issuing : Option Issuing
  /-- The other path of a packed pair, which issues in the same cycle (R18). -/
  packed : Option Issuing
  packages : Nat
  scratch : Memory
  hbm : Memory
  host : Memory
  fns : List (Nat × Fn)
  pkgs : List (Nat × Package)
  clusters : List (Nat × Cluster)
  cores : List (Nat × CoreSt)
  launches : List Launch
  blocks : List Block
  copies : List Copy
  /-- Context IDs handed out (R276). -/
  ctxids : List Nat
  /-- Bytes marked as poisoned: an uncorrectable error was found there while nothing used them (R261). Scratchpad by address, HBM under
  2^66 + address, shared memory as `sharedAddr` numbers it; another SRAM's bytes under numbers from 2^70 on. -/
  badBytes : List Nat
  deriving DecidableEq, Repr, Inhabited

/-! ### Reset values -/

/-- A quadrant as reset leaves it. -/
def Quad.init : Quad := { clock := 0, busy := 0, sfu := 0, lastClass := List.replicate 6 none }

/-- A core as reset leaves it. DESIGN CHOICE: log 5, 7. -/
def CoreSt.init : CoreSt :=
  { entries := [], keys := [], gens := [], quads := List.replicate 4 Quad.init, matq := [], trees := [],
    holds := [], kicks := [], acts := [], chains := [], icache := [], chrun := [], halting := none,
    halted := false }

/-- A cluster as reset leaves it. DESIGN CHOICE: log 20. -/
def Cluster.init : Cluster :=
  { gate := .active, degraded := false, draining := false, drained := false, offline := false, locals := 0,
    lastCore := 7, reqs := [], held := [], tested := 0 }

/-- A leaky bucket as reset leaves it. DESIGN CHOICE: log 20. -/
def Bucket.init : Bucket := { fill := 0, leak := 0, inc := 0, mark := 0 }

/-- A package as reset leaves it: no tokens (R270), feature word 0xE1 (R285). DESIGN CHOICE: log 20. -/
def Package.init : Package :=
  { tokens := 0, tokinit := false, flight := [], envelope := 2800, idleCount := 1, zhobor := [], pcie := [],
    feature := 0xE1#32, firmware := 0, image := none, buckets := [], spared := [], log := [], freq := [0, 0, 0, 0],
    group := [], answers := [], spdm := [] }

/-- A queue's registers as reset leaves them. DESIGN CHOICE: log 18. -/
def Queue.init : Queue :=
  { base := 0, size := 0, prio := 0, loc := false, en := false, door := 0, stat := 0, head := 0, ctx := 0 }

/-- An Empty context slot (R276). DESIGN CHOICE: log 18. -/
def Ctx.init : Ctx :=
  { st := .empty, id := 0, root := 0, vecbase := 0, fqbase := 0, fqsize := 0, fqtail := 0, fqhead := 0,
    cbase := 0, csize := 0, tbase := 0, frbase := 0, frcount := 0, stksize := 0, stkbase := 0, stepbase := 0,
    stepsize := 0, counters := [], watts := 0, minStep := 0, boost := false, featver := 0, feature := 0, pkg := 0,
    records := [], tlb := [], saving := [], energy := 0, debug := false, pages := [] }

/-- A function's registers as reset leaves them. DESIGN CHOICE: log 18. -/
def Fn.init : Fn :=
  { queues := [], cmdbase := 0, cmdsize := 0, cmddoor := 0, cmdhead := 0, evsel := 0, evvalLo := 0, evvalHi := 0, evaddLo := 0,
    ctxs := [], running := none }

/-- The device right after reset. DESIGN CHOICE: log 3, 4, 8. -/
def State.reset : State :=
  { tick := 0, serial := 1, agenda := [], issuing := none, packed := none, packages := 1, scratch := [], hbm := [], host := [],
    fns := [], pkgs := [], clusters := [], cores := [], launches := [], blocks := [], copies := [], ctxids := [], badBytes := [] }

/-- A function by number. -/
def State.fn (s : State) (n : Nat) : Fn := (alook n s.fns).getD Fn.init
/-- A package by number. -/
def State.pkg (s : State) (n : Nat) : Package := (alook n s.pkgs).getD Package.init
/-- A cluster by number: 64 a package. -/
def State.cluster (s : State) (n : Nat) : Cluster := (alook n s.clusters).getD Cluster.init
/-- A core by number: 512 a package. -/
def State.core (s : State) (n : Nat) : CoreSt := (alook n s.cores).getD CoreSt.init

/-- A function's registers replaced. -/
def State.setFn (s : State) (n : Nat) (f : Fn) : State := { s with fns := aput n f s.fns }
/-- A package replaced. -/
def State.setPkg (s : State) (n : Nat) (p : Package) : State := { s with pkgs := aput n p s.pkgs }
/-- A cluster replaced. -/
def State.setCluster (s : State) (n : Nat) (c : Cluster) : State := { s with clusters := aput n c s.clusters }
/-- A core replaced. -/
def State.setCore (s : State) (n : Nat) (c : CoreSt) : State := { s with cores := aput n c s.cores }

end Sys2Proof.Machine
end

