-- ==== Sys2Proof/Machine/Order.lean ====
section
/-! DEFINITION. Preserved program order (R177, R179): which accesses of a warp wait for which. -/

namespace Sys2Proof.Machine

open Sys2Proof

/-- Do two ranges share a byte? -/
def overlap (a n b m : Nat) : Bool := decide (a < b + m) && decide (b < a + n)

/-- Is it a read? -/
def AccKind.reads : AccKind → Bool | .load _ _ | .atom .. | .bound _ _ | .wait .. => true | _ => false
/-- Is it a write? -/
def AccKind.writes : AccKind → Bool | .store _ _ | .atom .. => true | _ => false
/-- Is it an acquire read? -/
def AccKind.acquires : AccKind → Bool
  | .load _ a | .bound _ a | .wait _ a _ => a
  | .atom _ _ o _ _ _ => (match o with | .acq | .ar => true | _ => false) | _ => false
/-- Is it a release write? -/
def AccKind.releases : AccKind → Bool
  | .store _ r => r | .atom _ _ o _ _ _ => (match o with | .rel | .ar => true | _ => false) | _ => false
/-- The kind of a fence. -/
def AccKind.fence? : AccKind → Option FenceKind | .fence k _ => some k | _ => none
/-- The entry that a bound load waits for (R49). -/
def AccKind.bound? : AccKind → Option Nat | .bound e _ => some e | _ => none

/-- A parked `WAITADDR` that is released reads its word again, whatever it holds (R194). -/
def Access.woken (a : Access) : Access :=
  match a.kind with | .wait wide acq _ => { a with kind := .wait wide acq none } | _ => a

/-- Do two accesses touch a common byte? Before translation, scratchpad accesses are compared by address. -/
def Access.meets (e a : Access) : Bool :=
  e.place == a.place && (overlap e.addr e.size a.addr a.size || (e.place == .scratch && overlap e.va e.size a.va a.size))

/-- Are some lanes of two accesses the same? -/
def Access.sameLane (e a : Access) : Bool := e.lanes &&& a.lanes != 0#64

/-- Must `e`, the earlier, be performed before `a` (R177, R179, R195, R229, R353, R395)? DEDUCED: log 9. -/
def ordered (e a : Access) : Bool :=
  match e.kind.fence?, a.kind.fence? with
  | some j, some k => j == .full && k == .full && e.sameLane a
  | some j, none => e.sameLane a && (match j with | .rel => a.kind.writes | _ => true)
  | none, some k => e.sameLane a && (match k with | .acq => e.kind.reads | _ => true)
  | none, none =>
    if e.sameLane a then
      let uo := e.ord == .uo || a.ord == .uo
      e.meets a || (!uo && (e.kind.acquires || a.kind.releases)) || (e.ord == .so && a.ord == .so)
    else e.group == a.group && e.meets a && (e.kind.writes || a.kind.writes)

/-- Accesses of a warp that have issued and are not performed, the parked ones among them. -/
def Warp.queued (w : Warp) : List Access := w.pend ++ w.replay.flatMap (·.accs)

/-- The warp without one entry of its replay queue. -/
def Warp.unqueue (w : Warp) (tag : Nat) : Warp := { w with replay := w.replay.filter (·.tag != tag) }

/-- The records of a `WAITADDR` that has retired and still waits for its word (R194, R229). -/
def Access.waits (a : Access) : Bool := match a.kind with | .wait .. => true | _ => false

/-- Does a path wait at words whose translation came after it had issued on (R194, R229, R402)? It is parked until one of them is written
or woken. DEDUCED: log 30. -/
def Warp.parkedOn (w : Warp) (p : Path) : Bool := w.pend.any fun e => e.waits && e.lanes &&& p.mask != 0#64

/-- Must a new access of a warp wait for one that is not performed? It waits behind a parked access too when both touch a common
byte, whichever lanes they are of (R229). -/
def Warp.blocks (w : Warp) (a : Access) : Bool :=
  w.pend.any (fun e => decide (e.serial < a.serial) && ordered e a) ||
    w.replay.any fun r => r.accs.any fun e => decide (e.serial < a.serial) && (ordered e a || e.meets a)

/-- Accesses that wait for some of `st`, directly or through others. -/
def stuckN : Nat → List Access → List Access → List Access
  | 0, _, st => st
  | n + 1, xs, st =>
    let more := xs.filter fun a => st.any fun e => decide (e.serial < a.serial) && ordered e a
    if more.isEmpty then st else
      stuckN n (xs.filter fun a => !(st.any fun e => decide (e.serial < a.serial) && ordered e a)) (more ++ st)

/-- Has the warp no result on its way that becomes ready on its own (R223)? Results behind a parked access, or behind an entry of
another warp, do not. DEDUCED: log 16. -/
def Warp.quiet (w : Warp) : Bool :=
  let fixed := w.replay.flatMap (·.accs) ++ w.pend.filter fun a => a.kind.bound?.isSome
  let st := stuckN w.pend.length w.pend fixed
  w.pend.all fun a => a.dests.isEmpty || st.any (·.serial == a.serial)

/-- A later access of these lanes is performed: the earlier ones of the same threads have been passed. -/
def Warp.pass (w : Warp) (serial : Nat) (lanes : Mask) : Warp :=
  let f := fun (e : Access) => if decide (e.serial < serial) && lanes &&& e.lanes != 0#64 then { e with passed := true } else e
  { w with pend := w.pend.map f, replay := w.replay.map fun r => { r with accs := r.accs.map f } }

/-- Does a read that a later access of its thread has passed wait to be performed on a byte of a range? What a read takes orders the
thread's later accesses after the copy or the operation that wrote it (R188, R189), so its stamp or STATE comes after such reads. -/
def State.passedOn (s : State) (p : Place) (a n : Nat) : Bool :=
  s.blocks.any fun b => b.warps.any fun w => w.queued.any fun e => e.passed && e.kind.reads && e.place == p && overlap e.addr e.size a n

/-- The loads of a warp that are bound to an entry are performed when it is ready (R49), and dropped when its production is
abandoned: the adopter's access is another (R50). DEDUCED: log 9. -/
def Warp.unbind (w : Warp) (eid : Nat) : Warp :=
  let mine := w.pend.filter fun a => a.kind.bound? == some eid
  if mine.isEmpty then w else
  mine.foldl (fun w a => w.pass a.serial a.lanes) { w with pend := w.pend.filter fun a => a.kind.bound? != some eid }

/-- The loads bound to an entry, in every warp. -/
def State.unbind (s : State) (eid : Nat) : State :=
  { s with blocks := s.blocks.map fun b => { b with warps := b.warps.map fun w => w.unbind eid } }

end Sys2Proof.Machine
end

