-- ==== Sys2Proof/Config.lean ====
section
/-! DEFINITION. What an implementation fixes and what the spec leaves open, as constants without a body: nothing
can be proved of their values. -/

namespace Sys2Proof.Config

open Sys2Proof

/-- The event that happens when no path has been chosen and no event is due, by tick (DESIGN CHOICE, log 2). -/
opaque schedule : Nat → Instr
/-- Is an event that is due the next one, by tick (DESIGN CHOICE, log 2)? -/
opaque dueFirst : Nat → Bool
/-- Which of the free indices an allocation takes, by tick (R34, R40; DESIGN CHOICE, log 5). -/
opaque pick : Nat → Nat
/-- Which of the free frame pairs a warp receives, by tick (R279; DESIGN CHOICE, log 10). -/
opaque framePick : Nat → Nat
/-- Where the search for an unused context ID (R276) or TAG (R275) starts, by tick (DESIGN CHOICE, log 36). -/
opaque idPick : Nat → Nat
/-- Microjoules that an issued instruction draws, by tick (R272; DESIGN CHOICE, log 11). -/
opaque energy : Nat → BitVec 64
/-- Do the lanes of every pair agree at a compared point of a saggar launch, by tick (R258; DESIGN CHOICE, log 15)? -/
opaque pairsAgree : Nat → Bool
/-- Which of the lines of a full I-cache leaves, by tick (R283; DESIGN CHOICE, log 7). -/
opaque evictLine : Nat → Nat
/-- Which of the entries of a full translation buffer leaves, by tick (R233; DESIGN CHOICE, log 7). -/
opaque evictTlb : Nat → Nat
/-- Which of the bytes of a full stack cache leaves, by tick (R1, R152; DESIGN CHOICE, log 7). -/
opaque evictStack : Nat → Nat
/-- The code key of a context (R284; DEDUCED, log 12): 256 bits, by context ID. -/
opaque codeKey : BitVec 32 → BitVec 256
/-- Do both signatures of an image verify (R263, R282; DESIGN CHOICE, log 13)? -/
opaque signed : List Byte → Bool
/-- The result of a test-vector package on a cluster, per vector, by tick (R263; DESIGN CHOICE, log 13). -/
opaque testResult : Nat → List Nat
/-- Voltage that a cluster's V/F curve requires (R216, R266; DESIGN CHOICE, log 19), by cluster, the number of its re-measurements and
the frequency step. -/
opaque vf : Nat → Nat → Nat → Nat
/-- A package's floor in tokens (R270; DESIGN CHOICE, log 19). -/
opaque floorTokens : Nat → Nat
/-- The frequency step at which a package's draw fits a cap in watts (R269; DESIGN CHOICE, log 19). -/
opaque freqFor : Nat → Nat → Nat
/-- The frequency step at which a launch's share of a package's draw fits a cap in watts (R268; DESIGN CHOICE, log 19). -/
opaque shareFreq : Nat → Nat → Nat
/-- The highest frequency step of a package that is no boost operating point (R212; DESIGN CHOICE, log 19). -/
opaque baseStep : Nat → Nat
/-- The measurement that SPDM returns for a request (R282; DESIGN CHOICE, log 13). -/
opaque measurement : Nat → Nat → Nat
/-- SRAM banks of a core (R257, R280; DESIGN CHOICE, log 20). -/
opaque banks : Nat
/-- Does the routing of a launch's rectangle check (R33; DESIGN CHOICE, log 19)? By tick. -/
opaque routeOk : Nat → Bool

end Sys2Proof.Config
end

