-- ==== Sys2Proof/Machine/Memory.lean ====
section
/-! DEFINITION. Memories: one canonical form, reads and writes of bytes and of little-endian runs of bytes. -/

namespace Sys2Proof.Machine

open Sys2Proof

/-- The canonical form above an address: rising addresses, no byte equal to 0. -/
def Memory.wfAbove : Nat → Memory → Bool
  | _, [] => true
  | n, (a, v) :: rest => decide (n ≤ a) && decide (v ≠ 0#8) && Memory.wfAbove (a + 1) rest

/-- The canonical form of a memory. -/
def Memory.wf (m : Memory) : Bool := Memory.wfAbove 0 m

/-- The byte at an address; an unlisted byte reads 0. DESIGN CHOICE: log 8. -/
def Memory.get : Memory → Nat → Byte
  | [], _ => 0#8
  | (k, v) :: rest, a => if a < k then 0#8 else if a = k then v else Memory.get rest a

/-- Write one byte; writing 0 unlists it. -/
def Memory.set : Memory → Nat → Byte → Memory
  | [], a, v => if v = 0#8 then [] else [(a, v)]
  | (k, w) :: rest, a, v =>
    if a < k then (if v = 0#8 then (k, w) :: rest else (a, v) :: (k, w) :: rest)
    else if a = k then (if v = 0#8 then rest else (a, v) :: rest)
    else (k, w) :: Memory.set rest a v

/-- `n` bytes from an address. -/
def Memory.bytes (m : Memory) (a : Nat) : Nat → List Byte
  | 0 => []
  | n + 1 => m.get a :: Memory.bytes m (a + 1) n

/-- Write a run of bytes. -/
def Memory.setBytes (m : Memory) (a : Nat) : List Byte → Memory
  | [] => m
  | b :: bs => Memory.setBytes (m.set a b) (a + 1) bs

/-- A little-endian number of `n` bytes. -/
def Memory.num (m : Memory) (a n : Nat) : Nat := leNat (m.bytes a n)
/-- A little-endian word. -/
def Memory.word (m : Memory) (a : Nat) : Word := BitVec.ofNat 32 (m.num a 4)
/-- A little-endian 64-bit number. -/
def Memory.dword (m : Memory) (a : Nat) : Dword := BitVec.ofNat 64 (m.num a 8)
/-- Write a word. -/
def Memory.setWord (m : Memory) (a : Nat) (w : Word) : Memory := m.setBytes a (leBytes 4 w.toNat)
/-- Write a 64-bit number. -/
def Memory.setDword (m : Memory) (a : Nat) (w : Dword) : Memory := m.setBytes a (leBytes 8 w.toNat)

/-- The memory without the bytes of a range (they read 0). -/
def Memory.clear (m : Memory) (a n : Nat) : Memory := m.filter (fun c => c.1 < a || a + n ≤ c.1)

end Sys2Proof.Machine
end

