-- ==== Sys2Proof/Machine/Packet.lean ====
section
/-! DEFINITION. The fields of a launch packet (R212), the numbering of packages, dies, clusters and cores
(R1, R216, R232), and what follows from them for blocks and warps (R15, R29, R30). -/

namespace Sys2Proof.Machine

open Sys2Proof

/-- Bits [hi:lo] of packet word `i`. -/
def Launch.fld (l : Launch) (i hi lo : Nat) : Nat := bitsOf (l.words.getD i 0).toNat hi lo
/-- A 64-bit field of two packet words. -/
def Launch.fld64 (l : Launch) (i : Nat) : Nat := (l.words.getD i 0).toNat + 2 ^ 32 * (l.words.getD (i + 1) 0).toNat

/-- KADDR. -/
def Launch.kaddr (l : Launch) : Nat := l.fld64 0
/-- GRIDX. -/
def Launch.gx (l : Launch) : Nat := l.fld 2 31 0
/-- GRIDY. -/
def Launch.gy (l : Launch) : Nat := l.fld 3 15 0
/-- GRIDZ. -/
def Launch.gz (l : Launch) : Nat := l.fld 3 31 16
/-- Blocks of the grid. -/
def Launch.blocks (l : Launch) : Nat := l.gx * l.gy * l.gz
/-- Threads of a block, T (R15). -/
def Launch.threads (l : Launch) : Nat := l.fld 4 10 0 * l.fld 4 26 16 * l.fld 5 10 0
/-- WIDTH code. -/
def Launch.wcode (l : Launch) : Nat := l.fld 5 13 12
/-- Warp width as the packet names it: 16, 32 or 64. -/
def Launch.physW (l : Launch) : Nat := if l.wcode = 0 then 16 else if l.wcode = 1 then 32 else 64
/-- SAGGAR. -/
def Launch.saggar (l : Launch) : Bool := l.fld 10 1 1 = 1
/-- Visible warp width W (R17, R258). -/
def Launch.w (l : Launch) : Nat := if l.saggar then l.physW / 2 else l.physW
/-- SPAN. -/
def Launch.span (l : Launch) : Nat := l.fld 5 19 16
/-- FAMILY. -/
def Launch.family (l : Launch) : Nat := l.fld 5 23 20
/-- Role j: warps and granted registers (R29). -/
def Launch.role (l : Launch) (j : Nat) : Nat × Nat :=
  let x := bitsOf (l.words.getD (6 + j / 2) 0).toNat (16 * (j % 2) + 15) (16 * (j % 2))
  (bitsOf x 6 0, 8 * (bitsOf x 10 7 + 1))
/-- The four roles. -/
def Launch.roles (l : Launch) : List (Nat × Nat) := (List.range 4).map l.role
/-- Shared memory of a block in bytes. -/
def Launch.shBytes (l : Launch) : Nat := 4096 * l.fld 8 6 0
/-- Sum-tree leaf grant. -/
def Launch.leaves (l : Launch) : Nat := l.fld 8 22 8
/-- Spill stack of a warp in bytes. -/
def Launch.stackBytes (l : Launch) : Nat := 1024 * l.fld 8 31 23
/-- PSIZE. -/
def Launch.psize (l : Launch) : Nat := l.fld 9 18 0
/-- MAXP. -/
def Launch.maxp (l : Launch) : Nat := l.fld 9 30 19
/-- DET. -/
def Launch.det (l : Launch) : Bool := l.fld 10 0 0 = 1
/-- CONTAINED. -/
def Launch.contained (l : Launch) : Bool := l.fld 10 2 2 = 1
/-- OWNCOMPAT. -/
def Launch.owncompat (l : Launch) : Bool := l.fld 10 3 3 = 1
/-- Interlocked mode (R99). -/
def Launch.interlocked (l : Launch) : Bool := l.fld 10 4 4 = 1 || l.family ≠ 1
/-- UCTRAP. -/
def Launch.uctrap (l : Launch) : Bool := l.fld 10 5 5 = 1
/-- FPTRAP, in the bit order of `WSTAT`. -/
def Launch.fptrap (l : Launch) : Word := BitVec.ofNat 32 (l.fld 10 10 6)
/-- MINF. -/
def Launch.minf (l : Launch) : Nat := l.fld 10 18 11
/-- BOOST. -/
def Launch.boost (l : Launch) : Bool := l.fld 10 19 19 = 1
/-- Mesh rectangle: MX0, MY0, MW, MH. -/
def Launch.rect (l : Launch) : Nat × Nat × Nat × Nat := (l.fld 11 7 0, l.fld 11 15 8, l.fld 11 23 16, l.fld 11 31 24)
/-- PADDR. -/
def Launch.paddr (l : Launch) : Nat := l.fld64 14
/-- Seed words k0, k1. -/
def Launch.seed (l : Launch) : Word × Word := (l.words.getD 12 0, l.words.getD 13 0)
/-- Event wait j: enabled, counter, value. -/
def Launch.wait (l : Launch) (j : Nat) : Bool × Nat × Nat :=
  (l.fld (16 + 3 * j) 31 31 = 1, l.fld (16 + 3 * j) 11 0, l.fld64 (17 + 3 * j))
/-- Event signal: enabled, counter. -/
def Launch.signal (l : Launch) : Bool × Nat := (l.fld 28 31 31 = 1, l.fld 28 11 0)

/-- Warps of a block (R15, R258). -/
def Launch.warps (l : Launch) : Nat := ceilDiv l.threads l.w

/-- Role and grant of warp `i` (R29). -/
def roleOf : List (Nat × Nat) → Nat → Nat → Nat × Nat
  | [], _, j => (j, 8)
  | (n, g) :: rest, i, j => if i < n then (j, g) else roleOf rest (i - n) (j + 1)

/-- Role and grant of warp `i`. -/
def Launch.warpRole (l : Launch) (i : Nat) : Nat × Nat := roleOf l.roles i 0

/-- Granules reserved by a block (R30). -/
def Launch.granules (l : Launch) : Nat :=
  (l.roles.map fun r => r.1 * (2 * (r.2 * (l.physW / 16) + 4))).sum
/-- Warp slots of a block: a 64-wide warp takes two (R17). -/
def Launch.slots (l : Launch) : Nat := l.warps * (if l.physW = 64 then 2 else 1)
/-- Threads counted against a core's 1,536 (R30); helper lanes do not count. -/
def Launch.coreThreads (l : Launch) : Nat := l.threads * (if l.saggar then 2 else 1)

/-- Needs of one block against the limits of R30: slots, threads, granules, shared granules, leaves. -/
def Launch.needs (l : Launch) : List Nat :=
  [l.slots, l.coreThreads, l.granules, l.fld 8 6 0, l.leaves]
/-- The per-core limits of R30. -/
def coreLimits : List Nat := [48, 1536, 8192, 64, 16384]

/-- Cluster of a core. -/
def clusterOf (core : Nat) : Nat := core / 8
/-- Package of a core. DESIGN CHOICE: log 4. -/
def packageOf (core : Nat) : Nat := core / 512
/-- Die of a cluster: its global index (R216). -/
def dieOf (cluster : Nat) : Nat := cluster / 8
/-- Die at a mesh column and row (R216). -/
def dieAt (x y : Nat) : Nat := 8 * (y / 2) + 4 * (y % 2) + x

/-- Dies of a rectangle. -/
def Launch.dies (l : Launch) : List Nat :=
  let (x0, y0, w, h) := l.rect
  (List.range h).flatMap fun y => (List.range w).map fun x => dieAt (x0 + x) (y0 + y)

/-- A launch by its number. -/
def State.launch? (s : State) (id : Nat) : Option Launch := s.launches.find? (·.id == id)
/-- A launch, with nothing in it when there is none. -/
def State.launch (s : State) (id : Nat) : Launch := (s.launch? id).getD default
/-- Rewrite a launch. -/
def State.modLaunch (s : State) (id : Nat) (f : Launch → Launch) : State :=
  { s with launches := s.launches.map fun l => if l.id = id then f l else l }
/-- A block by its number. -/
def State.block? (s : State) (id : Nat) : Option Block := s.blocks.find? (·.id == id)
/-- A block, with nothing in it when there is none. -/
def State.block (s : State) (id : Nat) : Block := (s.block? id).getD default
/-- Rewrite a block. -/
def State.modBlock (s : State) (id : Nat) (f : Block → Block) : State :=
  { s with blocks := s.blocks.map fun b => if b.id = id then f b else b }
/-- Rewrite a warp of a block. -/
def Block.modWarp (b : Block) (i : Nat) (f : Warp → Warp) : Block :=
  { b with warps := b.warps.map fun w => if w.idx = i then f w else w }
/-- A warp of a block. -/
def Block.warp (b : Block) (i : Nat) : Warp := (b.warps.find? (·.idx == i)).getD default
/-- Rewrite a warp. -/
def State.modWarp (s : State) (b w : Nat) (f : Warp → Warp) : State := s.modBlock b (·.modWarp w f)
/-- A warp. -/
def State.warp (s : State) (b w : Nat) : Warp := (s.block b).warp w
/-- A path of a warp. -/
def Warp.path? (w : Warp) (i : Nat) : Option Path := w.paths.find? (·.id == i)
/-- A path of a warp, with nothing in it when there is none. -/
def Warp.path (w : Warp) (i : Nat) : Path := (w.path? i).getD default
/-- Rewrite a path. -/
def Warp.modPath (w : Warp) (i : Nat) (f : Path → Path) : Warp :=
  { w with paths := w.paths.map fun p => if p.id = i then f p else p }
/-- Rewrite a path. -/
def State.modPath (s : State) (b w p : Nat) (f : Path → Path) : State := s.modWarp b w (·.modPath p f)
/-- Rewrite a core. -/
def State.modCore (s : State) (c : Nat) (f : CoreSt → CoreSt) : State := s.setCore c (f (s.core c))
/-- Rewrite a cluster. -/
def State.modCluster (s : State) (c : Nat) (f : Cluster → Cluster) : State := s.setCluster c (f (s.cluster c))
/-- Rewrite a package. -/
def State.modPkg (s : State) (c : Nat) (f : Package → Package) : State := s.setPkg c (f (s.pkg c))
/-- A context slot of a function. -/
def State.ctx (s : State) (fn slot : Nat) : Ctx := (alook slot (s.fn fn).ctxs).getD Ctx.init
/-- Rewrite a context slot. -/
def State.modCtx (s : State) (fn slot : Nat) (f : Ctx → Ctx) : State :=
  s.setFn fn { s.fn fn with ctxs := aput slot (f (s.ctx fn slot)) (s.fn fn).ctxs }
/-- Quadrant of a warp (R31). -/
def Warp.quad (w : Warp) : Nat := w.idx % 4
/-- A quadrant of a core. -/
def CoreSt.quad (c : CoreSt) (q : Nat) : Quad := c.quads.getD q default
/-- Rewrite a quadrant. -/
def CoreSt.modQuad (c : CoreSt) (q : Nat) (f : Quad → Quad) : CoreSt := { c with quads := modAt q f c.quads }
/-- A fresh serial number. DESIGN CHOICE: log 36. -/
def State.fresh (s : State) : State := { s with serial := s.serial + 1 }
/-- Add a record to the device event log (R280). -/
def State.logEvent (s : State) (pkg : Nat) (e : LogEvent) : State :=
  s.modPkg pkg fun p => { p with log := p.log ++ [e] }
/-- Put an event at the end of the agenda. DESIGN CHOICE: log 2. -/
def State.due (s : State) (e : Instr) : State := { s with agenda := s.agenda ++ [e] }

/-- Is a package cut off: every Zhobor link of it down (R281)? -/
def State.cutOff (s : State) (pkg : Nat) : Bool := (List.finRange 16).all fun k => (s.pkg pkg).zhobor.contains k
/-- Has a core no path to a package (R281)? -/
def State.unreachable (s : State) (core pkg : Nat) : Bool := pkg != packageOf core && (s.cutOff pkg || s.cutOff (packageOf core))

/-- The mask of all lanes of a warp. -/
def fullMask (w : Nat) : Mask := Mask.ofFn w (fun _ => true)
/-- Lanes of a warp by a test of their thread. -/
def Warp.lanesWhere (w : Warp) (f : Thread → Bool) : Mask :=
  Mask.ofFn w.threads.length (fun l => f (w.threads.getD l default))
/-- Helper lanes (R27). -/
def Warp.helpers (w : Warp) : Mask := w.lanesWhere (·.helper)
/-- Threads that have exited, or do not exist (R27). -/
def Warp.gone (w : Warp) : Mask := w.lanesWhere (fun t => t.exited || t.absent)
/-- Threads that have not exited. -/
def Warp.live (w : Warp) : Mask := ~~~ w.gone &&& fullMask w.threads.length
/-- Has every thread exited? -/
def Warp.exited (w : Warp) : Bool := w.live == 0#64

end Sys2Proof.Machine
end

