-- ==== Sys2Proof/Machine/ValueStore.lean ====
section
/-! DEFINITION. The value store of a core (R34 to R56): references, freeing, allocation, keys, the watch unit,
completion of productions, poison. -/

namespace Sys2Proof.Machine

open Sys2Proof

/-- Entries that a list of pointers names. -/
def ptrIds (xs : List (Nat × Nat)) : List Nat := xs.map (·.2)

/-- Entries that a checkpoint pins (R35). -/
def Checkpoint.ids (c : Checkpoint) : List Nat := ptrIds c.v ++ ptrIds c.s ++ ptrIds c.p

/-- Entries that a warp's registers point to. -/
def Warp.regIds (w : Warp) : List Nat :=
  ptrIds w.v ++ ptrIds w.p ++ w.paths.flatMap (fun p => ptrIds p.s) ++
    (match w.handler with | some h => h.others.flatMap (fun p => ptrIds p.s) | none => []) ++
    w.links.map (·.2.2)

/-- Entries that a warp holds: registers, pins of a transaction, waits (R35). -/
def Warp.ids (w : Warp) : List Nat :=
  w.regIds ++ (match w.tx with | some t => t.ck.ids | none => []) ++ w.waits.map (·.1)

/-- Entries that a block holds: its warps' and its checkpoint's pins. -/
def Block.ids (b : Block) : List Nat :=
  if b.ended then [] else
  b.warps.flatMap Warp.ids ++ (match b.ck with | some c => c.warps.flatMap Warp.regIds | none => [])

/-- Entries among the sources of a key. -/
def Key.ids (k : Key) : List Nat :=
  k.srcs.filterMap fun x => match x with | .entry _ e => some e | .code _ _ => none

/-- Entries referenced on a core (R35), key records aside. -/
def State.roots (s : State) (core : Nat) : List Nat :=
  (s.blocks.filter (·.core == core)).flatMap Block.ids ++
    (s.core core).matq.flatMap (fun m => m.caps.map (·.2.2))

/-- Entries referenced by key records (R37): of keys in the table, and of entries pending or abandoned. -/
def CoreSt.recordIds (c : CoreSt) : List Nat :=
  c.keys.flatMap (fun k => k.key.ids) ++
    c.entries.flatMap fun e => match e.st, e.key with
      | .ready, _ => []
      | _, some k => k.ids
      | _, none => []

/-- One round of freeing (R37): entries with no reference die, a pending one, with the sources that its record holds, when it
completes; their keys leave at once. -/
def CoreSt.sweepOnce (roots : List Nat) (c : CoreSt) : CoreSt × Nat :=
  let live := roots ++ c.recordIds
  let dying := c.entries.filter fun e => !e.dead && !live.contains e.eid
  let ids := dying.map (·.eid)
  if ids.isEmpty then (c, 0) else
    ({ c with
        entries := (c.entries.filter fun e => !(ids.contains e.eid && e.st != .pending)).map
          fun e => if ids.contains e.eid then { e with dead := true } else e
        keys := c.keys.filter fun k => !(k.results.any ids.contains) }, ids.length)

/-- Freeing until nothing more dies. -/
def CoreSt.sweepN (roots : List Nat) : Nat → CoreSt → Nat → CoreSt × Nat
  | 0, c, n => (c, n)
  | k + 1, c, n =>
    let (c', m) := CoreSt.sweepOnce roots c
    if m = 0 then (c, n) else CoreSt.sweepN roots k c' (n + m)

/-- Free what is no longer referenced; the deaths count in the acting warp's `DEATHS` (R56). `keep` names entries of the
instruction under way, whose destinations do not point to them yet. -/
def State.sweep (s : State) (core : Nat) (actor : Option (Nat × Nat)) (keep : List Nat := []) : State :=
  let c := s.core core
  let (c', n) := CoreSt.sweepN (keep ++ s.roots core) (c.entries.length + 1) c 0
  if n = 0 then s else
  let s := s.setCore core c'
  match actor with
  | some (b, w) => s.modWarp b w fun x => { x with deaths := x.deaths + BitVec.ofNat 32 n }
  | none => s

/-- Drop keys from the table (R40). -/
def State.dropKeys (s : State) (core : Nat) (bad : KeyRec → Bool) (actor : Option (Nat × Nat)) (keep : List Nat := []) : State :=
  if (s.core core).keys.any bad then
    (s.modCore core fun c => { c with keys := c.keys.filter (fun k => !bad k) }).sweep core actor keep
  else s

/-- The key that eviction takes (R40): oldest last use, then the earlier inserted. -/
def oldestKey : List KeyRec → Option KeyRec
  | [] => none
  | k :: ks => match oldestKey ks with
    | none => some k
    | some j => if k.lastUse < j.lastUse || (k.lastUse == j.lastUse && k.born < j.born) then some k else some j

/-- Evict one key (R40). DEDUCED: log 25. -/
def State.evict (s : State) (core : Nat) (actor : Option (Nat × Nat)) (keep : List Nat := []) : State :=
  match oldestKey (s.core core).keys with
  | none => s
  | some k => s.dropKeys core (fun j => j.born == k.born) actor keep

/-- Free aligned indices for an entry of a class (R34): `v` entries take granules, `s` and `p` small slots. -/
def CoreSt.free (c : CoreSt) (cls : RegClass) (size : Nat) : List Nat :=
  let big := cls == .v
  let used := (c.entries.filter fun e => (e.cls == .v) == big).map fun e => (e.index, e.size)
  ((List.range (8192 / size)).map (· * size)).filter fun i =>
    used.all fun u => i + size ≤ u.1 || u.1 + u.2 ≤ i

/-- Evict keys until an index is free (R40). DEDUCED: log 25. -/
def State.makeRoom (core : Nat) (cls : RegClass) (size : Nat) (actor : Option (Nat × Nat)) (keep : List Nat) : Nat → State → State
  | 0, s => s
  | n + 1, s =>
    if ((s.core core).free cls size).isEmpty then State.makeRoom core cls size actor keep n (s.evict core actor keep) else s

/-- Size of an entry in its space (R34). -/
def entrySize (cls : RegClass) (w : Nat) : Nat :=
  match cls with | .v => w / 16 | .s => 1 | .p => if w = 64 then 2 else 1

/-- Generation of an index in a space (R35). -/
def CoreSt.genOf (c : CoreSt) (big : Bool) (i : Nat) : BitVec 3 :=
  match c.gens.find? fun g => (g.1 == RegClass.v) == big && g.2.1 == i with
  | some g => g.2.2
  | none => 0#3

/-- The next generation of an index: advancing by 1 modulo 8, and never the zero entry's tag (R35). -/
def nextGen (i : Nat) (g : BitVec 3) : BitVec 3 := if i = 0 && g == 7#3 then 1#3 else g + 1#3

/-- Allocate an entry (R34, R35). The index taken among the free ones is a free value (DESIGN CHOICE, log 5). -/
def State.alloc (s : State) (core : Nat) (w : Nat) (actor : Option (Nat × Nat)) (e : Entry) (keep : List Nat := []) : State × Nat :=
  let size := entrySize e.cls w
  let s := s.makeRoom core e.cls size actor keep ((s.core core).keys.length)
  let c := s.core core
  let fr := c.free e.cls size
  let i := fr.getD (Config.pick s.tick % fr.length) 0
  let big := e.cls == .v
  let g := nextGen i (c.genOf big i)
  let id := s.serial
  let e := { e with eid := id, index := i, gen := g, size := size }
  ({ s with serial := s.serial + 1, tick := s.tick + 1 }.setCore core
    { c with entries := c.entries ++ [e],
             gens := (e.cls, i, g) :: c.gens.filter fun x => !((x.1 == RegClass.v) == big && x.2.1 == i) }, id)

/-- An entry of a core; identity 0 is the zero entry (R35). -/
def CoreSt.entry? (c : CoreSt) (id : Nat) : Option Entry := c.entries.find? (·.eid == id)

/-- The value of an entry in lane `l` (the zero entry holds zeros). -/
def CoreSt.laneVal (c : CoreSt) (id : Nat) (l : Nat) : Word :=
  match c.entry? id with
  | some e => e.value.getD (if e.cls == .s then 0 else l) 0
  | none => 0#32

/-- Rewrite an entry. -/
def CoreSt.modEntry (c : CoreSt) (id : Nat) (f : Entry → Entry) : CoreSt :=
  { c with entries := c.entries.map fun e => if e.eid = id then f e else e }

/-- Index and generation of an entry as `LTAG` reports them: GEN in [15:13] and INDEX in [12:0], the table of R10. R35 puts the index in
[15:3] and the generation in [2:0] of the tag; the model takes that for the stored form, which nothing else shows (DEDUCED, log 37). -/
def CoreSt.tag (c : CoreSt) (id : Nat) : Word :=
  match c.entry? id with
  | some e => BitVec.ofNat 32 (8192 * e.gen.toNat + e.index)
  | none => 0#32

/-- Is an entry ready to be read? -/
def CoreSt.isReady (c : CoreSt) (id : Nat) : Bool :=
  match c.entry? id with | some e => e.st == .ready | none => true

/-- Raise flags in a warp. DEDUCED: log 33. -/
def State.raise (s : State) (b w : Nat) (flags : Word) : State :=
  if flags == 0#32 then s else s.modWarp b w fun x => { x with wstat := x.wstat ||| flags }

/-- Abandon the pending entries that a test names (R37): their keys leave the table, the records stay, and loads bound to them wait
for them no more. -/
def State.abandon (s : State) (core : Nat) (f : Entry → Bool) : State :=
  let hit := fun (e : Entry) => e.st == .pending && f e
  let own := ((s.core core).entries.filter hit).map (·.eid)
  let bad := fun (e : Entry) => hit e || (e.st == .pending && e.copyOf.any own.contains)
  let ids := ((s.core core).entries.filter bad).map (·.eid)
  if ids.isEmpty then s else
  let s := ids.foldl State.unbind s
  (s.modCore core fun c =>
    { c with
      entries := (c.entries.filter fun e => !(bad e && e.dead)).map fun e =>
        if bad e then { e with st := .abandoned, copyOf := none } else e
      keys := c.keys.filter fun k => !k.results.any ids.contains }).sweep core none

/-- The watch unit (R48): a write to bytes of a block's shared memory removes every load key that read one. -/
def State.watch (s : State) (blk addr n : Nat) (actor : Option (Nat × Nat)) : State :=
  s.dropKeys (s.block blk).core
    (fun k => k.watch.any fun x => x.1 == blk && decide (x.2.1 < addr + n) && decide (addr < x.2.1 + x.2.2)) actor

/-- Poison an entry and every entry whose key record names it (R54). -/
def CoreSt.poisonN : Nat → CoreSt → List Nat → CoreSt
  | 0, c, _ => c
  | n + 1, c, ids =>
    let more := (c.entries.filter fun e =>
      !e.poison && (ids.contains e.eid || (e.st != .ready && (match e.key with | some k => k.ids.any ids.contains | none => false))
        || c.keys.any fun k => k.results.contains e.eid && k.key.ids.any ids.contains)).map (·.eid)
    if more.isEmpty then c else
      CoreSt.poisonN n { c with entries := c.entries.map fun e => if more.contains e.eid then { e with poison := true } else e } (ids ++ more)

/-- An entry's storage has an uncorrectable error (R54). -/
def State.poison (s : State) (core id : Nat) : State :=
  let s := s.modCore core fun c => CoreSt.poisonN (c.entries.length + 1) c [id]
  let bad := ((s.core core).entries.filter (·.poison)).map (·.eid)
  s.dropKeys core (fun k => k.results.any bad.contains || k.key.ids.any bad.contains) none

end Sys2Proof.Machine
end

