-- ==== Sys2Proof/Machine/Translate.lean ====
section
/-! DEFINITION. Page attributes (R155, R156), the four-level walk (R231, R232), the TLB (R233), the bytes behind a
virtual address (R84), and fault records (R275). -/

namespace Sys2Proof.Machine

open Sys2Proof

/-- Page attributes of a leaf (R155). -/
structure Attr where
  hbm : Bool
  ord : POrd
  fmt : Nat
  tile : Bool
  lro : Bool
  rd : Bool
  wr : Bool
  fx : Bool
  pitch : Nat
  deriving DecidableEq, Repr, Inhabited

/-- An attribute word read; `none` is malformed (R155). -/
def attrOf (w : Word) : Option Attr :=
  let x := w.toNat
  let kind := bitsOf x 1 0
  let ord := bitsOf x 3 2
  let fmt := bitsOf x 8 4
  let tile := bitsOf x 9 9 == 1
  let pitch := bitsOf x 27 16
  if 2 ≤ kind || ord == 3 || !(fmt == 0 || (0x10 ≤ fmt && fmt ≤ 0x12)) || bitsOf x 15 14 != 0 ||
      bitsOf x 31 28 != 0 || (if tile then pitch == 0 else pitch != 0) then none
  else some { hbm := kind == 1, ord := if ord = 0 then .so else if ord = 1 then .rc else .uo, fmt := fmt, tile := tile,
              lro := bitsOf x 10 10 == 1, rd := bitsOf x 11 11 == 1, wr := bitsOf x 12 12 == 1,
              fx := bitsOf x 13 13 == 1, pitch := 16 * pitch }

/-- A leaf found by a walk: attributes, frame address, page base and page size. -/
structure Leaf where
  attr : Attr
  frame : Nat
  base : Nat
  size : Nat
  deriving DecidableEq, Repr, Inhabited

/-- What a walk gives (R232). -/
inductive Walk where
  | fault
  | bad
  | leaf (l : Leaf)
  deriving DecidableEq, Repr, Inhabited

/-- Is a frame address in the physical map of its kind (R232)? DESIGN CHOICE: log 4. -/
def frameOk (packages : Nat) (hbm : Bool) (a : Nat) : Bool :=
  if hbm then bitsOf a 63 43 == 0 && decide (bitsOf a 42 39 < packages)
  else bitsOf a 63 33 == 0 && decide (bitsOf a 32 29 < packages)

/-- Low bit and bits of the index of a level (R231). -/
def levelBits (level : Nat) : Nat × Nat :=
  if level = 4 then (43, 14) else if level = 3 then (30, 13) else if level = 2 then (21, 9) else (16, 5)

/-- Walk from a table of a level (R231, R232). -/
def walkFrom (hbm : Memory) (packages va : Nat) : Nat → Nat → Walk
  | 0, _ => .bad
  | level + 1, table =>
    let (lo, n) := levelBits (level + 1)
    let e := table + 16 * (va / 2 ^ lo % 2 ^ n)
    let attr := hbm.word e
    let w1 := (hbm.word (e + 4)).toNat
    let addr := (hbm.dword (e + 8)).toNat
    if w1 % 4 = 0 then .fault
    else if w1 % 4 = 3 || w1 / 4 != 0 || 2 ^ 52 ≤ addr then .bad
    else if w1 % 4 = 1 then
      if level = 0 || attr != 0#32 || addr % (16 * 2 ^ (levelBits level).2) != 0 || !frameOk packages true addr then .bad
      else walkFrom hbm packages va level addr
    else if level = 3 then .bad
    else match attrOf attr with
      | none => .bad
      | some a =>
        let size := 2 ^ lo
        if addr % (if a.fmt = 0 then size else 65536) != 0 || !frameOk packages a.hbm addr then .bad
        else .leaf { attr := a, frame := addr, base := va / size * size, size := size }

/-- Walk a context's tables. -/
def State.walk (s : State) (c : Ctx) (va : Nat) : Walk := walkFrom s.hbm s.packages va 4 c.root.toNat

/-- The leaf of an entry of a translation buffer. -/
def TlbEntry.leaf? (e : TlbEntry) : Option Leaf := (attrOf e.word).map fun a => { attr := a, frame := e.frame, base := e.base, size := e.size }

/-- The leaf that a translation buffer holds for an address (R233). -/
def tlbFind (tlb : List TlbEntry) (u : TlbUnit) (va : Nat) : Option Leaf :=
  (tlb.find? fun e => e.unit == u && decide (e.base ≤ va) && decide (va < e.base + e.size)).bind TlbEntry.leaf?

/-- The attribute word of a leaf's attributes. -/
def Attr.word (a : Attr) : Word :=
  BitVec.ofNat 32 ((if a.hbm then 1 else 0) + 4 * (match a.ord with | .so => 0 | .rc => 1 | .uo => 2) + 16 * a.fmt +
    (if a.tile then 512 else 0) + (if a.lro then 1024 else 0) + (if a.rd then 2048 else 0) +
    (if a.wr then 4096 else 0) + (if a.fx then 8192 else 0) + 65536 * (a.pitch / 16))

/-- Translate an address of a context: for a core its TLB and then its cluster's, and a walk (R1, R233). The device itself, for no core,
walks (DESIGN CHOICE, log 7). -/
def State.translate (s : State) (core : Option Nat) (fn slot va : Nat) : Walk :=
  let c := s.ctx fn slot
  match core.bind fun k => (tlbFind c.tlb (.core k) va).or (tlbFind c.tlb (.cluster (clusterOf k)) va) with
  | some l => .leaf l
  | none => s.walk c va

/-- Bytes of memory behind a leaf (R84, R232). -/
def Leaf.bytes (l : Leaf) : Nat := if l.attr.fmt = 0 then l.size else l.size / 64 * sxSize l.attr.fmt

/-- The frame behind a leaf: its memory, address and length. -/
def Leaf.span (l : Leaf) : Bool × Nat × Nat := (l.attr.hbm, l.frame, l.bytes)

/-- Does a list of frames hold all of a frame? -/
def hasFrame (x : Bool × Nat × Nat) (ps : List (Bool × Nat × Nat)) : Bool :=
  ps.any fun k => k.1 == x.1 && decide (k.2.1 ≤ x.2.1) && decide (x.2.1 + x.2.2 ≤ k.2.1 + k.2.2)

/-- Entries of a translation buffer, each with its function and slot. -/
def State.tlbOf (s : State) (u : TlbUnit) : List (Nat × Nat × TlbEntry) :=
  s.fns.flatMap fun f => f.2.ctxs.flatMap fun c => (c.2.tlb.filter (·.unit == u)).map fun e => (f.1, c.1, e)

/-- Entries of a translation buffer (R1, R233). -/
def TlbUnit.size : TlbUnit → Nat | .core _ => 256 | .cluster _ => 4096

/-- A full translation buffer evicts an entry; which one is a draw of the tick. DESIGN CHOICE: log 7. -/
def State.tlbRoom (s : State) (u : TlbUnit) : State :=
  let es := s.tlbOf u
  if es.length < u.size then s else
  let t := { s with tick := s.tick + 1 }
  match es[Config.evictTlb s.tick % es.length]? with
  | some x => t.modCtx x.1 x.2.1 fun c => { c with tlb := c.tlb.erase x.2.2 }
  | none => t

/-- Keep a valid leaf in a translation buffer (R233). -/
def State.tlbKeep (s : State) (fn slot : Nat) (l : Leaf) (u : TlbUnit) : State :=
  if (tlbFind (s.ctx fn slot).tlb u l.base).isSome then s else
  (s.tlbRoom u).modCtx fn slot fun c =>
    { c with tlb := c.tlb ++ [{ unit := u, base := l.base, size := l.size, word := l.attr.word, frame := l.frame }] }

/-- A context has reached a frame (R157). -/
def State.notePage (s : State) (fn slot : Nat) (l : Leaf) : State :=
  if hasFrame l.span (s.ctx fn slot).pages then s else s.modCtx fn slot fun c => { c with pages := l.span :: c.pages }

/-- A core has translated an address: its TLB and its cluster's keep the leaf (R1, R233), and the context has reached its frame (R157).
DESIGN CHOICE: log 7. -/
def State.cacheLeaf (s : State) (core fn slot : Nat) (l : Leaf) : State :=
  ((s.notePage fn slot l).tlbKeep fn slot l (.cluster (clusterOf core))).tlbKeep fn slot l (.core core)

/-- Physical address of a byte of a page's plain bytes: those of a RAW page, and what a copy moves of an SX page (R85). A copy's offset on
an SX page may lie past the page's `L` x `B` / 64 bytes: the spec is silent, and the copy moves the bytes at the frame's address plus the
offset all the same (DESIGN CHOICE, log 39). -/
def Leaf.pa (l : Leaf) (va : Nat) : Nat := l.frame + (va - l.base)

/-- Element of an SX page (R84): physical address of its block, and its position. For a tile page whose pitch does not divide it into a
multiple of 4 rows R84 gives no outcome: its formula is applied as it stands (DESIGN CHOICE, log 37). -/
def Leaf.element (l : Leaf) (va : Nat) : Nat × Nat :=
  let off := va - l.base
  let (j, pos) :=
    if l.attr.tile then
      let y := off / l.attr.pitch
      let x := off % l.attr.pitch / 4
      ((y / 4) * (l.attr.pitch / 16) + x / 4, 4 * (y % 4) + x % 4)
    else (off / 4 / 16, off / 4 % 16)
  (l.frame + j * (if l.attr.fmt = 0x10 then 8 else if l.attr.fmt = 0x11 then 12 else 18), pos)

/-- Post a fault record to a context's queue, or keep it while the ring is full (R275). DESIGN CHOICE: log 36. -/
def State.postRecords : Nat → State → Nat → Nat → State
  | 0, s, _, _ => s
  | n + 1, s, fn, slot =>
    let c := s.ctx fn slot
    match c.records with
    | [] => s
    | r :: rest =>
      let size := 2 ^ c.fqsize
      if (c.fqtail.toNat + 1) % size = c.fqhead.toNat % size then s
      else
        let a := c.fqbase.toNat + 32 * (c.fqtail.toNat % size)
        let s := { s with host := s.host.setBytes a (r.flatMap wordBytes) }
        State.postRecords n (s.modCtx fn slot fun c =>
          { c with records := rest, fqtail := BitVec.ofNat 12 ((c.fqtail.toNat + 1) % size) }) fn slot

/-- Queue a fault record (R275): KIND, access kind, TAG, address, block, warp, step, second block. -/
def State.faultRecord (s : State) (fn slot kind akind tag va blk warp step second : Nat) : State :=
  let r : List Word := [BitVec.ofNat 32 (kind + 16 * akind + 256 * tag), BitVec.ofNat 32 va,
    BitVec.ofNat 32 (va / 2 ^ 32), BitVec.ofNat 32 blk, BitVec.ofNat 32 warp, BitVec.ofNat 32 step,
    BitVec.ofNat 32 second, 0#32]
  let s := s.modCtx fn slot fun c => { c with records := c.records ++ [r] }
  State.postRecords (s.ctx fn slot).records.length s fn slot

/-- A context's memory through its tables, for structures that the host keeps mapped (R279, R415): the physical
place of a byte, for a core or for the device itself. -/
def State.place (s : State) (core : Option Nat) (fn slot va : Nat) : Option (Leaf × Nat) :=
  match s.translate core fn slot va with
  | .leaf l => some (l, l.pa va)
  | _ => none

/-- Key of a byte of global memory: HBM bytes are numbered apart from scratchpad bytes. -/
def lineAddr (hbm : Bool) (a : Nat) : Nat := if hbm then 2 ^ 66 + a else a

/-- Number of a byte of a block's shared memory among the bytes marked as poisoned. -/
def sharedAddr (b a : Nat) : Nat := 2 ^ 68 + 2 ^ 18 * b + a

/-- Is a byte of a range of a block's shared memory marked as poisoned (R261)? -/
def State.sharedBad (s : State) (b a n : Nat) : Bool := s.badBytes.any fun x => decide (sharedAddr b a ≤ x) && decide (x < sharedAddr b a + n)

/-- Bytes that are written are no longer marked as poisoned (R261). -/
def State.mended (s : State) (hbm : Bool) (a n : Nat) : State :=
  { s with badBytes := s.badBytes.filter fun x => !(decide (lineAddr hbm a ≤ x) && decide (x < lineAddr hbm a + n)) }

/-- A byte of the memory of a kind of page. -/
def State.memGet (s : State) (hbm : Bool) (a : Nat) : Byte := if hbm then s.hbm.get a else s.scratch.get a
/-- Write a byte of the memory of a kind of page. -/
def State.memSet (s : State) (hbm : Bool) (a : Nat) (v : Byte) : State :=
  if hbm then { s with hbm := s.hbm.set a v } else { s with scratch := s.scratch.set a v }

/-- Bytes of a context's virtual memory; an unmapped byte, or one marked as poisoned (R261), gives none. -/
def State.vread (s : State) (core : Option Nat) (fn slot va : Nat) : Nat → Option (List Byte)
  | 0 => some []
  | n + 1 =>
    match s.place core fn slot va, State.vread s core fn slot (va + 1) n with
    | some (l, a), some bs => if s.badBytes.contains (lineAddr l.attr.hbm a) then none else some (s.memGet l.attr.hbm a :: bs)
    | _, _ => none

/-- A word of a context's virtual memory. -/
def State.vword (s : State) (core : Option Nat) (fn slot va : Nat) : Option Word :=
  (s.vread core fn slot va 4).map fun bs => BitVec.ofNat 32 (leNat bs)

/-! ### Mappings of frames -/

/-- Valid leaves below a table (R231, R232). -/
def leavesFrom (hbm : Memory) (packages : Nat) : Nat → Nat → Nat → List Leaf
  | 0, _, _ => []
  | level + 1, table, base =>
    let (lo, n) := levelBits (level + 1)
    (List.range (2 ^ n)).flatMap fun i =>
      let va := base + i * 2 ^ lo
      let e := table + 16 * i
      let kind := (hbm.word (e + 4)).toNat
      if kind = 1 then (if level = 0 then [] else leavesFrom hbm packages level (hbm.dword (e + 8)).toNat va)
      else if kind = 2 then
        (match walkFrom hbm packages va (level + 1) table with
         | .leaf l => [l]
         | _ => [])
      else []

/-- Leaves of a context's tables. -/
def State.tableLeaves (s : State) (c : Ctx) : List Leaf := leavesFrom s.hbm s.packages 4 c.root.toNat 0

/-- Leaves of a context: those in the TLBs, then those of its tables. -/
def State.leavesOf (s : State) (c : Ctx) : List Leaf :=
  c.tlb.filterMap TlbEntry.leaf? ++ s.tableLeaves c

/-! ### Pages that pass from one context to another (R157) -/

/-- Contexts that exist: function, slot. -/
def State.liveCtxs (s : State) : List (Nat × Nat) :=
  s.fns.flatMap fun f => (f.2.ctxs.filter fun c => c.2.st != .empty).map fun c => (f.1, c.1)

/-- Frames that a context may have left data in: those that it has reached, and those that it maps. -/
def State.framesOf (s : State) (c : Ctx) : List (Bool × Nat × Nat) := c.pages ++ (s.leavesOf c).map Leaf.span

/-- Do two frames share a byte? -/
def sharesFrame (x y : Bool × Nat × Nat) : Bool := x.1 == y.1 && overlap x.2.1 x.2.2 y.2.1 y.2.2

/-- What is left of frame `k` outside frame `x`. -/
def cutFrame (x k : Bool × Nat × Nat) : List (Bool × Nat × Nat) :=
  if !sharesFrame x k then [k] else
  (if k.2.1 < x.2.1 then [(k.1, k.2.1, x.2.1 - k.2.1)] else []) ++
    (if x.2.1 + x.2.2 < k.2.1 + k.2.2 then [(k.1, x.2.1 + x.2.2, k.2.1 + k.2.2 - (x.2.1 + x.2.2))] else [])

/-- Zero a frame. -/
def State.zeroFrame (s : State) (x : Bool × Nat × Nat) : State :=
  { s with hbm := if x.1 then s.hbm.clear x.2.1 x.2.2 else s.hbm, scratch := if x.1 then s.scratch else s.scratch.clear x.2.1 x.2.2 }.mended
    x.1 x.2.1 x.2.2

/-- A mapping of a frame becomes valid in a context: a frame that another context has used is zeroed first, and is no longer that
one's when it maps it no more; what it used around the frame stays its own. DEDUCED: log 27. -/
def State.mapFrame (s : State) (fn slot : Nat) (x : Bool × Nat × Nat) : State :=
  if hasFrame x (s.ctx fn slot).pages then s else
  let others := s.liveCtxs.filter fun o => o != (fn, slot) && (s.framesOf (s.ctx o.1 o.2)).any (sharesFrame x)
  let s := if others.isEmpty then s else s.zeroFrame x
  let s := others.foldl (fun s o => s.modCtx o.1 o.2 fun c =>
    { c with pages := c.pages.flatMap fun k => if (s.leavesOf c).any fun l => l.span == k then [k] else cutFrame x k }) s
  s.modCtx fn slot fun c => { c with pages := x :: c.pages }

/-- Mappings that have become valid are taken note of, their pages zeroed before an access reaches them (R157). A context alone on the
device meets no data of another. -/
def State.mapNew (s : State) : State :=
  let live := s.liveCtxs
  if live.length < 2 then s else
  live.foldl (fun s o => (s.tableLeaves (s.ctx o.1 o.2)).foldl (fun s l => s.mapFrame o.1 o.2 l.span) s) s

end Sys2Proof.Machine
end

