-- ==== Sys2Proof/Machine/View.lean ====
section
/-! DEFINITION. The value an atomic leaves (R302), and what a block reads: memory as it stands, under its release buffer
(R260) and its DET view (R242). -/

namespace Sys2Proof.Machine

open Sys2Proof

/-- Bytes of an atomic type. -/
def atomSize : AtomTy → Nat | .u64 => 8 | _ => 4

/-- The new value of an atomic (R302). -/
def atomNew (op : AtomOp) (ty : AtomTy) (w b c : Dword) : Dword :=
  let lt := fun (x y : Dword) => match ty with
    | .s32 => decide (x.lo.toInt < y.lo.toInt) | .u64 => decide (x.toNat < y.toNat) | _ => decide (x.lo.toNat < y.lo.toNat)
  match op with
  | .add => match ty with
    | .f32 => BitVec.ofNat 64 (fp32.add { rnd := .rne, ftz := false } w.lo.toNat b.lo.toNat).1
    | .u64 => w + b
    | _ => (w.lo + b.lo).setWidth 64
  | .min => if lt b w then b else w
  | .max => if lt w b then b else w
  | .and => w &&& b
  | .or => w ||| b
  | .xor => w ^^^ b
  | .exch => b
  | .cas => if (match ty with | .u64 => w == b | _ => w.lo == b.lo) then c else w

/-! ### What a block reads -/

/-- A byte of memory as it stands. -/
def State.rawByte (s : State) (p : Place) (a : Nat) : Byte :=
  match p with | .shared b => (s.block b).shared.get a | .scratch => s.scratch.get a

/-- Look a byte up among overlaid bytes. -/
def overlaid (ov : List (Place × Nat × Byte)) (p : Place) (a : Nat) : Option Byte :=
  (ov.find? fun e => e.1 == p && e.2.1 == a).map (·.2.2)

/-- Bytes laid over memory, newest first. -/
def layBytes (p : Place) : Nat → List Byte → List (Place × Nat × Byte) → List (Place × Nat × Byte)
  | _, [], ov => ov
  | a, b :: bs, ov => layBytes p (a + 1) bs ((p, a, b) :: ov)

/-- The bytes that a release buffer puts over memory (R260). -/
def State.overlay (s : State) : List Buffered → List (Place × Nat × Byte) → List (Place × Nat × Byte)
  | [], ov => ov
  | x :: xs, ov =>
    let bs := match x.red with
      | none => x.bytes
      | some (op, ty, b) =>
        let old := (List.range (atomSize ty)).map fun i => (overlaid ov x.place (x.addr + i)).getD (s.rawByte x.place (x.addr + i))
        leBytes (atomSize ty) (atomNew op ty (BitVec.ofNat 64 (leNat old)) b 0#64).toNat
    State.overlay s xs (layBytes x.place x.addr bs ov)

/-- A byte of global memory as the latest merge of a DET launch left it (R242). -/
def State.priorByte (s : State) (l : Launch) (hbm : Bool) (a : Nat) : Byte := (alook (lineAddr hbm a) l.base).getD (s.memGet hbm a)

/-- A byte as a block reads it: in DET mode scratchpad through its view, else its release buffer over memory (R242, R260). -/
def State.seenByte (s : State) (b : Nat) (p : Place) (a : Nat) : Byte :=
  let blk := s.block b
  let l := s.launch blk.launch
  if p == .scratch && l.det then (alook a blk.view).getD (s.priorByte l false a)
  else if blk.release.isEmpty then s.rawByte p a
  else (overlaid (s.overlay blk.release []) p a).getD (s.rawByte p a)

/-- A byte of global memory as a block's copies and fetches read it (R242, R260). -/
def State.globalByte (s : State) (b : Nat) (hbm : Bool) (a : Nat) : Byte :=
  let l := s.launch (s.block b).launch
  if hbm then (if l.det then (alook a (s.block b).stepCopies).getD (s.priorByte l true a) else s.hbm.get a) else s.seenByte b .scratch a

/-- Does a block that reads a range of global memory read a byte marked as poisoned (R261)? The bytes of its own DET view and release
buffer are none. -/
def State.readsBad (s : State) (b : Nat) (hbm : Bool) (a n : Nat) : Bool :=
  let blk := s.block b
  let own := fun (i : Nat) =>
    if (s.launch blk.launch).det then (alook (a + i) (if hbm then blk.stepCopies else blk.view)).isSome
    else !hbm && blk.release.any fun x => x.place == .scratch && x.red.isNone && decide (x.addr ≤ a + i) && decide (a + i < x.addr + x.bytes.length)
  !s.badBytes.isEmpty && (List.range n).any fun i => s.badBytes.contains (lineAddr hbm (a + i)) && !own i

/-- A run of bytes as a block reads it. -/
def State.seenBytes (s : State) (b : Nat) (p : Place) (a n : Nat) : List Byte :=
  (List.range n).map fun i => s.seenByte b p (a + i)

/-- A word of scratchpad as a block reads it. -/
def State.seenWord (s : State) (b pa : Nat) : Word := BitVec.ofNat 32 (leNat (s.seenBytes b .scratch pa 4))
/-- A 64-bit number of scratchpad as a block reads it. -/
def State.seenDword (s : State) (b pa : Nat) : Dword := BitVec.ofNat 64 (leNat (s.seenBytes b .scratch pa 8))

end Sys2Proof.Machine
end

