-- ==== Sys2Proof/Machine/Paths.lean ====
section
/-! DEFINITION. Threads, paths and meeting points (R19 to R27), uniform registers at joins (R53), the waits of paths. -/

namespace Sys2Proof.Machine

open Sys2Proof

/-! ### Current reservations (R267) -/

/-- Ask a cluster's arbiter for current. -/
def State.askCurrent (s : State) (cls : ReqClass) (core who units : Nat) : State :=
  let n := s.serial
  s.fresh.modCluster (clusterOf core) fun k =>
    { k with reqs := k.reqs ++ [{ serial := n, cls := cls, core := core, who := who, units := units, passed := 0 }] }

/-- Give a reservation back, or withdraw a request. -/
def State.freeCurrent (s : State) (cls : ReqClass) (core who : Nat) : State :=
  s.modCluster (clusterOf core) fun k =>
    { k with reqs := k.reqs.filter (fun r => !(r.cls == cls && r.core == core && r.who == who)),
             held := k.held.filter fun h => !(h.1 == cls && h.2.1 == core && h.2.2.1 == who) }

/-- A warp's `CHRUN` requests and reservations are given back, but for the paths that a test names. -/
def State.endChrun (s : State) (b w : Nat) (keep : Nat → Bool) : State :=
  let core := (s.block b).core
  let gone := (s.core core).chrun.filter fun x => x.1 == b && x.2.1 == w && !keep x.2.2.1
  if gone.isEmpty then s else
  gone.foldl (fun s x => s.freeCurrent .vector core x.2.2.1)
    (s.modCore core fun c => { c with chrun := c.chrun.filter fun x => !gone.contains x })

/-! ### Paths -/

/-- Lowest lane of a path, for the order of paths. -/
def Path.low (p : Path) : Nat := (p.mask.lowest).getD 64

/-- Insert a path by its lowest lane. -/
def insertPath (p : Path) : List Path → List Path
  | [] => [p]
  | q :: qs => if p.low ≤ q.low then p :: q :: qs else q :: insertPath p qs

/-- Paths by lowest thread. -/
def sortPaths : List Path → List Path
  | [] => []
  | p :: ps => insertPath p (sortPaths ps)

/-- The longest common tail of two histories, given oldest first. -/
def commonFront : List Nat → List Nat → List Nat
  | a :: as, b :: bs => if a = b then a :: commonFront as bs else []
  | _, _ => []

/-- History of an `s` register on a path, oldest first. -/
def Path.history (p : Path) (r : Nat) : List Nat := ((alook r p.log).getD []).reverse

/-- The history that all the paths share, oldest first (R53: before they separated). -/
def sharedHistory (r : Nat) : List Path → List Nat
  | [] => []
  | [p] => p.history r
  | p :: ps => commonFront (p.history r) (sharedHistory r ps)

/-- Do two entries hold bit-identical values? -/
def CoreSt.sameS (c : CoreSt) (a b : Nat) : Bool :=
  a == b || (match c.entry? a, c.entry? b with
    | some x, some y => x.known && y.known && x.value == y.value
    | some x, none => x.known && x.value.all (· == 0#32)
    | none, some y => y.known && y.value.all (· == 0#32)
    | none, none => true)

/-- Resolve one `s` register of joining paths, ordered by lowest thread (R53): pointer, history, conflict. -/
def resolveS (c : CoreSt) (ps : List Path) (r serial : Nat) : Nat × List Nat × Bool :=
  let shared := sharedHistory r ps
  let ptr := fun (p : Path) => (alook r p.s).getD 0
  match ps.filter fun p => decide (shared.length < (p.history r).length) with
  | [] => ((ps.head?.map ptr).getD 0, shared.reverse, false)
  | w :: ws => (ptr w, serial :: shared.reverse, !(ws.all fun q => c.sameS (ptr w) (ptr q)))

/-- A private entry holding words, ready at once. -/
def State.privateEntry (s : State) (core w : Nat) (cls : RegClass) (ctx : Word) (b wi : Nat) (value : List Word)
    (keep : List Nat := []) : State × Nat :=
  s.alloc core w (some (b, wi))
    { (default : Entry) with cls := cls, value := value, st := .ready, known := true, ctx := ctx,
                             producer := { block := b, warp := wi, adopted := false } } keep

/-- Context ID of a block's launch. -/
def State.ctxidOf (s : State) (b : Nat) : Word := (s.launch (s.block b).launch).ctxid

/-- Replace or drop a pointer: the zero entry is not listed. -/
def setPtr (n eid : Nat) (xs : List (Nat × Nat)) : List (Nat × Nat) :=
  if eid = 0 then adel n xs else aput n eid xs

/-! ### Frames (R224, R279) -/

/-- Virtual address of a warp's trap frame, or of its context frame. -/
def State.frameVa (s : State) (l : Launch) (w : Warp) (ctxFrame : Bool) : Nat :=
  (s.ctx l.fn l.ctx).frbase.toNat + 131072 * w.frame + (if ctxFrame then 65536 else 0)

/-- Physical address of a frame, as a core reaches it: one 64 KiB page holds it. One that is unmapped is an uncorrectable error of the block
that reaches it (R279). -/
def State.frameAt (s : State) (core : Nat) (l : Launch) (w : Warp) (ctxFrame : Bool) : Option Nat :=
  (s.place (some core) l.fn l.ctx (s.frameVa l w ctxFrame)).map (·.2)

/-- Physical address of a frame that is mapped. -/
def State.framePa (s : State) (core : Nat) (l : Launch) (w : Warp) (ctxFrame : Bool) : Nat := (s.frameAt core l w ctxFrame).getD 0

/-- Offset of a register's slot in a frame, and its bytes in a lane (R224). -/
def slotOf (cls : RegClass) (n : Nat) : Nat :=
  match cls with | .v => 0x800 + 256 * n | .s => 0x480 + 4 * n | .p => 0x500 + 8 * n
/-- Length of a register's slot. -/
def slotLen (cls : RegClass) : Nat := match cls with | .v => 256 | .s => 4 | .p => 8

/-- The value that a warp's save area holds for a lane of a register, as the block reads it now (R65, R66). -/
def State.savedLane (s : State) (b : Nat) (l : Launch) (w : Warp) (cls : RegClass) (n lane : Nat) (ctxFrame : Bool) : Word :=
  let base := s.framePa (s.block b).core l w ctxFrame + slotOf cls n
  match cls with
  | .v => s.seenWord b (base + 4 * lane)
  | .s => s.seenWord b base
  | .p => if (s.seenDword b base).getLsbD lane then 1#32 else 0#32

/-- Can a register of a warp not be filled: its frame page is unmapped (R279), or its slot holds a byte marked as poisoned (R261)? -/
def State.slotLost (s : State) (b w : Nat) (cls : RegClass) (n : Nat) : Bool :=
  let wp := s.warp b w
  match s.frameAt (s.block b).core (s.launch (s.block b).launch) wp wp.fromCtx with
  | none => true
  | some a => s.readsBad b false (a + slotOf cls n) (slotLen cls)

/-- Fill an absent `s` register of a path (R65): a private entry with the word of its slot. After `RTE`, a word that is not the one
at the trap's entry counts as a write of the path (R53). A slot that is lost is left to the event that consumes the error (R261). DEDUCED: log 25. -/
def State.fillS (s : State) (b w pid n : Nat) : State :=
  match (s.warp b w).path? pid with
  | none => s
  | some p =>
    match alook n p.sAbsent with
    | none => s
    | some old =>
      if s.slotLost b w .s n then s.due (.registerFill b w .s n 0) else
      let l := s.launch (s.block b).launch
      let v := s.savedLane b l (s.warp b w) .s n 0 (s.warp b w).fromCtx
      let (s, id) := s.privateEntry (s.block b).core l.physW .s l.ctxid b w [v]
      let serial := s.serial
      s.fresh.modPath b w pid fun p =>
        { p with s := setPtr n id p.s, sAbsent := adel n p.sAbsent,
                 log := if old.any (· != v) then aput n (serial :: (alook n p.log).getD []) p.log else p.log }

/-- Fill every absent `s` register of a path. -/
def State.fillPath (s : State) (b w pid : Nat) : State :=
  (((s.warp b w).path pid).sAbsent.map (·.1)).foldl (fun s n => s.fillS b w pid n) s

/-- The registers of joining paths resolved one by one (R53): pointers, histories, whether any conflicted. `made` are the
entries that earlier registers took. -/
def State.joinRegs (s : State) (b w : Nat) (ps : List Path) (made : List Nat) :
    List Nat → State × List (Nat × Nat) × List (Nat × List Nat) × Bool
  | [] => (s, [], [], false)
  | r :: rs =>
    let core := (s.block b).core
    let (ptr, hist, bad) := resolveS (s.core core) ps r s.serial
    let (s, ptr) := if bad then
        s.privateEntry core 32 .s (s.ctxidOf b) b w [(s.core core).laneVal ptr 0] made
      else (s.fresh, ptr)
    let (s, ptrs, hists, any) := State.joinRegs s b w ps (if bad then ptr :: made else made) rs
    (s, if ptr = 0 then ptrs else (r, ptr) :: ptrs, if hist.isEmpty then hists else (r, hist) :: hists, bad || any)

/-- Registers that some path points elsewhere than at the zero entry, or has written since the warp divided. -/
def usedS (ps : List Path) : List Nat := (List.range 32).filter fun r => ps.any fun p => (alook r p.s).isSome || !(p.history r).isEmpty

/-- Join paths into one (R22, R23, R53): absent `s` registers are filled first. A release starts the ageing counter at 0, a merge
keeps the larger, and of two that have both reached 256 the cycle of the path with the lowest thread (DESIGN CHOICE, log 37). The
coroutine pointer stays on a path that it named (R249). What the warp's registers no longer name dies in its name (R56). -/
def State.joinPaths (s : State) (b w : Nat) (ids : List Nat) (release : Bool) : State :=
  let s := if 1 < ids.length then ids.foldl (fun s i => s.fillPath b w i) s else s
  let wp := s.warp b w
  let ps := sortPaths (wp.paths.filter fun p => ids.contains p.id)
  match ps with
  | [] => s
  | [p] => s.modPath b w p.id fun p => if release then { p with hold := none, age := 0, aged := none } else p
  | p :: _ =>
    let (s, regs, log, bad) := s.joinRegs b w ps [] (usedS ps)
    let mask := ps.foldl (fun m q => m ||| q.mask) 0#64
    let old := ps.foldl (fun (best : Nat × Option Nat) q => if best.1 < q.age then (q.age, q.aged) else best) (0, none)
    let last := ps.foldl (fun a q => match a, q.last with
      | some x, some y => some (max x y) | some x, none => some x | none, y => y) none
    let path := { p with mask := mask, hold := none, park := none, s := regs, log := log, last := last,
                         sAbsent := ps.foldl (fun a q => q.sAbsent.foldl (fun a x => aput x.1 x.2 a) a) [],
                         next := ps.foldl (fun a q => max a q.next) 0, waiting := none, fetch := none, tried := false, ready := false,
                         yield := none, age := if release then 0 else old.1, aged := if release then none else old.2 }
    let s := s.endChrun b w fun i => !ids.contains i
    let trap := bad && (s.launch (s.block b).launch).uctrap
    (s.modWarp b w fun x =>
      { x with paths := path :: x.paths.filter (fun q => !ids.contains q.id),
               pointer := if ps.any (·.low == x.pointer) then p.low else x.pointer,
               wstat := if bad then x.wstat ||| 0x100#32 else x.wstat,
               deliver := if trap then x.deliver ++ [{ (default : Delivery) with cause := 0x11, threads := mask }]
                          else x.deliver }).sweep (s.block b).core (some (b, w))

/-- When the warp is one path again, writes before do not count for later joins (R53). -/
def Warp.settle (w : Warp) : Warp :=
  match w.paths with
  | [p] => { w with paths := [{ p with log := [] }] }
  | _ => w

/-- Threads held at `x` are released when none that has not exited and is not held there holds `x` (R22). -/
def Warp.releasable (w : Warp) (x : Word) : Bool :=
  let held := w.paths.filter fun p => p.hold == some .meet && p.pc == x
  let mask := held.foldl (fun m p => m ||| p.mask) 0#64
  !held.isEmpty && (w.lanesWhere (fun t => !t.exited && !t.absent && t.mr == some x) &&& ~~~ mask) == 0#64

/-- The PC at which a path waits to issue: one that has started a clause, and issued nothing of it, waits at the header still. -/
def Path.stand (p : Path) : Word :=
  match p.clause with
  | some c => if c.done = 0 && p.pc == c.at_ + 4#32 then c.at_ else p.pc
  | none => p.pc

/-- Paths at a PC, waiting to issue, merge with one that reaches it (R23). Where one of them stands at a header, they all do. -/
def State.mergeAt (s : State) (b w pid : Nat) : State :=
  match (s.warp b w).path? pid with
  | none => s
  | some p =>
    if p.hold.isSome || p.park.isSome || (s.warp b w).parkedOn p then s else
    let ps := (s.warp b w).paths.filter fun q => q.stand == p.stand && q.hold.isNone && q.park.isNone && !(s.warp b w).parkedOn q
    if ps.length ≤ 1 then s else
    let h := (ps.find? fun q => q.pc == p.stand).getD p
    let s := ps.foldl (fun s q => s.modPath b w q.id fun x => { x with pc := h.pc, clause := h.clause }) s
    s.joinPaths b w (ps.map (·.id)) false

/-- Set meeting registers of lanes. -/
def Warp.setMr (w : Warp) (m : Mask) (x : Option Word) : Warp :=
  { w with threads := (List.range w.threads.length).map fun l =>
      let t := w.threads.getD l default
      if m.has l then { t with mr := x } else t }

/-- Evaluate releases (R22) until none is due; each released set continues as one path, which may merge. -/
def State.releaseN (b w : Nat) : Nat → State → State
  | 0, s => s
  | n + 1, s =>
    let wp := s.warp b w
    match wp.paths.find? fun p => p.hold == some .meet && wp.releasable p.pc with
    | none => s
    | some p =>
      let held := wp.paths.filter fun q => q.hold == some .meet && q.pc == p.pc
      let mask := held.foldl (fun m q => m ||| q.mask) 0#64
      let first := (sortPaths held).head?.getD default
      let s := s.joinPaths b w (held.map (·.id)) true
      let s := s.modWarp b w fun x => x.setMr mask none
      State.releaseN b w n (s.mergeAt b w first.id)

/-- Releases due in a warp. -/
def State.releases (s : State) (b w : Nat) : State :=
  (State.releaseN b w ((s.warp b w).paths.length + 1) s).modWarp b w Warp.settle

/-- Threads of a path arrive at its PC (R22): those whose meeting register holds it are held there. -/
def State.arrive (s : State) (b w pid : Nat) : State :=
  match (s.warp b w).path? pid with
  | none => s
  | some p =>
    let at_ := (s.warp b w).lanesWhere (fun t => t.mr == some p.pc) &&& p.mask
    if at_ == 0#64 then s.mergeAt b w pid
    else if at_ == p.mask then s.modPath b w pid fun p => { p with hold := some .meet }
    else
      let id := s.serial
      let held := { p with id := id, mask := at_, hold := some .meet }
      let s := s.fresh.modWarp b w fun x =>
        { x with paths := x.paths.map (fun q => if q.id = pid then { q with mask := q.mask &&& ~~~ at_ } else q) ++ [held] }
      s.mergeAt b w pid

/-- A path divides into groups with their next PCs (R21), the parts keep what it had. A part that ran
past its clause's end keeps the clause's position, for the check of R94. -/
def State.divideN (b w : Nat) (p : Path) : List (Mask × Word × Option Clause) → State → List Nat → State × List Nat
  | [], s, ids => (s, ids)
  | (m, pc, cl) :: gs, s, ids =>
    let id := s.serial
    let s := s.fresh.modWarp b w fun x => { x with paths := x.paths ++ [{ p with id := id, mask := m, pc := pc, clause := cl }] }
    State.divideN b w p gs s (ids ++ [id])

/-- Send the threads of a path to their next PCs and let them arrive. -/
def State.divide (s : State) (b w pid : Nat) (groups : List (Mask × Word × Option Clause)) : State :=
  match (s.warp b w).path? pid with
  | none => s
  | some p =>
    match groups.filter (fun g => g.1 != 0#64) with
    | [] => s
    | [(m, pc, cl)] =>
      let s := s.modPath b w pid fun q => { q with mask := m, pc := pc, clause := cl }
      (s.arrive b w pid).releases b w
    | gs =>
      let s := s.modWarp b w fun x => { x with paths := x.paths.filter (·.id != pid) }
      let (s, ids) := State.divideN b w p gs s []
      (ids.foldl (fun s i => s.arrive b w i) s).releases b w

/-- Threads exit (R27, R323): they leave their paths, helper lanes of a quad go with its last thread. -/
def Warp.exitLanes (w : Warp) (m : Mask) : Warp :=
  let gone := fun l => m.has l || (w.threads.getD l default).exited || (w.threads.getD l default).absent
  let quadDone := fun l => ((List.range 4).map (· + 4 * (l / 4))).all fun k =>
    gone k || (w.threads.getD k default).helper || decide (w.threads.length ≤ k)
  let out := Mask.ofFn w.threads.length fun l =>
    !(w.threads.getD l default).exited && !(w.threads.getD l default).absent &&
      (m.has l || ((w.threads.getD l default).helper && quadDone l))
  { w with
    threads := (List.range w.threads.length).map fun l =>
      let t := w.threads.getD l default
      if out.has l then
        { t with exited := true, mr := none, pc := ((w.paths.find? fun p => p.mask.has l).map fun p => p.pc).getD 0#32 }
      else t
    waits := w.waits.filter fun x => !out.has x.2.2
    paths := (w.paths.map fun p => { p with mask := p.mask &&& ~~~ out }).filter fun p => p.mask != 0#64 }

end Sys2Proof.Machine
end

