-- ==== Sys2Proof/Machine/Ops.lean ====
section
/-! DEFINITION. The operations that instructions share: the issuing path and its stops, code lines, traps (R220 to
R227) and the return from one (R228), kills (R416), transaction aborts (R206), retiring an instruction (R93, R130). -/

namespace Sys2Proof.Machine

open Sys2Proof

/-- The first number from 1 to `n` that is not in use, searched from `k` on and around. -/
def unused (k n : Nat) (used : List Nat) : Option Nat :=
  ((List.range (used.length + 1)).map fun i => (k + i) % n + 1).find? fun x => !used.contains x

/-! ### Code lines (R94, R283) -/

/-- Virtual address of a code address of a launch (R222). -/
def Launch.codeVa (l : Launch) (c : Word) : Nat := l.kaddr + c.toNat

/-- Is it the line of a launch's block at an address? A DET block reads its lines through its own view (R242). -/
def CodeLine.is (x : CodeLine) (l : Launch) (b line : Nat) : Bool :=
  x.ctx == l.ctxid && x.va == line && x.owner == (if l.det then some b else none)

/-- The I-cache line that holds a code address of a block, with the word's place in it. -/
def State.codeLine (s : State) (core b : Nat) (l : Launch) (c : Word) : Option (CodeLine × Nat) :=
  let va := l.codeVa c
  ((s.core core).icache.find? fun x => x.is l b (va / 128 * 128)).map fun x => (x, va % 128 / 4)

/-- A code word in the I-cache. -/
def State.codeWord (s : State) (core b : Nat) (l : Launch) (c : Word) : Option Word :=
  (s.codeLine core b l c).map fun x => x.1.words.getD x.2 0#32

/-- The header-map bit of a code word in the I-cache (R94). -/
def State.mapBit (s : State) (core b : Nat) (l : Launch) (c : Word) : Option Bool :=
  (s.codeLine core b l c).map fun x => x.1.map.getLsbD x.2

/-! ### Register pointers and lanes -/

/-- The entry that a register of a path points to (0 is the zero entry). -/
def regPtr (w : Warp) (p : Path) (cls : RegClass) (n : Nat) : Nat :=
  match cls with
  | .v => (alook n w.v).getD 0
  | .s => (alook n p.s).getD 0
  | .p => (alook n w.p).getD 0

/-- One register's value in a lane; `p7` reads true (R57). -/
def CoreSt.regLane (c : CoreSt) (w : Warp) (p : Path) (cls : RegClass) (n l : Nat) : Word :=
  if cls == .p && n == 7 then 1#32 else c.laneVal (regPtr w p cls n) l

/-- Point a register of a path at an entry; a write of `s` on a divided warp is recorded (R53). -/
def State.point (s : State) (b w pid : Nat) (cls : RegClass) (n eid : Nat) : State :=
  match cls with
  | .v => s.modWarp b w fun x => { x with v := setPtr n eid x.v }
  | .p => s.modWarp b w fun x => { x with p := setPtr n eid x.p }
  | .s =>
    let serial := s.serial
    s.fresh.modWarp b w fun x =>
      let many := decide (1 < x.paths.length)
      x.modPath pid fun p =>
        { p with s := setPtr n eid p.s,
                 log := if many then aput n (serial :: (alook n p.log).getD []) p.log else p.log }

/-! ### The issuing path -/

/-- Everything an instruction acts in: the issuing path and what holds it. -/
structure Cx where
  s : State
  b : Nat
  w : Nat
  pid : Nat
  blk : Block
  wp : Warp
  pt : Path
  l : Launch
  width : Nat
  core : Nat
  cst : CoreSt
  deriving Repr, Inhabited

/-- The context of a path. -/
def State.cxOf (s : State) (b w pid : Nat) : Option Cx :=
  match s.block? b with
  | none => none
  | some blk =>
    match (blk.warp w).path? pid, s.launch? blk.launch with
    | some pt, some l =>
      some { s := s, b := b, w := w, pid := pid, blk := blk, wp := blk.warp w, pt := pt, l := l, width := l.w,
             core := blk.core, cst := s.core blk.core }
    | _, _ => none

/-- The context of the issuing path. -/
def State.cx (s : State) : Option Cx :=
  match s.issuing with
  | none => none
  | some i => s.cxOf i.block i.warp i.path

/-- The same path in a later state. -/
def Cx.at (c : Cx) (s : State) : Cx := (s.cxOf c.b c.w c.pid).getD c

/-- The warp that acts, for `DEATHS` (R56). -/
def Cx.actor (c : Cx) : Option (Nat × Nat) := some (c.b, c.w)

/-- Lanes of the path. -/
def Cx.active (c : Cx) : Mask := c.pt.mask

/-- Lanes of a predicate register. -/
def Cx.pmask (c : Cx) (n : Nat) : Mask :=
  Mask.ofFn c.width fun l => (c.cst.regLane c.wp c.pt .p n l).getLsbD 0

/-- Acting lanes under a guard (R101, R296). -/
def Cx.acting (c : Cx) (g : Guard) : Mask :=
  let m := c.pmask g.p.toNat
  c.active &&& (if g.neg then ~~~ m else m)

/-- Acting lanes that are no helper lanes (R28). -/
def Cx.doing (c : Cx) (g : Guard) : Mask := c.acting g &&& ~~~ c.wp.helpers

/-- Is the launch in DET mode? -/
def Cx.det (c : Cx) : Bool := c.l.det
/-- Is a transaction open? -/
def Cx.inTx (c : Cx) : Bool := c.wp.tx.isSome

/-- Why an instruction does not complete as itself. -/
inductive Stop where
  /-- A precise trap (R220), with its detail. -/
  | trap (cause info : Nat)
  /-- The instruction stalls: nothing of it happens, and it is tried again later. -/
  | stall
  /-- It stalls, and an event is due first. -/
  | await (e : Instr)
  /-- It aborts the warp's transaction (R206): CODE and ARG. -/
  | abort (code arg : Nat)
  /-- It reads a byte marked as poisoned: an uncorrectable error of its block (R261). -/
  | lost
  /-- It waits to read an entry that another warp produces, or adopts it when it is abandoned (R45, R50). -/
  | waitEntry (eid : Nat)
  /-- A trap whose lanes roll back alone under `TRY.L` (R209): cause, detail, lanes. -/
  | laneTrap (cause info : Nat) (lanes : Mask)
  deriving DecidableEq, Repr, Inhabited

/-- A guard on going on. -/
def require (b : Bool) (e : Stop) : Except Stop Unit := if b then .ok () else .error e

/-- Trap causes (R221). -/
def tcILLOP : Nat := 0x01
/-- RESBITS. -/
def tcRESBITS : Nat := 0x02
/-- BADOPND. -/
def tcBADOPND : Nat := 0x03
/-- BADCLAUSE. -/
def tcBADCLAUSE : Nat := 0x04
/-- CLASSMIX. -/
def tcCLASSMIX : Nat := 0x05
/-- BADTARGET. -/
def tcBADTARGET : Nat := 0x06
/-- NONUNIFORM. -/
def tcNONUNIFORM : Nat := 0x07
/-- INDEX. -/
def tcINDEX : Nat := 0x08
/-- SCHED. -/
def tcSCHED : Nat := 0x09
/-- MISALIGN. -/
def tcMISALIGN : Nat := 0x0A
/-- TRANSLATE. -/
def tcTRANSLATE : Nat := 0x0B
/-- PROTECT. -/
def tcPROTECT : Nat := 0x0C
/-- COPYRANGE. -/
def tcCOPYRANGE : Nat := 0x0D
/-- FMTPARTIAL. -/
def tcFMTPARTIAL : Nat := 0x0E
/-- LINEAGEWRITE. -/
def tcLINEAGEWRITE : Nat := 0x0F
/-- RNGWRAP. -/
def tcRNGWRAP : Nat := 0x10
/-- OWNERSHIP. -/
def tcOWNERSHIP : Nat := 0x13
/-- BKPT. -/
def tcBKPT : Nat := 0x18
/-- TRAPINSN. -/
def tcTRAPINSN : Nat := 0x19
/-- FPEXC. -/
def tcFPEXC : Nat := 0x1A
/-- STACKOVF. -/
def tcSTACKOVF : Nat := 0x1B
/-- WTREE. -/
def tcWTREE : Nat := 0x1C
/-- MATRIXPARAM. -/
def tcMATRIXPARAM : Nat := 0x1D

/-! ### Frames (R224, R279) -/

/-- Writes to scratchpad end the links whose slots they touch (R226). `only` limits a write in one block's DET view. -/
def State.endLinks (s : State) (pa n : Nat) (only : Option Nat := none) : State :=
  if s.blocks.any (fun b => b.warps.any fun w => !w.links.isEmpty) then
    { s with blocks := s.blocks.map fun b =>
        if only.isSome && only != some b.id then b else
        { b with warps := b.warps.map fun w =>
            if w.links.isEmpty then w else
            let base := s.framePa b.core (s.launch b.launch) w false
            { w with links := w.links.filter fun k =>
                let a := base + slotOf k.1 k.2.1
                !(decide (a < pa + n) && decide (pa < a + slotLen k.1)) } } }
  else s

/-- Does a transaction hold a sector of the range (R203)? -/
def Tx.touches (t : Tx) (space a n : Nat) : Bool :=
  t.reads.any (fun r => r.1 == space && overlap (32 * r.2) 32 a n) ||
    t.writes.any fun w => w.space == space && overlap (w.addr / 32 * 32) 32 a n

/-- A write makes other warps' transactions conflict (R203). `only` limits it to one block's warps; a write to scratchpad outside a
block's view meets no transaction of a DET block (R253). -/
def State.conflicts (s : State) (by_ : Option (Nat × Nat)) (only : Option Nat) (space a n : Nat) : State :=
  if s.blocks.any (fun b => b.warps.any fun w => w.tx.isSome) then
    { s with blocks := s.blocks.map fun b =>
        if (only.isSome && only != some b.id) || (only.isNone && (s.launch b.launch).det) then b else
        { b with warps := b.warps.map fun w =>
            match w.tx with
            | some t => if by_ != some (b.id, w.idx) && t.touches space a n then { w with tx := some { t with conflict := true } } else w
            | none => w } }
  else s

/-- Running DET launches keep what their latest merge left in bytes that are about to be overwritten (R242). -/
def State.keepPrior (s : State) (hbm : Bool) (a n : Nat) : State :=
  { s with launches := s.launches.map fun l =>
      if !l.det || l.phase != .running then l else
      { l with base := (List.range n).foldl (fun x i =>
          if (alook (lineAddr hbm (a + i)) x).isSome then x else (lineAddr hbm (a + i), s.memGet hbm (a + i)) :: x) l.base } }

/-- Write scratchpad bytes by physical address. DEDUCED: log 32. -/
def State.scratchWrite (s : State) (pa : Nat) (bs : List Byte) : State :=
  let s := s.keepPrior false pa bs.length
  ({ s with scratch := s.scratch.setBytes pa bs }.mended false pa bs.length).endLinks pa bs.length

/-- Write HBM bytes by physical address. -/
def State.hbmWrite (s : State) (pa : Nat) (bs : List Byte) : State :=
  let s := s.keepPrior true pa bs.length
  { s with hbm := s.hbm.setBytes pa bs }.mended true pa bs.length

/-- The pool page and physical address of a byte of a warp's spill stack (R152, R279, R415), when it is a scratchpad page that the core has a
path to (R281). -/
def State.stackPlace (s : State) (core : Nat) (l : Launch) (w : Warp) (off : Nat) : Option (Leaf × Nat) :=
  let x := s.ctx l.fn l.ctx
  match s.place (some core) l.fn l.ctx (x.stkbase.toNat + 1024 * x.stksize * w.frame + off) with
  | some (leaf, a) => if leaf.attr.hbm || leaf.attr.fmt != 0 || s.unreachable core (a / 2 ^ 29) then none else some (leaf, a)
  | none => none

/-- Physical address of a byte of a warp's spill stack. -/
def State.stackPa (s : State) (core : Nat) (l : Launch) (w : Warp) (off : Nat) : Option Nat := (s.stackPlace core l w off).map (·.2)

/-- The stack cache writes a byte through to its pool page. DEDUCED: log 30. -/
def State.stackWrite (s : State) (core : Nat) (l : Launch) (w : Warp) (off : Nat) (v : Byte) : State :=
  match s.stackPlace core l w off with
  | some (leaf, a) => (s.scratchWrite a [v]).notePage l.fn l.ctx leaf
  | none => s

/-- Bytes of a core's stack cache (R1). -/
def stackRoom : Nat := 32768

/-- A byte of a spill stack that a warp writes comes into its core's stack cache; when that is full a byte leaves it, which its pool page holds.
DESIGN CHOICE: log 7. -/
def State.stackKeep (s : State) (core b w off : Nat) : State :=
  let xs := (s.core core).stackCache
  if xs.contains (b, w, off) then s
  else if xs.length < stackRoom then s.modCore core fun c => { c with stackCache := (b, w, off) :: xs }
  else { s with tick := s.tick + 1 }.modCore core fun c => { c with stackCache := (b, w, off) :: xs.eraseIdx (Config.evictStack s.tick % xs.length) }

/-- Does a read of a byte of a warp's spill stack go to its pool page: it has been written, and is not in the stack cache? -/
def State.stackOut (s : State) (b : Nat) (w : Warp) (off : Nat) : Bool :=
  (alook off w.stack).isSome && !(s.core (s.block b).core).stackCache.contains (b, w.idx, off)

/-- A byte of a warp's spill stack (R152): one that it has not written reads 0, one in the stack cache as written, another as its pool page
has it. -/
def State.stackByte (s : State) (b : Nat) (w : Warp) (off : Nat) : Byte :=
  let blk := s.block b
  if s.stackOut b w off then ((s.stackPa blk.core (s.launch blk.launch) w off).map fun a => s.scratch.get a).getD 0#8
  else (alook off w.stack).getD 0#8

/-- Can a byte of a warp's spill stack not be accessed: its pool page is unmapped or malformed (R279), no path leads to it (R281), or a read of
it finds a poisoned byte there (R261)? -/
def State.stackLost (s : State) (b : Nat) (w : Warp) (off : Nat) (reads : Bool) : Bool :=
  let blk := s.block b
  match s.stackPa blk.core (s.launch blk.launch) w off with
  | none => true
  | some a => reads && s.stackOut b w off && s.badBytes.contains a

/-- Fill one absent piece of a `v` or `p` register (R65): a private entry with the saved lanes of the piece, and zeros in lanes
that do not exist (R69). The fill of a further piece of a register
puts its lanes beside those that stand, and overwrites nothing (R56); beside a result that is pending they join its entry. A slot that is
lost is left to the event that consumes the error (R261). DEDUCED: log 25. -/
def State.fillPiece (s : State) (b w pid : Nat) (cls : RegClass) (n piece : Nat) : State :=
  match s.cxOf b w pid with
  | none => s
  | some c =>
    if !c.wp.absent.contains (cls, n, piece) then s
    else if s.slotLost b w cls n then s.due (.registerFill b w cls n piece) else
    let value := (List.range c.width).map fun l =>
      if (c.wp.threads.getD l default).absent then 0#32
      else if cls == .p || l / 16 == piece then s.savedLane b c.l c.wp cls n l c.wp.fromCtx
      else c.cst.regLane c.wp c.pt cls n l
    let cur := regPtr c.wp c.pt cls n
    if !c.cst.isReady cur then
      (s.modCore c.core fun k => k.modEntry cur fun e => { e with value := value }).modWarp b w fun x =>
        { x with absent := x.absent.filter (· != (cls, n, piece)) }
    else
    let (s, id) := s.privateEntry c.core c.l.physW cls c.l.ctxid b w value
    let first := (List.range (ceilDiv c.width 16)).all fun k => cls != .v || c.wp.absent.contains (cls, n, k)
    let s := s.modWarp b w fun x => { x with absent := x.absent.filter (· != (cls, n, piece)) }
    (s.point b w pid cls n id).sweep c.core (if first then some (b, w) else none)

/-- Fill every absent piece of a warp, the `s` registers of each of its paths among them. -/
def State.fillAll (s : State) (b w pid : Nat) : State :=
  let s := (s.warp b w).absent.foldl (fun s a => s.fillPiece b w pid a.1 a.2.1 a.2.2) s
  ((s.warp b w).paths.map (·.id)).foldl (fun s i => s.fillPath b w i) s

/-- A 64-bit mask as two words. -/
def maskWords (m : Mask) : List Word := [m.setWidth 32, (m >>> 32).setWidth 32]

/-- What a frame says of the trap (R224). -/
structure TrapInfo where
  cause : Nat
  info : Word
  pc : Word
  clause : Word
  index : Nat
  adopted : Bool
  long : Bool
  replay : Bool
  insn0 : Word
  insn1 : Word
  gmask : Mask
  fpc : Word
  fva : Nat
  fmask : Mask
  deriving DecidableEq, Repr, Inhabited

/-- State field of a thread record (R224): 0 in a path, 1 held, 2 parked, 3 exited. -/
def Warp.threadState (w : Warp) (paths : List Path) (l : Nat) : Nat :=
  let t := w.threads.getD l default
  let base := if t.exited || t.absent then 3
    else match paths.find? fun p => p.mask.has l with
      | some p => if p.park.isSome then 2 else if p.hold.isSome then 1 else 0
      | none => 0
  base + (if t.helper then 4 else 0) + (if t.absent then 8 else 0)

/-- PC of a thread: its path's, or where it exited (R19). -/
def Warp.threadPc (w : Warp) (paths : List Path) (l : Nat) : Word :=
  match paths.find? fun p => p.mask.has l with
  | some p => p.pc
  | none => (w.threads.getD l default).pc

/-- Bits of a set of numbers. -/
def bitSet (xs : List Nat) : Nat := xs.foldl (fun a n => if a.testBit n then a else a + 2 ^ n) 0

/-- Words of a frame below the `v` registers (R224). DEDUCED: log 16. -/
def Cx.frameHead (c : Cx) (t : TrapInfo) : List Word :=
  let paths := c.wp.paths ++ (match c.wp.handler with | some h => h.others | none => [])
  let linked := fun cls n => c.wp.links.any fun k => k.1 == cls && k.2.1 == n
  let linkBits := fun cls => bitSet ((c.wp.links.filter (·.1 == cls)).map (·.2.1))
  let loopRec := fun (n : Fin 3) => (match c.wp.loops.find? (·.n == n) with
    | some r => [r.start, r.stop] | none => [0#32, 0#32] : List Word)
  [BitVec.ofNat 32 t.cause, t.info, t.pc, t.clause,
    BitVec.ofNat 32 (t.index + (if t.adopted then 16 else 0) + (if t.long then 32 else 0) + (if t.replay then 64 else 0)),
    t.pc, t.insn0, t.insn1] ++ maskWords c.pt.mask ++ maskWords t.gmask ++
  [t.fpc, 0#32, BitVec.ofNat 32 t.fva, BitVec.ofNat 32 (t.fva / 2 ^ 32)] ++ maskWords t.fmask ++ List.replicate 14 0#32 ++
  (List.range 64).flatMap (fun l =>
    if l < c.width then
      [c.wp.threadPc paths l, (c.wp.threads.getD l default).mr.getD 0xFFFFFFFF#32,
        BitVec.ofNat 32 (c.wp.threadState paths l), 0#32]
    else [0#32, 0xFFFFFFFF#32, BitVec.ofNat 32 11, 0#32]) ++
  (List.range 32).map (fun n => if linked .s n then 0#32 else c.cst.regLane c.wp c.pt .s n 0) ++
  (List.range 8).flatMap (fun n =>
    if n = 7 then [0xFFFFFFFF#32, 0xFFFFFFFF#32] else if linked .p n then [0#32, 0#32]
    else maskWords (Mask.ofFn c.width fun l => (c.cst.regLane c.wp c.pt .p n l).getLsbD 0)) ++
  [c.wp.lc.getD 0 0, c.wp.lc.getD 1 0, c.wp.lc.getD 2 0, c.wp.xi, c.wp.wstat, 0#32] ++
  loopRec 0 ++ loopRec 1 ++ loopRec 2 ++
  (List.range 4).map (fun i => BitVec.ofNat 32 (linkBits .v / 2 ^ (32 * i))) ++
  [BitVec.ofNat 32 (linkBits .s), BitVec.ofNat 32 (linkBits .p)] ++ List.replicate 158 0#32

/-- Words of the `v` registers of a frame: below the grant only (R224). -/
def Cx.frameV (c : Cx) : List Word :=
  (List.range c.wp.grant).flatMap fun n =>
    let linked := c.wp.links.any fun k => k.1 == .v && k.2.1 == n
    (List.range 64).map fun l =>
      if linked || decide (c.width ≤ l) then 0#32 else c.cst.regLane c.wp c.pt .v n l

/-- The core's own write of a frame stands before what the block's view or release buffer held for it. -/
def Block.dropOver (b : Block) (a n : Nat) : Block :=
  { b with view := b.view.filter (fun x => !(decide (a ≤ x.1) && decide (x.1 < a + n))),
           written := b.written.filter (fun x => !(decide (a ≤ x) && decide (x < a + n))),
           release := b.release.filter fun x => !(x.place == .scratch && decide (a ≤ x.addr) && decide (x.addr < a + n)) }

/-- Write a frame of the warp: in a DET launch its own block reads it at once. -/
def Cx.writeFrame (c : Cx) (t : TrapInfo) (ctxFrame : Bool) : State :=
  let base := c.s.framePa c.core c.l c.wp ctxFrame
  let bs := (c.frameHead t ++ c.frameV).flatMap wordBytes
  let s := (({ c.s with scratch := c.s.scratch.setBytes base bs }.mended false base bs.length).modBlock c.b fun x => x.dropOver base bs.length).modLaunch c.l.id fun l =>
    { l with base := l.base.filter fun x => !(decide (base ≤ x.1) && decide (x.1 < base + bs.length)) }
  let s := s.conflicts none none 1 base bs.length
  match c.s.place (some c.core) c.l.fn c.l.ctx (c.s.frameVa c.l c.wp ctxFrame) with
  | some (leaf, _) => s.notePage c.l.fn c.l.ctx leaf
  | none => s

/-! ### Kills and lost blocks (R32, R416) -/

/-- Images that a block has on their way into the buffers of a core are dropped. -/
def dropIncoming (b : Nat) (xs : List (Word × List Buffer)) : List (Word × List Buffer) :=
  xs.map fun x => (x.1, x.2.map fun k => { k with incoming := k.incoming.filter fun i => i.1 != b })

/-- Operations of a block that end give their reservations back (R267): those whose numbers a test names. -/
def State.freeOps (s : State) (b : Nat) (gone : Nat → Bool) : State :=
  let core := (s.block b).core
  let s := (s.copies.filter fun k => k.block == b && gone k.op).foldl (fun s k => s.freeCurrent .copy k.core k.id) s
  let s := ((s.core core).matq.filter fun m => m.block == b && gone m.id).foldl (fun s m => s.freeCurrent .matrix core m.id) s
  (s.block b).warps.foldl (fun s w => s.endChrun b w.idx fun _ => false) s

/-- What a block held is released. What it issued completes (R52). -/
def State.releaseBlock (s : State) (b : Nat) : State :=
  let core := (s.block b).core
  let s := s.freeOps b fun _ => true
  let s := { s with copies := s.copies.filter (·.block != b) }
  let s := s.modBlock b fun x => { x with ended := true, glaze := [], declw := [], trees := [] }
  s.modCore core fun c =>
    { c with matq := c.matq.filter (·.block != b), trees := c.trees.filter (·.block != b),
             holds := c.holds.filter (·.block != b), kicks := c.kicks.filter (·.block != b),
             acts := dropIncoming b c.acts, chains := dropIncoming b c.chains,
             stackCache := c.stackCache.filter (·.1 != b), chrun := c.chrun.filter (·.1 != b) }

/-- The save area of a block (R235): its engines' state and the entries that its saved registers need, kept in the form of a
core that issues nothing. DEDUCED: log 26. -/
def saveArea (b : Nat) : Nat := 2 ^ 32 + b

/-- Blocks of the span that holds a block: the last span of a grid may be partial (R15). -/
def Launch.spanSize (l : Launch) (num : Nat) : Nat := min (max l.span 1) (l.blocks - num / max l.span 1 * max l.span 1)

/-- Kill a block, and with it every block of a span of two or more, exited ones included (R32, R416). Writes that it has issued and not
performed are lost with it, in its warps' queues, its release buffer and its copies, and so are the step writes of a DET block (R213, R240;
DESIGN CHOICE, log 39). -/
def State.kill (s : State) (b : Nat) : State :=
  let blk := s.block b
  let l := s.launch blk.launch
  let span := max l.span 1
  let doomed := s.blocks.filter fun x => x.launch == blk.launch && !x.ended && x.num / span == blk.num / span
  let s := doomed.foldl (fun s x => (s.releaseBlock x.id).abandon x.core fun e => e.producer.block == x.id) s
  let s := { s with blocks := s.blocks.filter fun x => !(x.launch == blk.launch && x.num / span == blk.num / span)
                    cores := s.cores.filter fun c => !(doomed.any fun x => c.1 == saveArea x.id) }
  let s := s.modLaunch blk.launch fun l =>
    { l with lost := l.lost + l.spanSize blk.num, ended := l.ended + doomed.length,
             spanLost := l.spanLost || decide (2 ≤ l.spanSize blk.num) }
  let s : State := (doomed.map (·.core)).eraseDups.foldl (fun s c => s.sweep c none) s
  if l.det then s.due (.stepEnd blk.launch)
  else if (s.launch blk.launch).blocks ≤ (s.launch blk.launch).ended then s.due (.launchComplete blk.launch)
  else s.due (.blockRefill blk.launch)

/-! ### Checkpoints and rollback (R259, R261) -/

/-- The records of cancelled accesses that no rerun has issued again are dropped (R261). -/
def Warp.fresh (w : Warp) : Warp := { w with replay := w.replay.filter (!·.stale) }

/-- A block's checkpoint at a rendezvous (R259): absent registers are filled, so that it pins every register. The pins of each
warp are replaced in that warp's name (R56). DEDUCED: log 25. -/
def State.takeCk (s : State) (b : Nat) : State :=
  let s := (s.block b).warps.foldl (fun s w => match w.paths.head? with
    | some p => (s.fillAll b w.idx p.id).modWarp b w.idx Warp.fresh
    | none => s) s
  let old := match (s.block b).ck with | some k => k.warps | none => []
  let n := s.serial
  let s := s.fresh.modBlock b fun x =>
    { x with
      ck := some { serial := n, warps := old, trees := x.trees, tiles := x.tiles, marks := x.marks, stamps := x.stamps,
                   glaze := x.glaze, cur := x.cur, passed := x.passed, turnOver := x.turnOver, arrived := x.arrived,
                   view := x.view, written := x.written, atoms := x.atoms, stepCopies := x.stepCopies, lines := x.lines }
      undoLog := [], rollbacks := 0, eligible := true }
  (s.block b).warps.foldl (fun s w =>
    (s.modBlock b fun x =>
      { x with ck := x.ck.map fun k => { k with warps := w :: k.warps.filter (·.idx != w.idx) } }).sweep (s.block b).core
        (some (b, w.idx))) s

/-- A warp as its checkpoint has it (R198, R261): the counters go on, in DET mode `RETIRED` returns too (R253). Accesses with serials below `n`
were issued before the interval, by threads that have exited, and stay; what was parked since is cancelled, and its record stands until the
rerun issues the access again. -/
def Warp.rollTo (w k : Warp) (det : Bool) (n : Nat) (kept : Nat → Bool) : Warp :=
  { k with
    binds := w.binds, keys := w.keys, deaths := w.deaths, retired := if det then k.retired else w.retired,
    wstat := (w.wstat &&& 0xFFFFF800#32) ||| (k.wstat &&& 0x7FF#32), frame := w.frame, slot := w.slot, slot2 := w.slot2, start := w.start,
    cycle0 := w.cycle0,
    tx := none, links := [], pend := w.pend.filter (fun a => decide (a.serial < n)), waits := [],
    replay := w.replay.map fun r => if r.copy.any kept || r.accs.any (fun a => decide (a.serial < n)) then r else { r with stale := true, accs := [], copy := none } }

/-- The engine's last words of a cancelled operation: STATE 5, with what its flags hold (R116, R127). -/
def MatOp.cancelled (m : MatOp) : List Byte := leBytes 8 (5 + m.flags.toNat % 32 * 256 + if m.wrap then 8192 else 0)

/-- Rollback of a block (R261): operations that it issued in the interval are cancelled, the undo log restores shared memory
(R48), the cancelled matrix operations show STATE 5 (R127), and every warp resumes after the rendezvous. A bind of the interval
takes no flags any more (R44). DEDUCED: log 32. -/
def State.rollback (s : State) (b : Nat) (k : BlockCk) : State :=
  let blk := s.block b
  let det := (s.launch blk.launch).det
  let new := fun (x : Nat) => decide (k.serial ≤ x)
  let gone := (s.core blk.core).matq.filter fun m => m.block == b && new m.id
  let s := s.freeOps b new
  let s := { s with copies := s.copies.filter fun c => !(c.block == b && new c.op) }
  let s := s.modCore blk.core fun c =>
    { c with matq := c.matq.filter (fun m => !(m.block == b && new m.id)),
             trees := c.trees.filter (fun m => !(m.block == b && new m.id)),
             holds := c.holds.filter (fun m => !(m.block == b && new m.id)),
             kicks := c.kicks.filter (fun m => !(m.block == b && new m.id)),
             entries := c.entries.map (fun e => { e with bound := e.bound.filter fun x => !(x.1 == b && new x.2.2) }),
             acts := dropIncoming b c.acts, chains := dropIncoming b c.chains, chrun := c.chrun.filter (·.1 != b) }
  let s := blk.undoLog.foldl (fun s u => s.watch b u.1 1 none) s
  let s := gone.foldl (fun s o => s.watch b (o.pb + 56) 8 none) s
  let s := { s with badBytes := s.badBytes.filter fun x => !(blk.undoLog.any (fun u => x == sharedAddr b u.1) ||
    gone.any fun o => decide (sharedAddr b (o.pb + 56) ≤ x) && decide (x < sharedAddr b (o.pb + 64))) }
  let kept := fun (c : Nat) => s.copies.any (·.id == c)
  let s := s.modBlock b fun x =>
    { x with
      shared := gone.foldl (fun m o => m.setBytes (o.pb + 56) o.cancelled) (blk.undoLog.foldl (fun m u => m.set u.1 u.2) x.shared)
      warps := x.warps.map fun w => match k.warps.find? (·.idx == w.idx) with
        | some q => w.rollTo q det k.serial kept | none => w
      trees := k.trees, tiles := k.tiles, marks := k.marks, stamps := k.stamps, glaze := k.glaze, cur := k.cur,
      passed := k.passed, turnOver := k.turnOver, arrived := k.arrived, view := k.view, written := k.written,
      atoms := k.atoms, stepCopies := k.stepCopies, lines := k.lines, undoLog := [], release := [],
      rollbacks := x.rollbacks + 1, mma := false }
  let s := k.warps.foldl (fun s w => w.stack.foldl (fun s x => s.stackWrite blk.core (s.launch blk.launch) w x.1 x.2) s) s
  (s.abandon blk.core fun e => e.producer.block == b && (new e.eid || new e.producer.since)).sweep blk.core none

/-- A block consumes an uncorrectable error (R261): it rolls back, or it is killed with its span, as one is that has ended. Its launch then counts as
one that lost blocks under this rule (R416). -/
def State.consume (s : State) (b : Nat) : State :=
  let blk := s.block b
  match if blk.ended then none else blk.ck with
  | some k =>
    if blk.eligible && decide (blk.rollbacks < 4) then s.rollback b k
    else (s.modLaunch blk.launch fun l => { l with spanLost := true }).kill b
  | none => (s.modLaunch blk.launch fun l => { l with spanLost := true }).kill b

/-! ### Completions (R37, R44, R55) -/

/-- Do the lanes of each pair agree at a compared point of a saggar launch (R258)? A draw of the tick. DESIGN CHOICE: log 15. -/
def State.compared (s : State) : Bool × State := (Config.pairsAgree s.tick, { s with tick := s.tick + 1 })

/-- A production becomes ready (R37, R44), with the entries of restored registers that take its value (R55): its flags reach every
bound warp, and the sources of a record whose key has left are released in the producer's name (R56). -/
def State.makeReady (s : State) (core : Nat) (e : Entry) (verified : Bool) : State :=
  let s := s.modCore core fun c =>
    { c with entries := (c.entries.map fun x =>
        if x.eid == e.eid then { x with st := .ready, verified := verified, due := none }
        else if x.st == .pending && x.copyOf == some e.eid then
          { x with st := .ready, value := e.value, known := true, poison := e.poison, due := none, copyOf := none }
        else x).filter fun x => !(x.dead && x.st == .ready) }
  let s := e.bound.foldl (fun s bw => s.raise bw.1 bw.2.1 e.flags) (s.unbind e.eid)
  let actor := if (s.warp e.producer.block e.producer.warp).exited then none
    else some (e.producer.block, e.producer.warp)
  s.sweep core actor

/-- A production completes (R37). A lineage-bearing result of a saggar launch, or a keyed one, is compared first, and a mismatch abandons the entry and takes `SDC` at its
producer (R55, R258, R261). DESIGN CHOICE: log 15. -/
def State.complete (s : State) (core id : Nat) : State :=
  match (s.core core).entry? id with
  | none => s
  | some e =>
    if e.st != .pending || !e.known then s else
    if e.bearing || e.key.any (·.saggar) then
      let (ok, s) := s.compared
      if ok then s.makeReady core e true
      else (s.abandon core fun x => x.eid == id).consume e.producer.block
    else s.makeReady core e false

/-- A result has arrived: it becomes known and ready. After a migration (R236) another core may hold the entry too. -/
def State.land (s : State) (core id : Nat) : State :=
  match (s.core core).entry? id with
  | none => s
  | some e =>
    let all := (s.cores.filter fun c => (c.2.entry? id).isSome).map (·.1)
    all.foldl (fun s c => (s.modCore c fun k => k.modEntry id fun x => { x with value := e.value, known := true }).complete c id) s

/-! ### Transactions (R206) -/

/-- The checkpoint of a transaction (R198). -/
def Cx.checkpoint (c : Cx) : Checkpoint :=
  { v := c.wp.v, s := c.pt.s, p := c.wp.p, lc := c.wp.lc, loops := c.wp.loops, xi := c.wp.xi,
    wstat := c.wp.wstat &&& 0x7FF#32, mr := c.wp.threads.map (·.mr) }

/-- The cycle in which a path issued last, in a clause that is cut or at its end (R95): the next one after it may issue a number of cycles
later that its width gives (R17). -/
def Path.lastIssue (p : Path) (wide : Nat) : Option Nat := if p.next < wide then p.last else some (p.next - wide)

/-- Cycles that an instruction of a launch's warps takes of its quadrant (R17). -/
def Launch.cycles (l : Launch) : Nat := if l.physW = 64 then 2 else 1

/-- Abort the warp's transaction (R206): everything of R198 returns, every thread goes to the label. What the region's instructions were to
raise, and what it left absent at a save, goes too. The one path that forms keeps the ageing counter of the path with the lowest thread
(DESIGN CHOICE, log 38). -/
def State.abortTx (s : State) (b w code arg : Nat) : State :=
  let wp := s.warp b w
  match wp.tx with
  | none => s
  | some t =>
    let id := s.serial
    let others := match wp.handler with | some h => h.others.foldl (fun m p => m ||| p.mask) 0#64 | none => 0#64
    let first := (sortPaths wp.paths).head?.getD default
    let latest := fun (f : Path → Nat) => wp.paths.foldl (fun a p => max a (f p)) 0
    let last := (wp.paths.filterMap fun p => p.lastIssue (s.launch (s.block b).launch).cycles).foldl (fun (a : Option Nat) n => some (max (a.getD 0) n)) none
    let path := { first with id := id, mask := wp.live &&& ~~~ others, pc := t.label, clause := none, hold := none,
                             park := none, s := t.ck.s, sAbsent := [], log := [], last := last, waiting := none, fetch := none, tried := false, ready := false,
                             next := latest (·.next), yield := none }
    let s := s.fresh.modWarp b w fun x =>
      { x with
        v := t.ck.v, p := t.ck.p, lc := t.ck.lc, loops := t.ck.loops, xi := t.ck.xi,
        wstat := (x.wstat &&& 0xFFFFF800#32) ||| t.ck.wstat,
        threads := (List.range x.threads.length).map fun l =>
          { x.threads.getD l default with mr := t.ck.mr.getD l none }
        paths := [path], tx := none, txcode := code, txarg := arg, waits := [], absent := [] }
    let s := s.modCore (s.block b).core fun c =>
      { c with entries := c.entries.map fun e => { e with bound := e.bound.filter fun x => !(x.1 == b && x.2.1 == w && decide (t.since ≤ x.2.2)) } }
    (((s.endChrun b w fun _ => false).arrive b w id).releases b w).sweep (s.block b).core (some (b, w))

/-! ### Traps (R220 to R227) -/

/-- Complete the warp's own results that are known (R223: every other result becomes ready first). -/
def State.drain (s : State) (core b w : Nat) : State :=
  ((s.core core).entries.filter fun e =>
    e.st == .pending && e.known && e.producer.block == b && e.producer.warp == w && !e.producer.adopted).foldl
    (fun s e => s.complete core e.eid) s

/-- Registers that still point to pending entries are linked (R226). -/
def Cx.linksNow (c : Cx) : List (RegClass × Nat × Nat) :=
  let pend := fun (e : Nat) => !c.cst.isReady e
  (c.wp.v.filter (fun x => pend x.2)).map (fun x => (RegClass.v, x.1, x.2)) ++
  (c.pt.s.filter (fun x => pend x.2)).map (fun x => (RegClass.s, x.1, x.2)) ++
  (c.wp.p.filter (fun x => pend x.2)).map (fun x => (RegClass.p, x.1, x.2))

/-- Can an absent register of a warp not be filled (R261, R279)? -/
def State.fillsLost (s : State) (b w : Nat) : Bool :=
  let x := s.warp b w
  (x.absent.any fun a => s.slotLost b w a.1 a.2.1) || x.paths.any fun p => p.sAbsent.any fun a => s.slotLost b w .s a.1

/-- The warp's own results become ready and its absent registers are filled (R223), unless a result's comparison has lost the block
or rolled it back (R258), or a fill does, which finds its slot lost (R261, R279): then there is no path left to trap. -/
def State.drained (s : State) (core b w pid : Nat) : State :=
  let t := s.drain core b w
  if (t.block? b).map (·.rollbacks) != (s.block? b).map (·.rollbacks) then t
  else if t.fillsLost b w then t.consume b else t.fillAll b w pid

/-- Is the path still the one that was about to trap? -/
def Cx.intact (c : Cx) (s : State) : Bool :=
  (s.block? c.b).map (·.rollbacks) == some c.blk.rollbacks && (s.cxOf c.b c.w c.pid).isSome

/-- Does a trap of a path write a frame: outside a handler, with an entry of the vector table that is no NONE and a frame that is mapped (R222,
R227, R279)? Any other one ends or loses the block as it is. -/
def State.framesTrap (s : State) (c : Cx) (cause : Nat) : Bool :=
  c.wp.handler.isNone &&
    ((s.vword (some c.core) c.l.fn c.l.ctx ((s.ctx c.l.fn c.l.ctx).vecbase.toNat + 4 * cause)).any fun v => v != 0xFFFFFFFF#32) &&
    (s.place (some c.core) c.l.fn c.l.ctx (s.frameVa c.l c.wp false)).isSome

/-- Take a delivered trap (R222, R223): results drain, the frame is written, `s30` and `s31` receive its address, and
the threads of the path go to the vector entry with meeting registers NONE. A trap in a handler, or one whose vector
entry is NONE, kills the block (R222, R227). DEDUCED: log 16. -/
def State.takeTrap (s : State) (b w pid : Nat) (t : TrapInfo) : State :=
  match s.cxOf b w pid with
  | none => s
  | some c =>
    if c.wp.handler.isSome then s.kill b else
    let x := s.ctx c.l.fn c.l.ctx
    match s.vword (some c.core) c.l.fn c.l.ctx (x.vecbase.toNat + 4 * t.cause), s.place (some c.core) c.l.fn c.l.ctx (s.frameVa c.l c.wp false) with
    | none, _ => s.consume b
    | _, none => s.consume b
    | some vec, some _ =>
      if vec == 0xFFFFFFFF#32 then s.kill b else
      let s := s.drained c.core b w pid
      if !c.intact s then s else
      let c := c.at s
      let s := s.modWarp b w fun y => { y with links := c.linksNow }
      let c := c.at s
      let va := s.frameVa c.l c.wp false
      let s := c.writeFrame t false
      let (s, lo) := s.privateEntry c.core 32 .s c.l.ctxid b w [BitVec.ofNat 32 va]
      let (s, hi) := s.privateEntry c.core 32 .s c.l.ctxid b w [BitVec.ofNat 32 (va / 2 ^ 32)] [lo]
      let s := (s.point b w pid .s 30 lo).point b w pid .s 31 hi
      let s := s.modWarp b w fun y =>
        let y := y.setMr c.pt.mask none
        { y with
          handler := some { mask := c.pt.mask, loops := y.loops, log := c.pt.log,
                            s := (List.range 32).map (fun n => c.cst.regLane c.wp c.pt .s n 0),
                            others := y.paths.filter (·.id != pid) }
          paths := (y.paths.filter (·.id == pid)).map fun p =>
            { p with pc := vec, clause := none, last := p.lastIssue c.l.cycles, hold := none, park := none, waiting := none, fetch := none, tried := false,
                     ready := false, yield := none }
          waits := [] }
      (s.endChrun b w fun _ => false).sweep c.core (some (b, w))

/-- Base opcodes of RI forms, which have no guard (R100, R108). -/
def riOps : List Nat := [0x0E, 0x0F, 0x10, 0x3D, 0x3E, 0x41, 0x45, 0x4E, 0x4F, 0x66, 0x68, 0x69, 0x6D, 0x70]

/-- Lanes of the path whose guard passes, decoded from words as R224 gives. -/
def Cx.gmask (c : Cx) (w0 w1 : Word) : Mask :=
  let op := (w0.fld 24 7).toNat
  let g : Guard :=
    if w0.getLsbD 31 then
      (if op = 0x02 || op = 0x62 then Guard.always else { p := w1.fld 5 3, neg := w1.getLsbD 4 })
    else if riOps.contains op then Guard.always
    else if op = 0x5C || op = 0x5E || op = 0x60 || op = 0x64 then { p := w0.fld 20 3, neg := w0.getLsbD 19 }
    else { p := w0.fld 0 3, neg := false }
  c.acting g

/-- The instruction stalls: the path is no longer issuing. -/
def State.stalled (s : State) : State := { s with issuing := none }

/-- A trap at an instruction with its words (R220, R224). While the warp has results on their way (R223) no path of it issues, and
the trap is delivered when they are ready, before any other. -/
def Cx.trapWords (c : Cx) (w0 w1 : Word) (cause : Nat) (info : Word) (adopted : Bool) : State :=
  if c.inTx then c.s.stalled.abortTx c.b c.w 5 cause
  else if !c.wp.quiet && c.wp.handler.isNone then
    c.s.stalled.modWarp c.b c.w fun x =>
      { x with deliver := { (default : Delivery) with cause := cause, info := info, precise := true, threads := c.pt.mask,
                                                      adopted := if adopted then some (w0, w1) else none } :: x.deliver }
  else
    let cl := c.pt.clause.getD default
    let s := if c.s.framesTrap c cause then c.s.drained c.core c.b c.w c.pid else c.s
    if !c.intact s then s.stalled else
    let c' := c.at s
    s.stalled.takeTrap c.b c.w c.pid
      { cause := cause, info := info, pc := c.pt.pc, clause := cl.at_, index := cl.done + 1, adopted := adopted,
        long := w0.getLsbD 31, replay := false, insn0 := w0, insn1 := if w0.getLsbD 31 then w1 else 0#32,
        gmask := c'.gmask w0 w1, fpc := 0, fva := 0, fmask := 0 }

/-! ### Retiring (R93, R130, R252) -/

/-- Count an instruction (R252); a block that retires makes progress (R250). -/
def State.retire (s : State) (b w : Nat) : State :=
  (s.modBlock b fun x => { x with passed := 0 }).modWarp b w fun x => { x with retired := x.retired + 1 }

/-- Number of instructions of a clause header (R92). -/
def headerN (h : Word) : Nat := (h.fld 28 4).toNat

/-- Is the instruction the last of its clause? -/
def Path.lastOf (p : Path) : Bool :=
  match p.clause with | some c => decide (headerN c.header ≤ c.done + 1) | none => true

/-- Engine class of an opcode (R108): 0 VEC, 1 SFU, 2 MEM, 3 ARRAY, 4 COPY, 5 CTRL. -/
def engineOf (op : Nat) : Nat :=
  if op < 0x2C || (0x37 ≤ op && op ≤ 0x3C) || op = 0x6D then 0 else if op ≤ 0x36 then 1 else if op ≤ 0x44 then 2
  else if 0x46 ≤ op && op ≤ 0x4B then 4 else if 0x4C ≤ op && op ≤ 0x5B then 3 else 5

/-- A ready path of the quadrant from which another path issues ages by 1, up to 256 (R24). -/
def Path.older (p : Path) (clock : Nat) : Path :=
  if !p.ready || p.tried || decide (256 ≤ p.age) then p
  else { p with age := p.age + 1, aged := if p.age = 255 then some clock else p.aged }

/-- A cycle of a quadrant passes (R219, R24): paths may be chosen again, and those that could have issued are older when
another one issues in it. DESIGN CHOICE: log 14. -/
def State.cycle (s : State) (core q clock : Nat) (issues : Bool) : State :=
  { s with blocks := s.blocks.map fun b =>
      if b.core != core then b else
      { b with warps := b.warps.map fun w =>
          if w.quad != q then w else
          { w with paths := w.paths.map fun p =>
              { (if issues then p.older clock else p) with tried := false, ready := false } } } }

/-- The cycle in which the path issues: the quadrant's, or for the second of a packed pair the one that its first took (R18). -/
def Cx.clock (c : Cx) : Nat := (c.cst.quad c.wp.quad).clock - (if c.s.issuing.any (·.second) then 1 else 0)

/-- The energy that an issued instruction draws counts for its launch and for its context, modulo 2^64 (R272). DESIGN CHOICE: log 11. -/
def State.charge (s : State) (l : Launch) : State :=
  let e := Config.energy s.tick
  ({ s with tick := s.tick + 1 }.modLaunch l.id fun x => { x with energy := x.energy + e }).modCtx l.fn l.ctx fun x =>
    { x with energy := x.energy + e }

/-- An instruction of the path issues: the path's timing (R95), the quadrant's record of its class and its next cycle
(R17, R219), the ages of paths (R24). A packed pair is one issue of one cycle (R18). -/
def Cx.issued (c : Cx) (s : State) : State :=
  let q := c.wp.quad
  let wide := c.l.cycles
  let cls := engineOf ((((s.codeWord c.core c.b c.l c.pt.pc).getD 0#32).fld 24 7).toNat)
  let s := (s.charge c.l).modPath c.b c.w c.pid fun p =>
    { p with next := c.clock + wide, last := if p.lastOf then some c.clock else p.last, age := 0, aged := none, ready := false,
             tried := false }
  if c.s.issuing.any (·.second) then s else
  let s := { s.cycle c.core q c.clock true with packed := s.packed.map fun (i : Issuing) => { i with second := true } }
  s.modCore c.core fun k => k.modQuad q fun x =>
    { x with clock := c.clock + 1, busy := c.clock + wide, lastClass := setAt cls (some c.clock) x.lastClass }

/-- Threads that reach the end of open loop bodies (R130): where they go on, with the records as they leave them. -/
def loopExam (stop : Word) : List LoopRec → List Word → List LoopRec → Word × List Word × List LoopRec
  | [], lc, kept => (stop, lc, kept)
  | r :: rs, lc, kept =>
    if r.stop != stop then loopExam stop rs lc (kept ++ [r]) else
    let n := lc.getD r.n.val 0 - 1#32
    let lc := setAt r.n.val n lc
    if n != 0#32 then (r.start, lc, kept ++ r :: rs) else loopExam stop rs lc kept

/-- Groups with the same next PC are one (R21: one path for each distinct target). -/
def joinGroups : List (Mask × Word) → List (Mask × Word)
  | [] => []
  | g :: gs =>
    let rest := joinGroups gs
    if rest.any (·.2 == g.2) then rest.map fun h => if h.2 == g.2 then (h.1 ||| g.1, h.2) else h else g :: rest

/-- Send the lanes of a path on (R21, R22), after the loop-end examination of those whose next PC is the end of an
open body that the instruction closes (R130). `past` is the clause that a lane running on has passed. -/
def Cx.goOn (c : Cx) (s : State) (next : Word) (groups : List (Mask × Word)) : State :=
  let cl := c.pt.clause.map fun k => { k with done := headerN k.header }
  let ends := c.wp.loops.any fun r => r.stop == next
  let inLoop := if ends then (groups.filter fun g => g.2 == next).foldl (fun m g => m ||| g.1) 0#64 else 0#64
  let tag := fun (g : Mask × Word) => (g.1, g.2, if g.2 == next then cl else none)
  if inLoop == 0#64 then s.divide c.b c.w c.pid (groups.map tag)
  else
    let wp := s.warp c.b c.w
    let (target, lc, loops) := loopExam next wp.loops wp.lc []
    let s := s.modWarp c.b c.w fun x => { x with lc := lc, loops := loops }
    let rest := groups.filter fun g => g.2 != next
    s.divide c.b c.w c.pid ((inLoop, target, if target == next then cl else none) :: rest.map tag)

/-- Address of the word after an instruction. -/
def Cx.after (c : Cx) (words : Nat) : Word := c.pt.pc + BitVec.ofNat 32 (4 * words)

/-- The instruction retires, and lanes go on to their next PCs. -/
def Cx.leave (c : Cx) (s : State) (words : Nat) (groups : List (Mask × Word)) : State :=
  c.goOn ((c.issued s).retire c.b c.w).stalled (c.after words) (joinGroups groups)

/-- The instruction retires, and its path is held where it stands. -/
def Cx.heldAt (c : Cx) (s : State) (h : Hold) : State :=
  (((c.issued s).retire c.b c.w).stalled).modPath c.b c.w c.pid fun p => { p with hold := some h }

/-- Lowest thread of the path after the issuing one (R249), 64 when it is the last: what is left of the issuing path is not after it. The paths
that a handler has stopped count too, and go on when it ends (R227). -/
def Cx.pathAfter (c : Cx) : Nat :=
  ((((c.wp.paths ++ (match c.wp.handler with | some h => h.others | none => [])).filter (·.id != c.pid)).map Path.low).filter fun n => decide (c.pt.low < n)).foldl min 64

/-- In DET mode a switch point ends the turn, and the path pointer moves to the next path (R248, R249). -/
def Cx.endTurn (c : Cx) (s : State) : State :=
  if !c.l.det then s else
  (s.modBlock c.b fun b => { b with turnOver := true }).modWarp c.b c.w fun w => { w with pointer := c.pathAfter }

/-- An instruction that has issued retires, and the path runs on (R93): inside the clause, or past its end. -/
def Cx.runOn (c : Cx) (s : State) (words : Nat) : State :=
  let s := (s.retire c.b c.w).stalled
  let next := c.after words
  if c.pt.lastOf then c.goOn s next [(c.pt.mask, next)]
  else
    let s := s.modPath c.b c.w c.pid fun p =>
      { p with pc := next, clause := p.clause.map fun k => { k with done := k.done + 1 } }
    s.mergeAt c.b c.w c.pid

/-- The instruction issues, retires, and the path runs on. -/
def Cx.advance (c : Cx) (s : State) (words : Nat) : State := c.runOn (c.issued s) words

/-- Words of an instruction. -/
def wordsOf (i : Instr) : Nat := (encode i).length

/-- Instructions that abort a transaction by their mnemonic (R201). DEDUCED: log 16. -/
def notxInstr : Instr → Bool
  | .atom .. | .red .. | .waitaddr .. | .wake .. | .ifence | .tcopy .. | .acopy .. | .ckick .. | .binit .. | .glaze ..
  | .wcfg .. | .wset .. | .wadd .. | .wget .. | .wsum .. | .wpre .. | .wfind .. | .wcut .. | .wload .. | .wsave ..
  | .mma .. | .mclr .. | .ldact .. | .chload .. | .bar .. | .yieldTurn | .kstep | .exit .. | .setsr .. | .declw ..
  | .snap | .rte => true
  | _ => false

end Sys2Proof.Machine
end

