-- ==== Sys2Proof/Machine/Operands.lean ====
section
/-! DEFINITION. Operand forms: what a field accepts (R58, R59, R103), indexed operands (R62), inline constants (R75),
the crossbar (R67 to R69), the check order (R70), and reads that must wait (R45, R65, R97). -/

namespace Sys2Proof.Machine

open Sys2Proof

/-! ### Inline constants (R75) -/

/-- The type in which an instruction reads an operand, as far as a constant's value depends on it. -/
inductive RT where
  | w32 | w64 | f32 | f64 | f16 | bf16 | e4m3 | e5m2
  deriving DecidableEq, Repr, Inhabited

/-- The Word column of R75. -/
def constWord : InlineConst → Word
  | .i0 => 0 | .i1 => 1 | .i2 => 2 | .i4 => 4 | .im1 => 0xFFFFFFFF
  | .fHalf => 0x3F000000 | .f1 => 0x3F800000 | .f2 => 0x40000000 | .fm1 => 0xBF800000 | .fQuarter => 0x3E800000
  | .f4 => 0x40800000

/-- Is it an integer constant? -/
def constInt : InlineConst → Bool
  | .i0 | .i1 | .i2 | .i4 | .im1 => true
  | _ => false

/-- The numeric value of a constant. -/
def constVal : InlineConst → FVal
  | .i0 => .fin false 0 0 | .i1 | .f1 => .fin false 1 0 | .i2 | .f2 => .fin false 2 0 | .i4 | .f4 => .fin false 4 0
  | .im1 | .fm1 => .fin true 1 0 | .fHalf => .fin false 1 (-1) | .fQuarter => .fin false 1 (-2)

/-- What a constant delivers (R75). -/
def constRead (k : InlineConst) : RT → Dword
  | .w32 => (constWord k).setWidth 64
  | .w64 => if constInt k then (constWord k).signExtend 64 else (constWord k).setWidth 64
  | .f32 => BitVec.ofNat 64 (fp32.encode .rne (constVal k)).1
  | .f64 => BitVec.ofNat 64 (fp64.encode .rne (constVal k)).1
  | .f16 => BitVec.ofNat 64 ((fp16.encode .rne (constVal k)).1 * 65537)
  | .bf16 => BitVec.ofNat 64 ((bf16.encode .rne (constVal k)).1 * 65537)
  | .e4m3 => BitVec.ofNat 64 (e4m3.encode .rne (constVal k)).1
  | .e5m2 => BitVec.ofNat 64 (e5m2.encode .rne (constVal k)).1

/-! ### The crossbar (R67, R68) -/

/-- The 24 orderings of four positions, ascending. -/
def quadTable : List (List Nat) :=
  [[0,1,2,3],[0,1,3,2],[0,2,1,3],[0,2,3,1],[0,3,1,2],[0,3,2,1],
   [1,0,2,3],[1,0,3,2],[1,2,0,3],[1,2,3,0],[1,3,0,2],[1,3,2,0],
   [2,0,1,3],[2,0,3,1],[2,1,0,3],[2,1,3,0],[2,3,0,1],[2,3,1,0],
   [3,0,1,2],[3,0,2,1],[3,1,0,2],[3,1,2,0],[3,2,0,1],[3,2,1,0],
   [0,0,0,0],[1,1,1,1],[2,2,2,2],[3,3,3,3],[0,0,2,2],[1,1,3,3],[0,1,0,1],[2,3,2,3]]

/-- Position `j` of row `k` of the quad table. -/
def quadAt (k j : Nat) : Nat := (quadTable.getD k []).getD j 0

/-- Source lane of destination lane `l` (R67). -/
def permLane (p : Perm) (w l : Nat) : Nat :=
  match p with
  | .ident => l
  | .rot k => (l + k.toNat) % w
  | .bcast k => k.toNat
  | .bfly k => l ^^^ k.toNat
  | .mirror k => l ^^^ (2 ^ k.toNat - 1)
  | .qsw k => 4 * (l / 4) + quadAt k.toNat (l % 4)
  | .seg k => let n := 4 * 2 ^ (k.toNat / 8); l / n * n + k.toNat % 8
  | .rsvd _ => l

/-- Is the parameter in the Valid column of R67? -/
def permOk (p : Perm) (w : Nat) : Bool :=
  match p with
  | .ident | .rot _ | .qsw _ => true
  | .bcast k | .bfly k => decide (k.toNat < w)
  | .mirror k => decide (1 ≤ k.toNat) && decide (2 ^ k.toNat ≤ w)
  | .seg k => let n := 4 * 2 ^ (k.toNat / 8); decide (n < w) && decide (k.toNat % 8 < n)
  | .rsvd _ => false

/-! ### What a field accepts -/

/-- Classes that an operand field accepts (R58); `v` covers direct and indexed codes. -/
structure Accept where
  v : Bool := false
  s : Bool := false
  p : Bool := false
  lc : Bool := false
  xi : Bool := false
  const : Bool := false
  deriving DecidableEq, Repr, Inhabited

/-- A general source (R296). -/
def genSrc : Accept := { v := true, s := true, lc := true, xi := true, const := true }
/-- A general destination (R296). -/
def genDst : Accept := { v := true, s := true }
/-- A `v`, `s` or constant operand. -/
def vsc : Accept := { v := true, s := true, const := true }
/-- A `v` operand. -/
def onlyV : Accept := { v := true }
/-- A `p` operand. -/
def onlyP : Accept := { p := true }

/-- An operand of an instruction: its code, its field for `TRAPINFO` (0 D, 1 A, 2 B, 3 C), and how it is used. -/
structure OpSpec where
  o : Opnd
  field : Nat
  dest : Bool := false
  pair : Bool := false
  acc : Accept
  perm : Perm := .ident
  rt : RT := .w32
  /-- The register number must be a multiple of this (R138). -/
  align : Nat := 1
  /-- Registers read or written from the first on. -/
  count : Nat := 1
  deriving DecidableEq, Repr, Inhabited

/-- Registers that an operand spans. -/
def OpSpec.span (x : OpSpec) : Nat := if x.pair then 2 else x.count
/-- Alignment of the register number. -/
def OpSpec.step (x : OpSpec) : Nat := if x.pair then 2 else x.align

/-- Is the field's code one that R58, R59 and the entry accept? `sdst`: the instruction has an `s` destination. -/
def OpSpec.ok (x : OpSpec) (grant w : Nat) (sdst : Bool) : Bool :=
  let base := match x.o with
    | .v n => x.acc.v && !(sdst && !x.dest) && n.toNat % x.step == 0 && decide (n.toNat + x.span ≤ grant)
    | .idx _ => x.acc.v && !(sdst && !x.dest)
    | .s n => x.acc.s && n.toNat % x.step == 0 && decide (n.toNat + x.span ≤ 32)
    | .p n => x.acc.p && !(sdst && !x.dest) && !(x.dest && n == 7#3)
    | .lc _ => x.acc.lc && !x.dest
    | .xi => x.acc.xi && !x.dest
    | .const _ => x.acc.const && !x.dest
    | .rsvd _ => false
  let perm := x.perm == .ident ||
    (permOk x.perm w && (match x.o with | .v _ | .idx _ => true | _ => false))
  base && perm

/-- Does an indexed operand resolve to registers of the grant (R62)? -/
def OpSpec.indexOk (x : OpSpec) (grant : Nat) (xi : Word) : Bool :=
  match x.o with
  | .idx n =>
    let r := xi.toNat + n.toNat
    decide (r + x.span ≤ grant) && r % x.step == 0
  | _ => true

/-- First operand that fails a test. -/
def firstBad (f : OpSpec → Bool) : List OpSpec → Option OpSpec
  | [] => none
  | x :: xs => if f x then firstBad f xs else some x

/-- Does the instruction have an `s` destination? -/
def sDest (xs : List OpSpec) : Bool := xs.any fun x => x.dest && (match x.o with | .s _ => true | _ => false)

/-- `BADOPND` in field order, then `INDEX` (R70). -/
def Cx.checkOps (c : Cx) (xs : List OpSpec) : Except Stop Unit :=
  match firstBad (fun x => x.ok c.wp.grant c.width (sDest xs)) xs with
  | some x => .error (.trap tcBADOPND x.field)
  | none => match firstBad (fun x => x.indexOk c.wp.grant c.wp.xi) xs with
    | some x => .error (.trap tcINDEX x.field)
    | none => .ok ()

/-! ### Resolved operands -/

/-- A resolved operand: a register, or a code that delivers one value. -/
inductive Src where
  | reg (cls : RegClass) (n : Nat) (pair : Bool) (perm : Perm)
  | word (code : BitVec 8) (x : Word)
  | const (k : InlineConst) (rt : RT)
  deriving DecidableEq, Repr, Inhabited

/-- Resolve an operand (R62: `v[xi + n]`). -/
def Cx.resolve (c : Cx) (x : OpSpec) : Src :=
  match x.o with
  | .v n => .reg .v n.toNat x.pair x.perm
  | .idx n => .reg .v (c.wp.xi.toNat + n.toNat) x.pair x.perm
  | .s n => .reg .s n.toNat x.pair .ident
  | .p n => .reg .p n.toNat false .ident
  | .lc n => .word x.o.code (c.wp.lc.getD n.val 0)
  | .xi => .word x.o.code c.wp.xi
  | .const k => .const k x.rt
  | .rsvd _ => .word x.o.code 0

/-- Register class and number of a resolved operand. -/
def Src.reg? : Src → Option (RegClass × Nat)
  | .reg cls n _ _ => some (cls, n)
  | _ => none

/-- Value of a resolved operand in a destination lane (R69, R75; a pair has its low register first). A lane that does not exist
supplies zero. -/
def Cx.read (c : Cx) (x : Src) (l : Nat) : Dword :=
  match x with
  | .reg cls n pair perm =>
    let k := permLane perm c.width l
    let lo := c.cst.regLane c.wp c.pt cls n k
    if cls == .v && (c.wp.threads.getD k default).absent then 0#64
    else if pair then Dword.pair lo (c.cst.regLane c.wp c.pt cls (n + 1) k) else lo.setWidth 64
  | .word _ w => w.setWidth 64
  | .const k rt => constRead k rt

/-- Source of a lineage key (R39): tags of the entries read, or the code with the value it delivers. -/
def Cx.keySrc (c : Cx) (x : Src) : List KSrc :=
  match x with
  | .reg cls n pair _ =>
    if cls == .p && n == 7 then [.code 0xA7#8 1#32] else
    .entry cls (regPtr c.wp c.pt cls n) :: (if pair then [.entry cls (regPtr c.wp c.pt cls (n + 1))] else [])
  | .word code w => [.code code w]
  | .const k _ => [.code (Opnd.const k).code 0#32]

/-! ### Reads that must wait -/

/-- Absent pieces of a register (R65). -/
def Cx.absentOf (c : Cx) (cls : RegClass) (n : Nat) : List (RegClass × Nat × Nat) :=
  if cls == .s then (if (alook n c.pt.sAbsent).isSome then [(.s, n, 0)] else [])
  else c.wp.absent.filter fun a => a.1 == cls && a.2.1 == n

/-- Is one register readable (R45, R65, R97)? An absent piece is filled first; a pending entry of the warp's own takes
`SCHED` in scheduled mode; any other pending or abandoned entry is waited for. -/
def Cx.readable (c : Cx) (field : Nat) (cls : RegClass) (n : Nat) : Except Stop Unit :=
  if cls == .p && n == 7 then .ok () else
  match c.absentOf cls n with
  | a :: _ => .error (.await (.registerFill c.b c.w a.1 a.2.1 a.2.2))
  | [] =>
    match c.cst.entry? (regPtr c.wp c.pt cls n) with
    | none => .ok ()
    | some e =>
      match e.st with
      | .ready => .ok ()
      | .abandoned => .error (.waitEntry e.eid)
      | .pending =>
        if e.producer.block == c.b && e.producer.warp == c.w && !e.producer.adopted then
          if c.l.interlocked then .error .stall else .error (.trap tcSCHED field)
        else .error (.waitEntry e.eid)

/-- Registers that an operand reads, with its field. -/
def Cx.regsOf (c : Cx) (x : OpSpec) : List (Nat × RegClass × Nat) :=
  match c.resolve x with
  | .reg cls n _ _ => (List.range x.span).map fun i => (x.field, cls, n + i)
  | _ => []

/-- Check reads in order. -/
def Cx.allReadable (c : Cx) : List (Nat × RegClass × Nat) → Except Stop Unit
  | [] => .ok ()
  | (f, cls, n) :: rest => match c.readable f cls n with
    | .error e => .error e
    | .ok _ => Cx.allReadable c rest

/-- Reads of the sources and the guard (R97: fields A, B, C, then 4 for the guard). Of several registers that are pending the first in this order
is reported, and a carry-in after the guard (DESIGN CHOICE, log 39). -/
def Cx.checkReads (c : Cx) (xs : List OpSpec) (g : Guard) : Except Stop Unit :=
  c.allReadable ((xs.filter (fun x => !x.dest)).flatMap c.regsOf ++ [(4, .p, g.p.toNat)])

/-- Lanes of one piece of a register (R65): 16 lanes of a `v` register, the whole of another one. -/
def Cx.pieceLanes (c : Cx) (cls : RegClass) (piece : Nat) : Mask :=
  if cls == .v then Mask.ofFn c.width fun l => l / 16 == piece else fullMask c.width

/-- Does a write of some lanes cover a piece in part, so that it fills it first (R65)? -/
def Cx.partWrite (c : Cx) (act : Mask) (a : RegClass × Nat × Nat) : Bool :=
  let m := c.pieceLanes a.1 a.2.2
  act &&& m != 0#64 && act &&& m != m

/-- A destination register that keeps lanes must be known first, and its pieces that the lanes cover in part are filled (R65). What such a write does while
the warp's own result in it is pending, R101 does not say: the lanes of a known result merge at once, an unknown one is waited for
(DESIGN CHOICE, log 37). -/
def Cx.mergeable (c : Cx) (act : Mask) (cls : RegClass) (n : Nat) : Except Stop Unit :=
  if cls == .s then .ok () else
  match (c.absentOf cls n).filter (c.partWrite act) with
  | a :: _ => .error (.await (.registerFill c.b c.w a.1 a.2.1 a.2.2))
  | [] => match c.cst.entry? (regPtr c.wp c.pt cls n) with
    | some e => if e.st == .abandoned then .error (.waitEntry e.eid)
                else if e.known then .ok () else .error .stall
    | none => .ok ()

end Sys2Proof.Machine
end

