-- ==== Sys2Proof/Machine/Lane.lean ====
section
/-! DEFINITION. Running an instruction: its stops (R110, R208, R209), and the shared operation of every instruction
that computes a value per lane or per warp: lookup and binding (R42 to R45), execution into new entries, flags (R78,
R79), latencies (R98). -/

namespace Sys2Proof.Machine

open Sys2Proof

/-! ### Stops -/

/-- Causes that roll back single lanes under `TRY.L` (R209). -/
def laneCauses : List Nat :=
  [tcMISALIGN, tcPROTECT, tcTRANSLATE, tcFMTPARTIAL, tcSTACKOVF, tcLINEAGEWRITE, tcFPEXC]

/-- One register of lanes that roll back (R209): a private entry with the checkpoint's values in those lanes. -/
def State.restoreLanes (s : State) (b w : Nat) (cls : RegClass) (lanes : Mask) (n old : Nat) : State :=
  let core := (s.block b).core
  let wp := s.warp b w
  let c := s.core core
  let cur := (alook n (if cls == .p then wp.p else wp.v)).getD 0
  if cur = old then s else
  let l := s.launch (s.block b).launch
  let value := (List.range l.w).map fun k => if lanes.has k then c.laneVal old k else c.laneVal cur k
  let (s, id) := s.privateEntry core l.physW cls l.ctxid b w value
  s.point b w 0 cls n id

/-- The `v` and `p` registers of lanes return to the checkpoint (R209). -/
def State.rollRegs (s : State) (b w : Nat) (ck : Checkpoint) (lanes : Mask) : State :=
  let s := (List.range 128).foldl (fun s n => s.restoreLanes b w .v lanes n ((alook n ck.v).getD 0)) s
  let s := (List.range 7).foldl (fun s n => s.restoreLanes b w .p lanes n ((alook n ck.p).getD 0)) s
  s.sweep (s.block b).core (some (b, w))

/-- Does the whole warp abort when lanes roll back (R209): no lane stays, or one was the last writer of a byte that another lane
wrote earlier, or of an SX block that it wrote together with a lane that stays (DEDUCED, log 16)? -/
def Cx.mustAbort (c : Cx) (t : Tx) (lanes : Mask) : Bool :=
  let inside := (c.wp.paths.filter fun p => p.hold != some .rolled).foldl (fun m p => m ||| p.mask) 0#64
  inside &&& ~~~ lanes == 0#64 ||
    t.writes.any fun x => x.lanes &&& lanes != 0#64 && (x.shared || x.lanes &&& ~~~ lanes != 0#64)

/-- A register that the transaction changed, or its value at the checkpoint, is not known yet. -/
def Cx.unknownRegs (c : Cx) (t : Tx) : Bool :=
  let pairs := fun (now old : List (Nat × Nat)) => (now ++ old).flatMap fun x =>
    let a := (alook x.1 now).getD 0
    let b := (alook x.1 old).getD 0
    if a = b then [] else [a, b]
  (pairs c.wp.v t.ck.v ++ pairs c.wp.p t.ck.p).any fun e => match c.cst.entry? e with | some x => !x.known | none => false

/-- The warp when lanes of the issuing path leave the transaction (R209): their last bytes are dropped, and they wait at the label with
their checkpointed meeting registers. `TXSTATUS` shows the lanes' cause when the outermost `COMMIT` completes, and not before (R204, R207;
DESIGN CHOICE, log 38). -/
def Cx.dropLanes (c : Cx) (t : Tx) (cause : Nat) (lanes : Mask) : State :=
  let id := c.s.serial
  c.s.fresh.modWarp c.b c.w fun x =>
    { x with
      tx := some { t with writes := t.writes.filter (fun y => y.lanes &&& lanes == 0#64), laneCause := some (t.laneCause.getD cause) }
      txlanes := x.txlanes ||| lanes
      threads := (List.range x.threads.length).map fun l =>
        let y := x.threads.getD l default
        if lanes.has l then { y with mr := t.ck.mr.getD l none } else y
      paths := ((x.paths.map fun p => if p.id = c.pid then { p with mask := p.mask &&& ~~~ lanes } else p).filter fun p => p.mask != 0#64) ++
        [{ c.pt with id := id, mask := lanes, pc := t.label, clause := none, hold := some .rolled, last := some c.clock }] }

/-- The issuing path without lanes that leave the transaction. -/
def Cx.withoutLanes (c : Cx) (t : Tx) (cause : Nat) (lanes : Mask) : Cx := c.at (c.dropLanes t cause lanes)

/-- The instruction stops (R110): a trap, a stall, an abort of the transaction, which issues and counts (R95, R252), or a wait for
an entry (R50). DEDUCED: log 16. -/
def Cx.stop (c : Cx) (i : Instr) : Stop → State
  | .trap cause info | .laneTrap cause info _ =>
    c.trapWords (encodePair i).1 (encodePair i).2 cause (BitVec.ofNat 32 info) false
  | .stall => c.s.stalled
  | .await (.icacheFill b line) =>
    (c.s.stalled.modPath c.b c.w c.pid fun p => { p with fetch := some line.toNat }).due (.icacheFill b line)
  | .await e => c.s.stalled.due e
  | .abort code arg => (((c.issued c.s).retire c.b c.w).stalled).abortTx c.b c.w code arg
  | .waitEntry e =>
    c.s.stalled.modWarp c.b c.w fun x =>
      if x.waits.any (fun y => y.1 == e && c.pt.mask.has y.2.2) then x else { x with waits := x.waits ++ [(e, c.clock, c.pt.low)] }
  | .lost => c.s.stalled.consume c.b

/-- Lanes roll back alone (R209), and the instruction completes in the other lanes, which read the registers as it found them;
further lanes that raise such a trap join them. Registers that a save has left absent are filled first. A path of which no lane stays is gone,
and the instruction with it. DEDUCED: log 16. -/
def Cx.rollLanes (c : Cx) (i : Instr) (t : Tx) (body : Cx → Except Stop State) (cause : Nat) : Nat → Mask → State
  | 0, _ => c.s.stalled.abortTx c.b c.w 5 cause
  | n + 1, lanes =>
    if c.mustAbort t lanes then c.s.stalled.abortTx c.b c.w 5 cause
    else if c.unknownRegs t then c.s.stalled
    else match c.wp.absent with
    | a :: _ => c.stop i (.await (.registerFill c.b c.w a.1 a.2.1 a.2.2))
    | [] =>
    if c.pt.mask &&& ~~~ lanes == 0#64 then
      ((((c.issued (c.dropLanes t cause lanes)).retire c.b c.w).stalled.rollRegs c.b c.w t.ck lanes).releases c.b c.w)
    else match body (c.withoutLanes t cause lanes) with
      | .ok s => s.rollRegs c.b c.w t.ck lanes
      | .error (.laneTrap k info more) =>
        if laneCauses.contains k then Cx.rollLanes c i t body cause n (lanes ||| more) else c.stop i (.trap k info)
      | .error e => c.stop i e

/-- An instruction that does not complete: lanes that roll back alone under `TRY.L` (R209), else its stop. -/
def Cx.fail (c : Cx) (i : Instr) (body : Cx → Except Stop State) (e : Stop) : State :=
  match e, c.wp.tx with
  | .laneTrap cause _ lanes, some t =>
    if t.lane && laneCauses.contains cause then c.rollLanes i t body cause 64 lanes else c.stop i e
  | _, _ => c.stop i e

/-- The guard of an instruction whose operands are compared between the lanes of a pair (R258): stores, atomics, copies, wakes, waits
and declarations, and the updates of sum trees, whose two results are compared (R151). -/
def comparedGuard : Instr → Option Guard
  | .st _ => some Guard.always
  | .stLong _ _ _ f _ => some f.g
  | .atom _ _ _ _ _ _ _ _ g | .acopy _ _ _ _ _ g | .ckick _ _ _ g | .declw _ _ _ g => some g
  | .red _ _ _ _ f => some f.g
  | .tcopy _ f => some f.g
  | .wake _ f => some f.g
  | .waitaddr _ _ _ f => some f.g
  | .wcfg _ _ g => some g
  | .wset _ _ f | .wadd _ _ f => some f.g
  | .wcut _ f => some f.g
  | .wload _ f => some f.g
  | _ => none

/-- Is the instruction compared in a saggar launch (R258)? One without acting lanes has nothing to compare. -/
def Cx.compares (c : Cx) (i : Instr) : Bool :=
  c.l.saggar && (match comparedGuard i with | some g => c.acting g != 0#64 | none => false)

/-- Run an instruction of the issuing path: NOTX first (R110, R201), then its own checks and effect. The body answers
the state after the instruction has retired, or why it stops. In a saggar launch a compared instruction whose pairs disagree performs
nothing, and its block recovers (R258, R261). DESIGN CHOICE: log 15. -/
def issue (i : Instr) (s : State) (body : Cx → Except Stop State) : Host.Outcome State Fault Refusal :=
  match s.cx with
  | none => .fault .noIssuingPath
  | some c =>
    if notxInstr i && c.inTx then .next (c.stop i (.abort 4 ((encodePair i).1.fld 24 8).toNat))
    else if c.compares i then
      let (ok, t) := c.s.compared
      let c := { c with s := t }
      match body c with
      | .ok s' => .next (if ok then s' else t.stalled.consume c.b)
      | .error e => .next (c.fail i body e)
    else match body c with
      | .ok s' => .next s'
      | .error e => .next (c.fail i body e)

/-! ### Lane operations -/

/-- Result of one lane: value (a pair's both words), flags in `WSTAT` order, carry. -/
structure LaneRes where
  val : Dword
  flags : Word := 0#32
  /-- Flags of the lane's own result (R209), where the instruction raises more than these. -/
  own : Option Word := none
  carry : Bool := false
  deriving DecidableEq, Repr, Inhabited

/-- What a lane operation computes from: source values by operand and lane, acting lanes, helper lanes, the lanes
that exist and have not exited, W. -/
structure Args where
  src : Nat → Nat → Dword
  act : Mask
  help : Mask
  active : Mask
  w : Nat

/-- A lane operation: operands, function, and the fields of its lineage key (R39). -/
structure Sem where
  dst : OpSpec
  srcs : List OpSpec
  guard : Guard
  words : Nat
  base : Nat
  mod : Nat := 0
  perms : List (BitVec 8) := []
  imm : Nat := 0
  version : Option (Nat × Nat) := none
  /-- Carry-in predicate, read with the sources (R128). -/
  cin : Option (BitVec 3) := none
  /-- Carry-out predicate; 7 is none (R128). -/
  cout : BitVec 3 := 7#3
  /-- Cycles to ready for VEC (R98); none for SFU and the other classes. -/
  lat : Option Nat := none
  /-- Cycles of the quadrant's SFU per 16 lanes (R132), 0 for no SFU. -/
  sfu : Nat := 0
  /-- It can raise an IEEE flag in this instance (R42). -/
  canFlag : Bool := false
  /-- It loses lineage under FPTRAP whether it can raise a flag or not (R42: `CHRUN`). -/
  fpGroup : Bool := false
  /-- It takes part in lookup when R42 holds (R41). -/
  lineage : Bool := true
  /-- Reads its old destination as a further source (CHRUN's i3). -/
  readsDst : Bool := false
  /-- Identity field of the key (R39). -/
  ident : Option (Nat × List Word) := none
  /-- Its result depends on which lanes are helper lanes (R28). -/
  usesHelp : Bool := false
  f : Args → Nat → LaneRes

/-- Operands in field order, the destination first. -/
def Sem.ops (m : Sem) : List OpSpec := m.dst :: m.srcs

/-- Predicates named beside the operand codes: carry-in, and the destination of the carry. -/
def Sem.carrySrc (m : Sem) : List Src :=
  match m.cin with | some p => [.reg .p p.toNat false .ident] | none => []

/-- The destination's class and first register. -/
def Cx.dstReg (c : Cx) (x : OpSpec) : RegClass × Nat := ((c.resolve x).reg?).getD (.v, 0)

/-- Registers that the operation writes: the destination's, then the carry-out. -/
def Cx.dests (c : Cx) (m : Sem) : List (RegClass × Nat) :=
  let d := c.dstReg m.dst
  (List.range m.dst.span).map (fun i => (d.1, d.2 + i)) ++
    (if m.cout == 7#3 then [] else [(RegClass.p, m.cout.toNat)])

/-- Resolved sources, the carry-in and the old destination after them. -/
def Cx.sources (c : Cx) (m : Sem) : List Src :=
  m.srcs.map c.resolve ++ m.carrySrc ++ (if m.readsDst then [c.resolve m.dst] else [])

/-- What the operation computes from. -/
def Cx.args (c : Cx) (m : Sem) : Args :=
  let xs := c.sources m
  { src := fun i l => match xs[i]? with | some x => c.read x l | none => 0#64,
    act := c.acting m.guard, help := c.wp.helpers, active := c.active, w := c.width }

/-- Identity field of a key (R39). Binding changes no result and no flag (R44), so a result that depends on the helper
lanes is shared only between warps with the same helper lanes (DEDUCED, log 23). -/
def Cx.identOf (c : Cx) (m : Sem) : Option (Nat × List Word) :=
  if (m.usesHelp || (m.canFlag && !sDest [m.dst])) && c.wp.helpers != 0#64 then some (256, maskWords c.wp.helpers) else m.ident

/-- The lineage key (R39). A result is bound by a register of its own class, so the key carries the destinations' classes, which
R39's table does not list (DEDUCED, log 23). -/
def Cx.keyOf (c : Cx) (m : Sem) : Key :=
  { op := m.base, mod := m.mod, width := c.width, srcs := (c.sources m).flatMap c.keySrc, perms := m.perms, imm := m.imm,
    version := m.version, ctx := c.l.ctxid, saggar := c.l.saggar, mem := none, ident := c.identOf m,
    dsts := (c.dests m).map (·.1) }

/-- Does the instruction raise its flags in the warp: does some lane act that is no helper lane (R28, R78)? -/
def Cx.raises (c : Cx) (m : Sem) : Bool := c.doing m.guard != 0#64

/-- Does the instruction write whole registers: its lanes are all of the warp's, or it has an `s` destination and no carry-out (R128: the
carry of a lane that does not act stays; DEDUCED, log 38)? -/
def Cx.whole (c : Cx) (m : Sem) : Bool := (sDest [m.dst] && m.cout == 7#3) || c.acting m.guard == fullMask c.width

/-- Does the result take part in lookup (R42)? Inside a `TRY` region nothing does: R42 bars lookup there, while R55 says that
instructions other than loads may bind; the model follows R42 (DESIGN CHOICE, log 37). -/
def Cx.looksUp (c : Cx) (m : Sem) : Bool :=
  m.lineage && !c.inTx && !((m.canFlag || m.fpGroup) && c.l.fptrap != 0#32) && c.whole m

/-- A write of lanes makes the pieces present that it reaches (R65); another piece stays as it is. -/
def State.present (s : State) (b w pid : Nat) (act : Mask) (cls : RegClass) (n : Nat) : State :=
  if cls == .s then s.modPath b w pid fun p => { p with sAbsent := adel n p.sAbsent }
  else s.modWarp b w fun x =>
    { x with absent := x.absent.filter fun a => !(a.1 == cls && a.2.1 == n && (cls != .v || act &&& (0xFFFF#64 <<< (16 * a.2.2)) != 0#64)) }

/-- Point registers at entries that hold what lanes have written; the write makes their pieces present (R65). -/
def State.pointAll (s : State) (b w pid : Nat) (act : Mask) : List (RegClass × Nat) → List Nat → State
  | (cls, n) :: ds, e :: es =>
    State.pointAll ((s.point b w pid cls n e).present b w pid act cls n) b w pid act ds es
  | _, _ => s

/-- Scheduled mode: results of a variable-latency instruction are assigned to SETA, accesses and requests to SETB
(R96). -/
def Cx.assign (c : Cx) (s : State) (results others : List Token) : State :=
  match c.pt.clause with
  | none => s
  | some cl =>
    if c.l.interlocked then s else
    let a := (cl.header.fld 9 4).toNat
    let b := (cl.header.fld 5 4).toNat
    let new := (if a < 12 then results.map fun t => (a, t) else []) ++ (if b < 12 then others.map fun t => (b, t) else [])
    if new.isEmpty then s else s.modWarp c.b c.w fun x => { x with flags := x.flags ++ new }

/-- The path issues: its waits are over (R50), and what nothing names any more dies in the warp's name (R56). -/
def Cx.endWaits (c : Cx) (s : State) : State :=
  (s.modWarp c.b c.w fun x => { x with waits := x.waits.filter fun e => !c.pt.mask.has e.2.2 }).sweep c.core c.actor

/-- The value lists of the destinations from per-lane results: lanes that do not act keep the old value. An `s` destination takes lane 0's
result, whether lane 0 acts or not, beside a carry-out that each acting lane writes: which lane's carry-in the one value takes R128 does not
say, and the carry-in passes R58 as a source of an `s` destination (DESIGN CHOICE, log 38). -/
def Cx.destValues (c : Cx) (ds : List (RegClass × Nat)) (pair : Bool) (act : Mask) (r : Nat → LaneRes) :
    List (List Word) :=
  ds.zipIdx.map fun (d, i) =>
    let pick := fun (x : LaneRes) =>
      if d.1 == .p && i != 0 then (if x.carry then 1#32 else 0#32)
      else if i = 0 then x.val.lo else if pair && i = 1 then x.val.hi else x.val.lo
    if d.1 == .s then [pick (r 0)]
    else (List.range c.width).map fun l =>
      if act.has l then pick (r l) else c.cst.regLane c.wp c.pt d.1 d.2 l

/-- Execute into new entries (R37, R44): one for each destination; with a key they enter the key table. -/
def Cx.allocAll (c : Cx) (s : State) (mk : List Word → RegClass → Entry) :
    List (RegClass × Nat) → List (List Word) → List Nat → State × List Nat
  | (cls, _) :: ds, v :: vs, ids =>
    let (s, id) := s.alloc c.core c.l.physW c.actor { mk v cls with part := ids.length } ids
    Cx.allocAll c s mk ds vs (ids ++ [id])
  | _, _, ids => (s, ids)

/-- A new pending entry of the issuing warp, which takes its flags when a lane that is no helper lane acts (R28, R78). -/
def Cx.newEntry (c : Cx) (key : Option Key) (insn : Option (Word × Word)) (known : Bool) (due : Option Nat)
    (flags : Word) (raises : Bool) (value : List Word) (cls : RegClass) : Entry :=
  { (default : Entry) with
    cls := cls, value := value, st := .pending, known := known, due := due, flags := flags, key := key, insn := insn,
    ctx := c.l.ctxid, producer := { block := c.b, warp := c.w, adopted := false },
    bound := if raises then [(c.b, c.w, c.s.serial)] else [] }

/-- Insert a key for results (R40, R44): KEYS rises; a full table evicts first. A key's last use counts in cycles. -/
def Cx.insertKey (c : Cx) (s : State) (k : Key) (ids : List Nat) (watch : List (Nat × Nat × Nat)) (launch : Option Nat) :
    State :=
  let s := if 4096 ≤ (s.core c.core).keys.length then s.evict c.core c.actor ids else s
  let now := s.serial
  let s := s.fresh.modCore c.core fun x =>
    { x with keys := x.keys ++ [{ key := k, results := ids, lastUse := c.clock, born := now, watch := watch, launch := launch }] }
  s.modWarp c.b c.w fun x => { x with keys := x.keys + 1 }

/-- Bind to a key's results (R44): BINDS rises; flags come now, or when the entry becomes ready. In scheduled mode a result of
variable latency that is pending is assigned to SETA (R96). -/
def Cx.bind (c : Cx) (s : State) (k : KeyRec) (ds : List (RegClass × Nat)) (raises vary : Bool) : State :=
  let now := s.serial
  let s := s.fresh.modCore c.core fun x =>
    let x := { x with keys := x.keys.map fun j => if j.born = k.born then { j with lastUse := c.clock } else j }
    k.results.foldl (fun x e => x.modEntry e fun y =>
      if y.st == .ready || !raises then y else { y with bound := y.bound ++ [(c.b, c.w, now)] }) x
  let s := k.results.foldl (fun s e =>
    match (s.core c.core).entry? e with
    | some y => if y.st == .ready && raises then s.raise c.b c.w y.flags else s
    | none => s) s
  let s := s.modWarp c.b c.w fun x => { x with binds := x.binds + 1 }
  let s := if vary then c.assign s (k.results.map Token.entry) [] else s
  s.pointAll c.b c.w c.pid (fullMask c.width) ds k.results

/-- A key of the table (R40: exact lookup). -/
def Cx.lookup (c : Cx) (s : State) (k : Key) : Option KeyRec := (s.core c.core).keys.find? fun r => r.key == k

/-- A saggar warp binds only to verified results (R55): the instruction waits while one is not. DEDUCED: log 23. -/
def Cx.bindable (c : Cx) (k : KeyRec) : Bool :=
  !k.key.saggar || k.results.all fun e => match c.cst.entry? e with | some x => x.st == .ready && x.verified | none => true

/-- Each destination that keeps lanes must be mergeable. -/
def Cx.allMergeable (c : Cx) (act : Mask) : List (RegClass × Nat) → Except Stop Unit
  | [] => .ok ()
  | d :: ds => match c.mergeable act d.1 d.2 with
    | .error e => .error e
    | .ok _ => Cx.allMergeable c act ds

/-- OR of the flags of lanes. -/
def orFlags (m : Mask) (r : Nat → LaneRes) : Word := m.lanes.foldl (fun a l => a ||| (r l).flags) 0#32

/-- Can the quadrant's SFU take an instruction (R132)? The two of a packed pair take it together (R18). -/
def Cx.sfuFree (c : Cx) : Bool := decide ((c.cst.quad c.wp.quad).sfu ≤ c.clock) || c.s.issuing.any (·.second)

/-- The instruction occupies the quadrant's SFU, `n` cycles for 16 lanes (R132). -/
def Cx.useSfu (c : Cx) (s : State) (n : Nat) : State :=
  if n = 0 then s else
  s.modCore c.core fun x => x.modQuad c.wp.quad fun q => { q with sfu := max q.sfu c.clock + n * (c.l.physW / 16) }

/-- Write results and go on: entries, key, flags, SETA; the instruction retires. -/
def Cx.finishLane (c : Cx) (i : Instr) (m : Sem) (key : Option Key) (ds : List (RegClass × Nat))
    (vals : List (List Word)) (flags : Word) (raises : Bool) : State :=
  let due := m.lat.map fun n => c.clock + n + (if c.l.physW = 64 then 1 else 0)
  let bears := m.lineage && m.ident.isNone && c.l.saggar
  let (s, ids) := c.allocAll c.s (fun v k => { c.newEntry key (some (encodePair i)) true due flags raises v k with bearing := bears }) ds vals []
  let s := match key with
    | some k => c.insertKey s k ids [] none
    | none => s
  let s := s.pointAll c.b c.w c.pid (c.acting m.guard) ds ids
  let s := if m.lat.isSome then s else c.assign s (ids.map Token.entry) []
  let s := c.useSfu s m.sfu
  c.advance (c.endWaits s) m.words

/-- The register that a carry-in reads (R128). Its number is in MOD and not in an operand field; it counts as field 2, B (DESIGN
CHOICE, log 37). -/
def Sem.carryReads (m : Sem) : List (Nat × RegClass × Nat) :=
  m.carrySrc.flatMap fun x => match x.reg? with | some r => [(2, r.1, r.2)] | none => []

/-- A lane operation from its checks to its retirement (R44, R70, R79, R110). -/
def runLane (i : Instr) (m : Sem) (c : Cx) : Except Stop State := do
  c.checkOps m.ops
  c.checkReads m.srcs m.guard
  c.allReadable m.carryReads
  if m.readsDst then c.allReadable ((List.range m.dst.span).map fun j =>
    (0, (c.dstReg m.dst).1, (c.dstReg m.dst).2 + j))
  let act := c.acting m.guard
  if act == 0#64 then .ok (c.advance (c.endWaits c.s) m.words) else
  let ds := c.dests m
  let hit := if c.looksUp m then c.lookup c.s (c.keyOf m) else none
  match hit with
  | some k => do
    require (c.bindable k) .stall
    .ok (c.advance (c.endWaits (c.bind c.s k ds (c.raises m) m.lat.isNone)) m.words)
  | none =>
    require (m.sfu == 0 || c.sfuFree) .stall
    if !c.whole m then c.allMergeable act ds
    let r := m.f (c.args m)
    let flags := if sDest [m.dst] then (r 0).flags else orFlags (act &&& ~~~ c.wp.helpers) r
    if c.raises m && flags &&& c.l.fptrap != 0#32 then
      .error (.laneTrap tcFPEXC (flags &&& 0x1F#32).toNat
        (Mask.ofFn c.width fun l => act.has l && !c.wp.helpers.has l && ((r l).own.getD (r l).flags &&& c.l.fptrap) != 0#32))
    else
      let key := if c.looksUp m then some (c.keyOf m) else none
      .ok (c.finishLane i m key ds (c.destValues ds m.dst.pair act r) flags (c.raises m))

end Sys2Proof.Machine
end

