-- ==== Sys2Proof/Machine/Flags.lean ====
section
/-! DEFINITION. Carries, comparisons and float flags: the values that instructions compute beside their results
(R76 to R80, R106, R128). -/

namespace Sys2Proof.Machine

open Sys2Proof

/-- A result without flags or carry. -/
def plainRes (x : Dword) : LaneRes := { val := x }
/-- A one-bit result. -/
def bitRes (b : Bool) : LaneRes := { val := if b then 1#64 else 0#64 }
/-- A float result with its flags. -/
def floatRes (r : Nat × Word) : LaneRes := { val := BitVec.ofNat 64 r.1, flags := r.2 }

/-- Sum with carry-in and its carry (R128). -/
def addCarry (x y : Word) (c : Bool) : LaneRes :=
  let s := x.toNat + y.toNat + c.toNat
  { val := BitVec.ofNat 64 (s % 2 ^ 32), carry := decide (2 ^ 32 ≤ s) }

/-- Difference with borrow-in and its borrow (R128). -/
def subBorrow (x y : Word) (c : Bool) : LaneRes :=
  { val := (x - y - (if c then 1#32 else 0#32)).setWidth 64, carry := decide (x.toNat < y.toNat + c.toNat) }

/-- 32 × 32 + 64 with its carry (R128). -/
def mulAddCarry (x y : Word) (z : Dword) : LaneRes :=
  let s := x.toNat * y.toNat + z.toNat
  { val := BitVec.ofNat 64 s, carry := decide (2 ^ 64 ≤ s) }

/-- Is a type 64 bits wide? -/
def wideInt : IntTy → Bool
  | .s64 | .u64 => true
  | _ => false

/-- The mathematical value of an operand in a type. -/
def intVal (t : IntTy) (x : Dword) : Int :=
  match t with
  | .s32 => x.lo.toInt | .u32 => x.lo.toNat | .s64 => x.toInt | .u64 => x.toNat

/-- Integer comparison (R106). -/
def icmpHolds (c : ICmp) (x y : Int) : Bool :=
  match c with
  | .eq => decide (x = y) | .ne => decide (x ≠ y) | .lt => decide (x < y) | .le => decide (x ≤ y)
  | .gt => decide (y < x) | .ge => decide (y ≤ x)

/-- Does a float comparison hold (R106)? -/
def fcmpHolds (c : FCmp) (a b : FVal) : Bool :=
  let un := a.isNan || b.isNan
  let lt := a.lt b
  let gt := b.lt a
  let eq := a.eqv b
  match c with
  | .eq => eq | .ne => !un && !eq | .lt => !un && lt | .le => !un && (lt || eq) | .gt => !un && gt
  | .ge => !un && (gt || eq) | .equ => un || eq | .neu => un || !eq | .ltu => un || lt | .leu => un || lt || eq
  | .gtu => un || gt | .geu => un || gt || eq | .num => !un | .nan => un

/-- Flags of a float comparison (R106): NV for a signalling NaN, and for a quiet one under the ordering codes. -/
def fcmpFlags (c : FCmp) (a b : FVal) : Word :=
  if a.sig || b.sig then flNV
  else if (a.isNan || b.isNan) && (match c with | .lt | .le | .gt | .ge => true | _ => false) then flNV
  else 0#32

/-! ### Conversions (R80, R318) -/

/-- The format of a float type of `CVT`. -/
def cvtFmt : CvtTy → Option Fmt
  | .f32 => some fp32 | .f64 => some fp64 | .f16 => some fp16 | .bf16 => some bf16 | .e4m3 => some e4m3
  | .e5m2 => some e5m2 | _ => none

/-- Width and signedness of an integer type of `CVT`. -/
def cvtInt : CvtTy → Nat × Bool
  | .s32 => (32, true) | .u32 => (32, false) | .s64 => (64, true) | .u64 => (64, false) | .s16 => (16, true)
  | .s8 => (8, true) | .u8 => (8, false) | .s4 => (4, true) | _ => (32, false)

/-- Width of a type of `CVT`. -/
def cvtWidth (t : CvtTy) : Nat :=
  match cvtFmt t with | some f => f.sbit + 1 | none => (cvtInt t).1

/-- An integer read from the low bits of a register. -/
def intFrom (w : Nat) (sg : Bool) (x : Nat) : Int :=
  let v := x % 2 ^ w
  if sg && v.testBit (w - 1) then (v : Int) - 2 ^ w else v

/-- An integer written in a type, extended to 32 bits by its signedness (64 for the wide types). -/
def intTo (w : Nat) (sg : Bool) (x : Int) : Dword :=
  let v := intFrom w sg (x % 2 ^ w).toNat
  if w = 64 then BitVec.ofInt 64 v else (BitVec.ofInt 32 v).setWidth 64

/-- One conversion (R80). -/
def convert (dt st : CvtTy) (rnd : Rnd) (x : Nat) : LaneRes :=
  match cvtFmt dt, cvtFmt st with
  | some f, some g =>
    match g.decode (x % 2 ^ (g.sbit + 1)) with
    | .nan sig => floatRes (f.nan, if sig then flNV else 0#32)
    | v => floatRes (f.encode rnd v)
  | some f, none =>
    let (w, sg) := cvtInt st
    floatRes (f.encode rnd (FVal.ofInt (intFrom w sg x)))
  | none, some g =>
    let (w, sg) := cvtInt dt
    let lo : Int := if sg then -(2 ^ (w - 1)) else 0
    let hi : Int := if sg then 2 ^ (w - 1) - 1 else 2 ^ w - 1
    match g.decode (x % 2 ^ (g.sbit + 1)) with
    | .nan _ => { val := 0#64, flags := flNV }
    | .inf n => { val := intTo w sg (if n then lo else hi), flags := flNV }
    | .fin n m e =>
      let (i, inexact) := roundInt rnd n m e
      if i < lo then { val := intTo w sg lo, flags := flNV }
      else if hi < i then { val := intTo w sg hi, flags := flNV }
      else { val := intTo w sg i, flags := if inexact then flNX else 0#32 }
  | none, none =>
    let (w, sg) := cvtInt dt
    let (v, su) := cvtInt st
    { val := intTo w sg (intFrom v su x) }

end Sys2Proof.Machine
end

