-- ==== Sys2Proof/Machine/IntOps.lean ====
section
/-! DEFINITION. Integer, logic, predicate and move instructions (R338 to R350, R355, R357, R365, R366, R370 to R373,
R383, R385, R387). -/

namespace Sys2Proof.Machine

open Sys2Proof

/-! ### Operand builders -/

/-- The destination field. -/
def dOp (o : Opnd) (acc : Accept := genDst) (pair : Bool := false) : OpSpec :=
  { o := o, field := 0, dest := true, pair := pair, acc := acc }
/-- A general source or pair: `lc` and `xi` are no pairs (R59). -/
def srcAcc (pair : Bool) : Accept := if pair then vsc else genSrc
/-- Field A. -/
def aOp (o : Opnd) (perm : Perm := .ident) (pair : Bool := false) (rt : RT := .w32) : OpSpec :=
  { o := o, field := 1, pair := pair, acc := srcAcc pair, perm := perm, rt := rt }
/-- Field B. -/
def bOp (o : Opnd) (perm : Perm := .ident) (pair : Bool := false) (rt : RT := .w32) : OpSpec :=
  { o := o, field := 2, pair := pair, acc := srcAcc pair, perm := perm, rt := rt }
/-- Field C. -/
def cOp (o : Opnd) (pair : Bool := false) (rt : RT := .w32) : OpSpec :=
  { o := o, field := 3, pair := pair, acc := srcAcc pair, rt := rt }
/-- The guard of a short form (R101). -/
def shortGuard (g : BitVec 3) : Guard := { p := g, neg := false }

/-- Long form of a short form with two sources (R107: it acts with the default MOD). -/
def longRrr (f : Rrr) : L2 :=
  { d := .v f.d, a := .v f.a, b := .v f.b, pa := .ident, pb := .ident, g := shortGuard f.g }
/-- Long form of a short form with one source. -/
def longRr (f : Rr) : L2u := { d := .v f.d, a := .v f.a, pa := .ident, g := shortGuard f.g }

/-- Two sources, one result. -/
def semBin (f : L2) (words base mod : Nat) (lat : Option Nat) (pair : Bool) (rt : RT)
    (fn : Dword → Dword → LaneRes) : Sem :=
  { dst := dOp f.d genDst pair, srcs := [aOp f.a f.pa pair rt, bOp f.b f.pb pair rt], guard := f.g, words := words,
    base := base, mod := mod, perms := [f.pa.code, f.pb.code], lat := lat,
    f := fun x l => fn (x.src 0 l) (x.src 1 l) }

/-- One source, one result. -/
def semUn (f : L2u) (words base mod : Nat) (lat : Option Nat) (pair : Bool) (rt : RT) (fn : Dword → LaneRes) : Sem :=
  { dst := dOp f.d genDst pair, srcs := [aOp f.a f.pa pair rt], guard := f.g, words := words,
    base := base, mod := mod, perms := [f.pa.code, 0#8], lat := lat, f := fun x l => fn (x.src 0 l) }

/-- Three sources, one result. -/
def semTri (f : L3) (base mod : Nat) (lat : Option Nat) (pair : Bool) (rt : RT)
    (fn : Dword → Dword → Dword → LaneRes) : Sem :=
  { dst := dOp f.d genDst pair, srcs := [aOp f.a f.pa pair rt, bOp f.b .ident pair rt, cOp f.c pair rt], guard := f.g,
    words := 2, base := base, mod := mod, perms := [f.pa.code], lat := lat,
    f := fun x l => fn (x.src 0 l) (x.src 1 l) (x.src 2 l) }

/-- The type of a pair or word operand. -/
def intRt (t : IntTy) : RT := if wideInt t then .w64 else .w32
/-- MOD with a TYPE code (R104). -/
def tyMod (t : BitVec 4) (low : Nat) : Nat := 16 * t.toNat + low

/-- The integer mould (R339). -/
def semInt (f : L2) (words base lat : Nat) (t : IntTy) (fn : Dword → Dword → Dword) : Sem :=
  semBin f words base (tyMod t.code 0) (some lat) (wideInt t) (intRt t) fun x y => plainRes (fn x y)

/-- A word result from words. -/
def onWords (fn : Word → Word → Word) (x y : Dword) : Dword := (fn x.lo y.lo).setWidth 64

/-- x + y in the type. -/
def addFn (t : IntTy) (x y : Dword) : Dword := if wideInt t then x + y else onWords (· + ·) x y
/-- x − y in the type. -/
def subFn (t : IntTy) (x y : Dword) : Dword := if wideInt t then x - y else onWords (· - ·) x y
/-- The smaller of x and y in the type. -/
def minFn (t : IntTy) (x y : Dword) : Dword := if intVal t y < intVal t x then y else x
/-- The larger of x and y in the type. -/
def maxFn (t : IntTy) (x y : Dword) : Dword := if intVal t x < intVal t y then y else x
/-- Low 32 bits of the product. -/
def mulFn (x y : Dword) : Dword := onWords (· * ·) x y
/-- Bits [63:32] of the exact product. -/
def mulhiFn (t : W32Ty) (x y : Dword) : Dword :=
  match t with
  | .s32 => BitVec.ofInt 64 (x.lo.toInt * y.lo.toInt) >>> 32
  | .u32 => BitVec.ofNat 64 (x.lo.toNat * y.lo.toNat) >>> 32
/-- Absolute value modulo 2^n. -/
def absFn (t : AbsTy) (x : Dword) : Dword :=
  match t with
  | .s32 => (if x.lo.msb then -x.lo else x.lo).setWidth 64
  | .s64 => if x.msb then -x else x

/-- `.s32` or `.u32` among the integer types. -/
def w32Int : W32Ty → IntTy | .s32 => .s32 | .u32 => .u32

/-- R339. -/
def semIadd (f : L2) (n : Nat) (t : IntTy) : Sem := semInt f n 0x03 4 t (addFn t)
/-- R349. -/
def semIsub (f : L2) (n : Nat) (t : IntTy) : Sem := semInt f n 0x04 4 t (subFn t)
/-- R347. -/
def semImul (f : L2) (n : Nat) (t : W32Ty) : Sem := semInt f n 0x07 6 (w32Int t) mulFn
/-- R348. -/
def semImulhi (f : L2) (n : Nat) (t : W32Ty) : Sem := semInt f n 0x08 6 (w32Int t) (mulhiFn t)
/-- R346. -/
def semImin (f : L2) (n : Nat) (t : IntTy) : Sem := semInt f n 0x0C 4 t (minFn t)
/-- R345. -/
def semImax (f : L2) (n : Nat) (t : IntTy) : Sem := semInt f n 0x0D 4 t (maxFn t)
/-- R338. -/
def semIabs (f : L2u) (n : Nat) (t : AbsTy) : Sem :=
  semUn f n 0x0B (tyMod t.code 0) (some 4) (t == .s64) (if t == .s64 then .w64 else .w32) fun x => plainRes (absFn t x)

/-- `IADD`, short. -/
def execIadd (f : Rrr) (s : State) := issue (.iadd f) s fun c => runLane (.iadd f) (semIadd (longRrr f) 1 .s32) c
/-- `IADD`, long. -/
def execIaddLong (f : L2) (ty : IntTy) (s : State) :=
  issue (.iaddLong f ty) s fun c => runLane (.iaddLong f ty) (semIadd f 2 ty) c
/-- `ISUB`, short. -/
def execIsub (f : Rrr) (s : State) := issue (.isub f) s fun c => runLane (.isub f) (semIsub (longRrr f) 1 .s32) c
/-- `ISUB`, long. -/
def execIsubLong (f : L2) (ty : IntTy) (s : State) :=
  issue (.isubLong f ty) s fun c => runLane (.isubLong f ty) (semIsub f 2 ty) c
/-- `IMUL`, short. -/
def execImul (f : Rrr) (s : State) := issue (.imul f) s fun c => runLane (.imul f) (semImul (longRrr f) 1 .s32) c
/-- `IMUL`, long. -/
def execImulLong (f : L2) (ty : W32Ty) (s : State) :=
  issue (.imulLong f ty) s fun c => runLane (.imulLong f ty) (semImul f 2 ty) c
/-- `IMULHI`, short. -/
def execImulhi (f : Rrr) (s : State) := issue (.imulhi f) s fun c => runLane (.imulhi f) (semImulhi (longRrr f) 1 .s32) c
/-- `IMULHI`, long. -/
def execImulhiLong (f : L2) (ty : W32Ty) (s : State) :=
  issue (.imulhiLong f ty) s fun c => runLane (.imulhiLong f ty) (semImulhi f 2 ty) c
/-- `IMIN`, short. -/
def execImin (f : Rrr) (s : State) := issue (.imin f) s fun c => runLane (.imin f) (semImin (longRrr f) 1 .s32) c
/-- `IMIN`, long. -/
def execIminLong (f : L2) (ty : IntTy) (s : State) :=
  issue (.iminLong f ty) s fun c => runLane (.iminLong f ty) (semImin f 2 ty) c
/-- `IMAX`, short. -/
def execImax (f : Rrr) (s : State) := issue (.imax f) s fun c => runLane (.imax f) (semImax (longRrr f) 1 .s32) c
/-- `IMAX`, long. -/
def execImaxLong (f : L2) (ty : IntTy) (s : State) :=
  issue (.imaxLong f ty) s fun c => runLane (.imaxLong f ty) (semImax f 2 ty) c
/-- `IABS`, short. -/
def execIabs (f : Rr) (s : State) := issue (.iabs f) s fun c => runLane (.iabs f) (semIabs (longRr f) 1 .s32) c
/-- `IABS`, long. -/
def execIabsLong (f : L2u) (ty : AbsTy) (s : State) :=
  issue (.iabsLong f ty) s fun c => runLane (.iabsLong f ty) (semIabs f 2 ty) c

/-! ### Carries and multiply-adds -/

/-- Key MOD of a carry form (R39): the type and whether a carry-out is written. -/
def carryKeyMod (cout : BitVec 3) : Nat := 0x20 + (if cout == 7#3 then 0 else 2)

/-- Carry-in of a lane: the third source when one is named. -/
def carryIn (k : Carry) (x : Args) (l : Nat) : Bool := k.cin.isSome && (x.src 2 l).getLsbD 0

/-- R128, R340, R350. -/
def semCarry (d a b : Opnd) (pa : Perm) (k : Carry) (g : Guard) (base : Nat)
    (fn : Word → Word → Bool → LaneRes) : Sem :=
  { dst := dOp d, srcs := [aOp a pa, bOp b], guard := g, words := 2, base := base, mod := carryKeyMod k.cout,
    perms := [pa.code], imm := (if k.cin.isSome then 1 else 0), cin := k.cin, cout := k.cout, lat := some 6,
    f := fun x l => fn (x.src 0 l).lo (x.src 1 l).lo (carryIn k x l) }

/-- `IADDC` (R340). -/
def execIaddc (d a b : Opnd) (pa : Perm) (k : Carry) (g : Guard) (s : State) :=
  issue (.iaddc d a b pa k g) s fun c => runLane (.iaddc d a b pa k g) (semCarry d a b pa k g 0x05 addCarry) c
/-- `ISUBB` (R350). -/
def execIsubb (d a b : Opnd) (pa : Perm) (k : Carry) (g : Guard) (s : State) :=
  issue (.isubb d a b pa k g) s fun c => runLane (.isubb d a b pa k g) (semCarry d a b pa k g 0x06 subBorrow) c

/-- R343. -/
def semImad (f : L3) (t : W32Ty) : Sem :=
  semTri f 0x09 (tyMod t.code 0) (some 6) false .w32 fun x y z => plainRes ((x.lo * y.lo + z.lo).setWidth 64)
/-- `IMAD`. -/
def execImad (f : L3) (ty : W32Ty) (s : State) := issue (.imad f ty) s fun c => runLane (.imad f ty) (semImad f ty) c

/-- R128, R344: the destination and the addend are pairs. -/
def semImadw (f : L3) (cout : BitVec 3) : Sem :=
  { dst := dOp f.d genDst true, srcs := [aOp f.a f.pa, bOp f.b, cOp f.c true .w64], guard := f.g, words := 2, base := 0x0A,
    mod := carryKeyMod cout, perms := [f.pa.code], cout := cout, lat := some 6,
    f := fun x l => mulAddCarry (x.src 0 l).lo (x.src 1 l).lo (x.src 2 l) }
/-- `IMADW`. -/
def execImadw (f : L3) (cout : BitVec 3) (s : State) :=
  issue (.imadw f cout) s fun c => runLane (.imadw f cout) (semImadw f cout) c

/-! ### Shifts -/

/-- R389. -/
def shlFn (x : Word) (k : Nat) : Word := if 32 ≤ k then 0#32 else x <<< k
/-- R390. -/
def shrFn (x : Word) (k : Nat) : Word := if 32 ≤ k then 0#32 else x >>> k
/-- R383. -/
def sarFn (x : Word) (k : Nat) : Word := x.sshiftRight (min k 31)

/-- The short shift form: the amount is the immediate (R383). -/
def semShi (f : Shi) (base : Nat) (fn : Word → Nat → Word) : Sem :=
  { dst := dOp (.v f.d), srcs := [aOp (.v f.a)], guard := Guard.always, words := 1, base := base, mod := 0x10,
    perms := [0#8, 0#8], imm := f.n.toNat, lat := some 4,
    f := fun x l => plainRes ((fn (x.src 0 l).lo f.n.toNat).setWidth 64) }
/-- The long shift form. -/
def semShift (f : L2) (base : Nat) (t : ShiftTy) (fn : Word → Nat → Word) : Sem :=
  semBin f 2 base (tyMod t.code 0) (some 4) false .w32 fun x y => plainRes ((fn x.lo y.lo.toNat).setWidth 64)

/-- `SHL`, short. -/
def execShl (f : Shi) (s : State) := issue (.shl f) s fun c => runLane (.shl f) (semShi f 0x0E shlFn) c
/-- `SHL`, long. -/
def execShlLong (f : L2) (ty : ShiftTy) (s : State) :=
  issue (.shlLong f ty) s fun c => runLane (.shlLong f ty) (semShift f 0x0E ty shlFn) c
/-- `SHR`, short. -/
def execShr (f : Shi) (s : State) := issue (.shr f) s fun c => runLane (.shr f) (semShi f 0x0F shrFn) c
/-- `SHR`, long. -/
def execShrLong (f : L2) (ty : ShiftTy) (s : State) :=
  issue (.shrLong f ty) s fun c => runLane (.shrLong f ty) (semShift f 0x0F ty shrFn) c
/-- `SAR`, short. -/
def execSar (f : Shi) (s : State) := issue (.sar f) s fun c => runLane (.sar f) (semShi f 0x10 sarFn) c
/-- `SAR`, long. -/
def execSarLong (f : L2) (ty : ShiftTy) (s : State) :=
  issue (.sarLong f ty) s fun c => runLane (.sarLong f ty) (semShift f 0x10 ty sarFn) c

/-! ### Logic and bits -/

/-- A bitwise function of two words (R301, R370, R413). -/
def semLogic (f : L2) (n base : Nat) (fn : Word → Word → Word) : Sem :=
  semBin f n base 0 (some 4) false .w32 fun x y => plainRes (onWords fn x y)

/-- `AND`, short (R301). -/
def execAnd (f : Rrr) (s : State) := issue (.and f) s fun c => runLane (.and f) (semLogic (longRrr f) 1 0x11 (· &&& ·)) c
/-- `AND`, long. -/
def execAndLong (f : L2) (s : State) := issue (.andLong f) s fun c => runLane (.andLong f) (semLogic f 2 0x11 (· &&& ·)) c
/-- `OR`, short (R370). -/
def execOr (f : Rrr) (s : State) := issue (.or f) s fun c => runLane (.or f) (semLogic (longRrr f) 1 0x12 (· ||| ·)) c
/-- `OR`, long. -/
def execOrLong (f : L2) (s : State) := issue (.orLong f) s fun c => runLane (.orLong f) (semLogic f 2 0x12 (· ||| ·)) c
/-- `XOR`, short (R413). -/
def execXor (f : Rrr) (s : State) := issue (.xor f) s fun c => runLane (.xor f) (semLogic (longRrr f) 1 0x13 (· ^^^ ·)) c
/-- `XOR`, long. -/
def execXorLong (f : L2) (s : State) := issue (.xorLong f) s fun c => runLane (.xorLong f) (semLogic f 2 0x13 (· ^^^ ·)) c

/-- Bit `i` of a word by a rule. -/
def wordOf (f : Nat → Bool) : Word := (List.range 32).foldl (fun a i => if f i then a ||| (1#32 <<< i) else a) 0#32

/-- A three-input bitwise function (R357). -/
def logic3Fn (fn : BitVec 8) (x y z : Word) : Word :=
  wordOf fun i => fn.getLsbD ((x.getLsbD i).toNat + 2 * (y.getLsbD i).toNat + 4 * (z.getLsbD i).toNat)
/-- R357. -/
def semLogic3 (f : L3) (fn : BitVec 8) : Sem :=
  semTri f 0x14 fn.toNat (some 4) false .w32 fun x y z => plainRes ((logic3Fn fn x.lo y.lo z.lo).setWidth 64)
/-- `LOGIC3`. -/
def execLogic3 (f : L3) (fn : BitVec 8) (s : State) :=
  issue (.logic3 f fn) s fun c => runLane (.logic3 f fn) (semLogic3 f fn) c

/-- Number of 1 bits (R373). -/
def popcFn (x : Word) : Nat := ((List.range 32).filter x.getLsbD).length
/-- Leading zero bits (R315). -/
def clzFn (x : Word) : Nat := if x = 0#32 then 32 else 31 - x.toNat.log2
/-- Reversed bits (R309). -/
def brevFn (x : Word) : Word := wordOf fun i => x.getLsbD (31 - i)

/-- A unary word function. -/
def semWord (f : L2u) (n base : Nat) (fn : Word → Word) : Sem :=
  semUn f n base 0 (some 4) false .w32 fun x => plainRes ((fn x.lo).setWidth 64)

/-- `POPC`, short. -/
def execPopc (f : Rr) (s : State) :=
  issue (.popc f) s fun c => runLane (.popc f) (semWord (longRr f) 1 0x15 fun x => BitVec.ofNat 32 (popcFn x)) c
/-- `POPC`, long. -/
def execPopcLong (f : L2u) (s : State) :=
  issue (.popcLong f) s fun c => runLane (.popcLong f) (semWord f 2 0x15 fun x => BitVec.ofNat 32 (popcFn x)) c
/-- `CLZ`, short. -/
def execClz (f : Rr) (s : State) :=
  issue (.clz f) s fun c => runLane (.clz f) (semWord (longRr f) 1 0x16 fun x => BitVec.ofNat 32 (clzFn x)) c
/-- `CLZ`, long. -/
def execClzLong (f : L2u) (s : State) :=
  issue (.clzLong f) s fun c => runLane (.clzLong f) (semWord f 2 0x16 fun x => BitVec.ofNat 32 (clzFn x)) c
/-- `BREV`, short. -/
def execBrev (f : Rr) (s : State) := issue (.brev f) s fun c => runLane (.brev f) (semWord (longRr f) 1 0x17 brevFn) c
/-- `BREV`, long. -/
def execBrevLong (f : L2u) (s : State) := issue (.brevLong f) s fun c => runLane (.brevLong f) (semWord f 2 0x17 brevFn) c

/-- Bit-field extract (R305). -/
def bfxFn (t : W32Ty) (x : Word) (pos len : Nat) : Word :=
  let p := min (pos % 256) 32
  let n := min (len % 256) (32 - p)
  let v := (x.toNat / 2 ^ p) % 2 ^ n
  if t == .s32 && decide (0 < n) && v.testBit (n - 1) then BitVec.ofInt 32 ((v : Int) - 2 ^ n) else BitVec.ofNat 32 v
/-- Bit-field insert (R304). -/
def bfiFn (x base ctl : Word) : Word :=
  let p := min (bitsOf ctl.toNat 7 0) 32
  let n := min (bitsOf ctl.toNat 15 8) (32 - p)
  let m : Word := BitVec.ofNat 32 (2 ^ n - 1)
  (base &&& ~~~ (m <<< p)) ||| ((x &&& m) <<< p)

/-- R305. -/
def semBfx (f : L3) (t : W32Ty) : Sem :=
  semTri f 0x18 (tyMod t.code 0) (some 4) false .w32 fun x y z =>
    plainRes ((bfxFn t x.lo y.lo.toNat z.lo.toNat).setWidth 64)
/-- `BFX`. -/
def execBfx (f : L3) (ty : W32Ty) (s : State) := issue (.bfx f ty) s fun c => runLane (.bfx f ty) (semBfx f ty) c
/-- R304. -/
def semBfi (f : L3) : Sem :=
  semTri f 0x19 0 (some 4) false .w32 fun x y z => plainRes ((bfiFn x.lo y.lo z.lo).setWidth 64)
/-- `BFI`. -/
def execBfi (f : L3) (s : State) := issue (.bfi f) s fun c => runLane (.bfi f) (semBfi f) c

/-! ### Comparison, selection, addresses -/

/-- Destination of a comparison: a predicate or a `v` register (R341). -/
def cmpDst : Accept := { v := true, p := true }

/-- R341. -/
def semIcmp (f : L2) (t : IntTy) (k : ICmp) : Sem :=
  { semBin f 2 0x1A (tyMod t.code k.code.toNat) (some 4) (wideInt t) (intRt t) fun x y =>
      bitRes (icmpHolds k (intVal t x) (intVal t y)) with dst := dOp f.d cmpDst false }
/-- `ICMP`. -/
def execIcmp (f : L2) (ty : IntTy) (cmp : ICmp) (s : State) :=
  issue (.icmp f ty cmp) s fun c => runLane (.icmp f ty cmp) (semIcmp f ty cmp) c

/-- R385. -/
def semSel (f : L3) (t : BitTy) : Sem :=
  let w := t == .u64
  { dst := dOp f.d onlyV w, srcs := [aOp f.a f.pa w (if w then .w64 else .w32), bOp f.b .ident w (if w then .w64 else .w32),
      { o := f.c, field := 3, acc := onlyP }], guard := f.g, words := 2, base := 0x1B, mod := tyMod t.code 0,
    perms := [f.pa.code], lat := some 4,
    f := fun x l => plainRes (if (x.src 2 l).getLsbD 0 then x.src 0 l else x.src 1 l) }
/-- `SEL`. -/
def execSel (f : L3) (ty : BitTy) (s : State) := issue (.sel f ty) s fun c => runLane (.sel f ty) (semSel f ty) c

/-- R355. -/
def leaFn (t : LeaTy) (x : Dword) (y : Word) (k : Nat) : Dword :=
  match t with
  | .u32 => (x.lo + (y <<< (k % 64))).setWidth 64
  | .u64 => x + (y.setWidth 64 <<< (k % 64))
  | .s64 => x + (y.signExtend 64 <<< (k % 64))
/-- R355. -/
def semLea (f : L3) (t : LeaTy) : Sem :=
  let w := t != .u32
  { dst := dOp f.d genDst w, srcs := [aOp f.a f.pa w (if w then .w64 else .w32), bOp f.b, cOp f.c], guard := f.g,
    words := 2, base := 0x1C, mod := tyMod t.code 0, perms := [f.pa.code], lat := some 4,
    f := fun x l => plainRes (leaFn t (x.src 0 l) (x.src 1 l).lo (x.src 2 l).lo.toNat) }
/-- `LEA`. -/
def execLea (f : L3) (ty : LeaTy) (s : State) := issue (.lea f ty) s fun c => runLane (.lea f ty) (semLea f ty) c

/-! ### Predicates -/

/-- R371. -/
def semPlop (d a b : Opnd) (lut : BitVec 4) (g : Guard) : Sem :=
  { dst := dOp d onlyP, srcs := [{ o := a, field := 1, acc := onlyP }, { o := b, field := 2, acc := onlyP }], guard := g,
    words := 2, base := 0x1D, mod := lut.toNat, perms := [0#8, 0#8], lat := some 4,
    f := fun x l => bitRes (lut.getLsbD (2 * ((x.src 0 l).getLsbD 0).toNat + ((x.src 1 l).getLsbD 0).toNat)) }
/-- `PLOP`. -/
def execPlop (d a b : Opnd) (lut : BitVec 4) (g : Guard) (s : State) :=
  issue (.plop d a b lut g) s fun c => runLane (.plop d a b lut g) (semPlop d a b lut g) c

/-- The word or pair of a lane set (R372). -/
def maskVal (m : Mask) (x : Args) (k : Nat) : Dword := Mask.ofFn x.w fun l => m.has l && (x.src k l).getLsbD 0

/-- R372: operands and effect follow the mode and, for masks, the warp width. -/
def semPmov (mode : PmovMode) (f : L2u) (w : Nat) : Sem :=
  let wide := w == 64
  let dst := match mode with | .tomask => dOp f.d onlyV wide | _ => dOp f.d onlyP
  let src : OpSpec := match mode with
    | .p | .tomask => { o := f.a, field := 1, acc := onlyP, perm := f.pa }
    | .nz => aOp f.a f.pa
    | .frommask => aOp f.a f.pa wide (if wide then .w64 else .w32)
  { dst := dst, srcs := [src], guard := f.g, words := 2, base := 0x1E, mod := mode.code.toNat, perms := [f.pa.code, 0#8],
    lat := some 4,
    f := fun x l => match mode with
      | .p => bitRes ((x.src 0 l).getLsbD 0)
      | .tomask => plainRes (maskVal x.act x 0)
      | .nz => bitRes (x.src 0 l != 0#64)
      | .frommask => bitRes ((x.src 0 l).getLsbD l) }
/-- `PMOV`. -/
def execPmov (mode : PmovMode) (f : L2u) (s : State) :=
  issue (.pmov mode f) s fun c => runLane (.pmov mode f) (semPmov mode f c.width) c

/-! ### Moves -/

/-- R365. -/
def semMov (f : L2u) (n : Nat) (t : BitTy) : Sem :=
  semUn f n 0x01 (tyMod t.code 0) (some 4) (t == .u64) (if t == .u64 then .w64 else .w32) plainRes

/-- A `MOV` of R43: identity, registers of one class, and R42 holds. DEDUCED: log 33. -/
def Cx.sharesMov (c : Cx) (m : Sem) (pa : Perm) : Option (List Nat) :=
  match c.resolve m.dst, m.srcs.map c.resolve with
  | .reg cd _ _ _, [.reg ca na pair _] =>
    if cd == ca && pa == .ident && c.looksUp m then
      some (regPtr c.wp c.pt ca na :: (if pair then [regPtr c.wp c.pt ca (na + 1)] else []))
    else none
  | _, _ => none

/-- `MOV` (R43, R365): it shares the source's entry, or forms a key like any other. -/
def runMov (i : Instr) (m : Sem) (pa : Perm) (c : Cx) : Except Stop State := do
  c.checkOps m.ops
  c.checkReads m.srcs m.guard
  if c.acting m.guard == 0#64 then .ok (c.advance (c.endWaits c.s) m.words) else
  match c.sharesMov m pa with
  | some ids =>
    let s := (c.endWaits c.s).pointAll c.b c.w c.pid (fullMask c.width) (c.dests m) ids
    .ok (c.advance (s.sweep c.core c.actor) m.words)
  | none => runLane i m c

/-- `MOV`, short. -/
def execMov (f : Rr) (s : State) := issue (.mov f) s fun c => runMov (.mov f) (semMov (longRr f) 1 .b32) .ident c
/-- `MOV`, long. -/
def execMovLong (f : L2u) (ty : BitTy) (s : State) :=
  issue (.movLong f ty) s fun c => runMov (.movLong f ty) (semMov f 2 ty) f.pa c

/-- R366. -/
def semMovi (d : Opnd) (imm : Word) : Sem :=
  { dst := dOp d, srcs := [], guard := Guard.always, words := 2, base := 0x02, imm := imm.toNat, lat := some 4,
    f := fun _ _ => plainRes (imm.setWidth 64) }
/-- `MOVI`. -/
def execMovi (d : Opnd) (imm : Word) (s : State) := issue (.movi d imm) s fun c => runLane (.movi d imm) (semMovi d imm) c

/-- Write `xi` (R63). -/
def Cx.setXi (c : Cx) (x : Word) : State := (c.endWaits c.s).modWarp c.b c.w fun w => { w with xi := x }

/-- `SETXI #imm` (R63, R387). -/
def execSetxi (imm : BitVec 10) (s : State) :=
  issue (.setxi imm) s fun c => .ok (c.advance (c.setXi (imm.setWidth 32)) 1)
/-- `SETXI sN, #imm`: the read is field 1 (R63, R97). -/
def execSetxiS (sreg : BitVec 5) (imm : BitVec 10) (s : State) :=
  issue (.setxiS sreg imm) s fun c =>
    match c.readable 1 .s sreg.toNat with
    | .error e => .error e
    | .ok _ => .ok (c.advance (c.setXi (c.cst.regLane c.wp c.pt .s sreg.toNat 0 + imm.setWidth 32)) 1)

end Sys2Proof.Machine
end

