-- ==== Sys2Proof/Machine/FloatOps.lean ====
section
/-! DEFINITION. Float instructions (R318, R320, R322, R325 to R327, R329 to R334, R337). -/

namespace Sys2Proof.Machine

open Sys2Proof

/-- The default rounding and flush of a short form (R107). -/
def rneMod : FMod := { rnd := .rne, ftz := false }
/-- The low MOD bits of an arithmetic form (R104). -/
def fmodBits (m : FMod) (x : Bool) : Nat := 4 * m.rnd.code.toNat + (if m.ftz then 2 else 0) + (if x then 1 else 0)
/-- Effective MOD byte of `.f32` (R39). -/
def f32Mod (m : FMod) : Nat := 0x90 + fmodBits m false

/-- The float mould of two operands (R325). -/
def semF2 (f : L2) (n base : Nat) (m : FMod) (fn : FMod → Nat → Nat → Nat × Word) : Sem :=
  { semBin f n base (f32Mod m) (some 5) false .f32 (fun x y => floatRes (fn m x.toNat y.toNat)) with canFlag := true }

/-- R325. -/
def semFadd (f : L2) (n : Nat) (m : FMod) : Sem := semF2 f n 0x1F m fp32.add
/-- R334. -/
def semFsub (f : L2) (n : Nat) (m : FMod) : Sem := semF2 f n 0x20 m fp32.sub
/-- R332. -/
def semFmul (f : L2) (n : Nat) (m : FMod) : Sem := semF2 f n 0x21 m fp32.mul
/-- R331. -/
def semFmin (f : L2) (n : Nat) (ftz : Bool) : Sem :=
  semF2 f n 0x23 { rnd := .rne, ftz := ftz } fun m x y => fp32.minMax false m.ftz x y
/-- R330. -/
def semFmax (f : L2) (n : Nat) (ftz : Bool) : Sem :=
  semF2 f n 0x24 { rnd := .rne, ftz := ftz } fun m x y => fp32.minMax true m.ftz x y

/-- `FADD`, short. -/
def execFadd (f : Rrr) (s : State) := issue (.fadd f) s fun c => runLane (.fadd f) (semFadd (longRrr f) 1 rneMod) c
/-- `FADD`, long. -/
def execFaddLong (f : L2) (m : FMod) (s : State) :=
  issue (.faddLong f m) s fun c => runLane (.faddLong f m) (semFadd f 2 m) c
/-- `FSUB`, short. -/
def execFsub (f : Rrr) (s : State) := issue (.fsub f) s fun c => runLane (.fsub f) (semFsub (longRrr f) 1 rneMod) c
/-- `FSUB`, long. -/
def execFsubLong (f : L2) (m : FMod) (s : State) :=
  issue (.fsubLong f m) s fun c => runLane (.fsubLong f m) (semFsub f 2 m) c
/-- `FMUL`, short. -/
def execFmul (f : Rrr) (s : State) := issue (.fmul f) s fun c => runLane (.fmul f) (semFmul (longRrr f) 1 rneMod) c
/-- `FMUL`, long. -/
def execFmulLong (f : L2) (m : FMod) (s : State) :=
  issue (.fmulLong f m) s fun c => runLane (.fmulLong f m) (semFmul f 2 m) c
/-- `FMIN`, short. -/
def execFmin (f : Rrr) (s : State) := issue (.fmin f) s fun c => runLane (.fmin f) (semFmin (longRrr f) 1 false) c
/-- `FMIN`, long. -/
def execFminLong (f : L2) (ftz : Bool) (s : State) :=
  issue (.fminLong f ftz) s fun c => runLane (.fminLong f ftz) (semFmin f 2 ftz) c
/-- `FMAX`, short. -/
def execFmax (f : Rrr) (s : State) := issue (.fmax f) s fun c => runLane (.fmax f) (semFmax (longRrr f) 1 false) c
/-- `FMAX`, long. -/
def execFmaxLong (f : L2) (ftz : Bool) (s : State) :=
  issue (.fmaxLong f ftz) s fun c => runLane (.fmaxLong f ftz) (semFmax f 2 ftz) c

/-- R329. -/
def semFfma (f : L3) (m : FMod) : Sem :=
  { semTri f 0x22 (f32Mod m) (some 5) false .f32 (fun x y z => floatRes (fp32.fma m x.toNat y.toNat z.toNat)) with
    canFlag := true }
/-- `FFMA`. -/
def execFfma (f : L3) (m : FMod) (s : State) := issue (.ffma f m) s fun c => runLane (.ffma f m) (semFfma f m) c

/-- Effective MOD byte of `.f64`. -/
def f64Mod (m : FMod) : Nat := 0xA0 + fmodBits m false
/-- R320. -/
def semDadd (f : L2) (m : FMod) : Sem :=
  { semBin f 2 0x28 (f64Mod m) (some 8) true .f64 (fun x y => floatRes (fp64.add m x.toNat y.toNat)) with
    canFlag := true }
/-- `DADD`. -/
def execDadd (f : L2) (m : FMod) (s : State) := issue (.dadd f m) s fun c => runLane (.dadd f m) (semDadd f m) c
/-- R322. -/
def semDfma (f : L3) (m : FMod) : Sem :=
  { semTri f 0x29 (f64Mod m) (some 8) true .f64 (fun x y z => floatRes (fp64.fma m x.toNat y.toNat z.toNat)) with
    canFlag := true }
/-- `DFMA`. -/
def execDfma (f : L3) (m : FMod) (s : State) := issue (.dfma f m) s fun c => runLane (.dfma f m) (semDfma f m) c

/-- Format of a packed type. -/
def halfFmt : HalfTy → Fmt | .f16 => fp16 | .bf16 => bf16
/-- How a packed type reads a constant. -/
def halfRt : HalfTy → RT | .f16 => .f16 | .bf16 => .bf16
/-- Element `i` of a word (R73). -/
def halfOf (x : Dword) (i : Nat) : Nat := bitsOf x.toNat (16 * i + 15) (16 * i)
/-- Two fused multiply-adds (R337). -/
def halfmadFn (t : HalfTy) (m : FMod) (x y z : Dword) : LaneRes :=
  let r := fun i => (halfFmt t).fma m (halfOf x i) (halfOf y i) (halfOf z i)
  { val := BitVec.ofNat 64 ((r 0).1 + 65536 * (r 1).1), flags := (r 0).2 ||| (r 1).2 }
/-- R337. -/
def semHalfmad (f : L3) (t : HalfTy) (m : FMod) : Sem :=
  { semTri f 0x2A (16 * t.code.toNat + fmodBits m false) (some 5) false (halfRt t) (halfmadFn t m) with canFlag := true }
/-- `HALFMAD`. -/
def execHalfmad (f : L3) (ty : HalfTy) (m : FMod) (s : State) :=
  issue (.halfmad f ty m) s fun c => runLane (.halfmad f ty m) (semHalfmad f ty m) c

/-- Format of a float type. -/
def floatFmt : FloatTy → Fmt | .f32 => fp32 | .f64 => fp64
/-- How a float type reads a constant. -/
def floatRt : FloatTy → RT | .f32 => .f32 | .f64 => .f64

/-- Number of a value's class (R326). -/
def classOf (f : Fmt) (x : Nat) : Nat :=
  match f.decode x with
  | .nan sig => if sig then 0 else 1
  | .inf n => if n then 2 else 9
  | .fin n m _ => if m = 0 then (if n then 5 else 6) else if f.subnormal x then (if n then 4 else 7)
                  else (if n then 3 else 8)
/-- R326: the destination is one word. -/
def semFclass (f : L2u) (t : FloatTy) : Sem :=
  { semUn f 2 0x26 (16 * t.code.toNat) (some 5) (t == .f64) (floatRt t)
      (fun x => plainRes (BitVec.ofNat 64 (2 ^ classOf (floatFmt t) x.toNat))) with dst := dOp f.d }
/-- `FCLASS`. -/
def execFclass (f : L2u) (ty : FloatTy) (s : State) :=
  issue (.fclass f ty) s fun c => runLane (.fclass f ty) (semFclass f ty) c

/-- R327. -/
def fcmpFn (t : FloatTy) (k : FCmp) (x y : Dword) : LaneRes :=
  let a := (floatFmt t).decode x.toNat
  let b := (floatFmt t).decode y.toNat
  { bitRes (fcmpHolds k a b) with flags := fcmpFlags k a b }
/-- R327. -/
def semFcmp (f : L2) (t : FloatTy) (k : FCmp) : Sem :=
  { semBin f 2 0x25 (16 * t.code.toNat + k.code.toNat) (some 5) (t == .f64) (floatRt t) (fcmpFn t k) with
    dst := dOp f.d cmpDst false, canFlag := true }
/-- `FCMP`. -/
def execFcmp (f : L2) (ty : FloatTy) (cmp : FCmp) (s : State) :=
  issue (.fcmp f ty cmp) s fun c => runLane (.fcmp f ty cmp) (semFcmp f ty cmp) c

/-- Rounding to an integral value (R333). -/
def frndFn (t : FloatTy) (m : FMod) (exact : Bool) (x : Dword) : LaneRes :=
  let f := floatFmt t
  let y := f.flush m.ftz x.toNat
  match f.decode y with
  | .nan sig => floatRes (f.nan, if sig then flNV else 0#32)
  | .inf _ => floatRes (y, 0#32)
  | .fin n man e =>
    let (i, inexact) := roundInt m.rnd n man e
    if !inexact then floatRes (y, 0#32)
    else floatRes ((f.encode .rne (.fin n i.natAbs 0)).1, if exact then flNX else 0#32)
/-- R333. -/
def semFrnd (f : L2u) (t : FloatTy) (m : FMod) (exact : Bool) : Sem :=
  { semUn f 2 0x27 (16 * t.code.toNat + fmodBits m exact) (some 5) (t == .f64) (floatRt t) (frndFn t m exact) with
    canFlag := true }
/-- `FRND`. -/
def execFrnd (f : L2u) (ty : FloatTy) (m : FMod) (exact : Bool) (s : State) :=
  issue (.frnd f ty m exact) s fun c => runLane (.frnd f ty m exact) (semFrnd f ty m exact) c

/-- How a `CVT` type reads a constant (R75): a packed constant's low element serves a narrow float. -/
def cvtRt : CvtTy → RT
  | .f32 => .f32 | .f64 => .f64 | .f16 => .f16 | .bf16 => .bf16 | .e4m3 => .e4m3 | .e5m2 => .e5m2
  | .s64 | .u64 => .w64 | _ => .w32
/-- R318: the rounding mode stands in the immediate bits of the key. -/
def semCvt (f : L2u) (rnd : Rnd) (dt st : CvtTy) : Sem :=
  { dst := dOp f.d genDst (cvtWidth dt == 64), srcs := [aOp f.a f.pa (cvtWidth st == 64) (cvtRt st)], guard := f.g,
    words := 2, base := 0x2B, mod := 16 * dt.code.toNat + st.code.toNat, perms := [f.pa.code, 0#8],
    imm := rnd.code.toNat, lat := some 5, canFlag := (cvtFmt dt).isSome || (cvtFmt st).isSome,
    f := fun x l => convert dt st rnd (x.src 0 l).toNat }
/-- `CVT`. -/
def execCvt (f : L2u) (rnd : Rnd) (dt st : CvtTy) (s : State) :=
  issue (.cvt f rnd dt st) s fun c => runLane (.cvt f rnd dt st) (semCvt f rnd dt st) c

end Sys2Proof.Machine
end

