-- ==== Sys2Proof/Machine/CrossOps.lean ====
section
/-! DEFINITION. Cross-lane instructions (R360, R361, R375, R378, R384, R388, R400). -/

namespace Sys2Proof.Machine

open Sys2Proof

/-- How a `.b32` or `.u64` operand is read. -/
def bitRt : BitTy → RT | .b32 => .w32 | .u64 => .w64
/-- Is it a pair? -/
def bitWide (t : BitTy) : Bool := t == .u64

/-! ### SHFL, QSWZ, MATCH, VOTE -/

/-- R388. -/
def semShfl (f : L2) (t : BitTy) (isXor : Bool) : Sem :=
  { dst := dOp f.d onlyV (bitWide t), srcs := [aOp f.a f.pa (bitWide t) (bitRt t), bOp f.b f.pb], guard := f.g, words := 2,
    base := 0x37, mod := tyMod t.code (if isXor then 1 else 0), perms := [f.pa.code, f.pb.code], lat := some 6,
    f := fun x l =>
      let b := (x.src 1 l).lo.toNat
      let m := if isXor then l ^^^ b else b
      plainRes (x.src 0 (if m < x.w then m else l)) }
/-- `SHFL`. -/
def execShfl (f : L2) (ty : BitTy) (isXor : Bool) (s : State) :=
  issue (.shfl f ty isXor) s fun c => runLane (.shfl f ty isXor) (semShfl f ty isXor) c

/-- R375. -/
def semQswz (f : L2) (t : BitTy) : Sem :=
  { dst := dOp f.d onlyV (bitWide t), srcs := [aOp f.a f.pa (bitWide t) (bitRt t), bOp f.b f.pb], guard := f.g, words := 2,
    base := 0x38, mod := tyMod t.code 0, perms := [f.pa.code, f.pb.code], lat := some 6,
    f := fun x l => plainRes (x.src 0 (4 * (l / 4) + (x.src 1 l).toNat % 4)) }
/-- `QSWZ`. -/
def execQswz (f : L2) (ty : BitTy) (s : State) := issue (.qswz f ty) s fun c => runLane (.qswz f ty) (semQswz f ty) c

/-- R361: `w` is the warp width, which decides whether the destination is a pair. -/
def semMatch (f : L2u) (t : BitTy) (whole : Bool) (w : Nat) : Sem :=
  { dst := dOp f.d onlyV (w == 64), srcs := [aOp f.a f.pa (bitWide t) (bitRt t)], guard := f.g, words := 2, base := 0x3C,
    mod := tyMod t.code (if whole then 1 else 0), perms := [f.pa.code, 0#8], lat := some 6,
    f := fun x l =>
      let same := Mask.ofFn x.w fun m => x.act.has m && x.src 0 m == x.src 0 l
      plainRes (if !whole then same else if same == x.act then x.act else 0#64) }
/-- `MATCH`. -/
def execMatchLanes (f : L2u) (ty : BitTy) (whole : Bool) (s : State) :=
  issue (.matchLanes f ty whole) s fun c => runLane (.matchLanes f ty whole) (semMatch f ty whole c.width) c

/-- R400: helper lanes do not vote. -/
def semVote (mode : VoteMode) (d a : Opnd) (g : Guard) (w : Nat) : Sem :=
  let mask := mode == .mask
  { dst := dOp d (if mask then onlyV else cmpDst) (mask && w == 64), srcs := [{ o := a, field := 1, acc := onlyP }], guard := g,
    words := 2, base := 0x39, mod := mode.code.toNat, perms := [0#8, 0#8], lat := some 6, usesHelp := true,
    f := fun x _ =>
      let v := x.act &&& ~~~ x.help
      let yes := Mask.ofFn x.w fun m => v.has m && (x.src 0 m).getLsbD 0
      match mode with
      | .some => bitRes (yes != 0#64)
      | .every => bitRes (yes == v)
      | .agree => bitRes (yes == 0#64 || yes == v)
      | .mask => plainRes yes }
/-- `VOTE`. -/
def execVote (mode : VoteMode) (d a : Opnd) (g : Guard) (s : State) :=
  issue (.vote mode d a g) s fun c => runLane (.vote mode d a g) (semVote mode d a g c.width) c

/-! ### REDUX and SCAN -/

/-- A node of a tree: a value or absent, with the flags raised below it. -/
abbrev Node := Option Dword × Word

/-- The standalone operation of a node (R90, R378). -/
def combOp (m : ReduxMod) (x y : Dword) : Dword × Word :=
  let fl := fun (r : Nat × Word) => (BitVec.ofNat 64 r.1, r.2)
  match m.op, m.ty with
  | .add, .f32 => fl (fp32.add { rnd := m.rnd, ftz := m.ftz } x.toNat y.toNat)
  | .min, .f32 => fl (fp32.minMax false m.ftz x.toNat y.toNat)
  | .max, .f32 => fl (fp32.minMax true m.ftz x.toNat y.toNat)
  | .add, _ => (onWords (· + ·) x y, 0#32)
  | .min, .s32 => (minFn .s32 x y, 0#32)
  | .min, _ => (minFn .u32 x y, 0#32)
  | .max, .s32 => (maxFn .s32 x y, 0#32)
  | .max, _ => (maxFn .u32 x y, 0#32)
  | .and, _ => (x &&& y, 0#32)
  | .or, _ => (x ||| y, 0#32)
  | .xor, _ => (x ^^^ y, 0#32)

/-- Comb of two nodes: an absent side adds nothing. -/
def comb (m : ReduxMod) (u v : Node) : Node :=
  match u.1, v.1 with
  | some x, some y => let r := combOp m x y; (some r.1, u.2 ||| v.2 ||| r.2)
  | some x, none => (some x, u.2 ||| v.2)
  | none, y => (y, u.2 ||| v.2)

/-- Leaves: the acting lanes' values. -/
def treeLeaves (x : Args) : List Node :=
  (List.range x.w).map fun m => (if x.act.has m then some (x.src 0 m) else none, 0#32)

/-- One level of the `REDUX` tree: neighbours pairwise. -/
def reduxLevel (m : ReduxMod) : List Node → List Node
  | u :: v :: rest => comb m u v :: reduxLevel m rest
  | xs => xs

/-- The `REDUX` tree of 2^n leaves. -/
def reduxTree (m : ReduxMod) : Nat → List Node → Node
  | 0, xs => xs.headD (none, 0#32)
  | n + 1, xs => reduxTree m n (reduxLevel m xs)

/-- Type code of `REDUX` and `SCAN` in the key's MOD. -/
def reduxKeyMod (m : ReduxMod) (x : Bool) : Nat := 16 * m.ty.code.toNat + fmodBits { rnd := m.rnd, ftz := m.ftz } x
/-- How the operand is read. -/
def reduxRt (m : ReduxMod) : RT := if m.ty == .f32 then .f32 else .w32

/-- R378. The operation code stands in the key's immediate. -/
def semRedux (f : L2u) (m : ReduxMod) : Sem :=
  { dst := dOp f.d onlyV, srcs := [aOp f.a f.pa false (reduxRt m)], guard := f.g, words := 2, base := 0x3A,
    mod := reduxKeyMod m false, perms := [f.pa.code, 0#8], imm := m.op.num, lat := some 12, canFlag := m.ty == .f32,
    f := fun x _ =>
      let r := reduxTree m 6 (treeLeaves x)
      { val := r.1.getD 0#64, flags := r.2 } }
/-- `REDUX`. -/
def execRedux (f : L2u) (m : ReduxMod) (s : State) := issue (.redux f m) s fun c => runLane (.redux f m) (semRedux f m) c

/-- One level of the `SCAN` tree: lane m from lanes m − s and m of the level before. -/
def scanLevel (m : ReduxMod) (s : Nat) (xs : List Node) : List Node :=
  xs.zipIdx.map fun x => if x.2 < s then x.1 else comb m (xs.getD (x.2 - s) (none, 0#32)) x.1

/-- The levels of `SCAN`: the nodes, and the flags of every Comb. -/
def scanTree (m : ReduxMod) : Nat → Nat → List Node → Word → List Node × Word
  | 0, _, xs, fl => (xs, fl)
  | n + 1, s, xs, fl =>
    if xs.length ≤ s then (xs, fl) else
    let ys := scanLevel m s xs
    scanTree m n (2 * s) ys (ys.foldl (fun a y => a ||| y.2) fl)

/-- The identity of an operation (R384). -/
def identityOf (m : ReduxMod) : Dword :=
  match m.op, m.ty with
  | .min, .s32 => 0x7FFFFFFF#64 | .min, .f32 => 0x7F800000#64 | .min, _ => 0xFFFFFFFF#64
  | .max, .s32 => 0x80000000#64 | .max, .f32 => 0xFF800000#64
  | .and, _ => 0xFFFFFFFF#64
  | _, _ => 0#64

/-- R384. A lane's own result is its prefix, with the flags of the Combs below it (R209). -/
def semScan (f : L2u) (m : ReduxMod) (excl : Bool) : Sem :=
  { dst := dOp f.d onlyV, srcs := [aOp f.a f.pa false (reduxRt m)], guard := f.g, words := 2, base := 0x3B,
    mod := reduxKeyMod m excl, perms := [f.pa.code, 0#8], imm := m.op.num, lat := some 12, canFlag := m.ty == .f32,
    f := fun x l =>
      let (ys, fl) := scanTree m 6 1 (treeLeaves x) 0#32
      let at_ := fun k => (ys.getD k (none, 0#32)).1
      { val := if excl then (if l = 0 then identityOf m else (at_ (l - 1)).getD (identityOf m)) else (at_ l).getD 0#64,
        flags := fl, own := some (ys.getD (if excl then l - 1 else l) (none, 0#32)).2 } }
/-- `SCAN`. -/
def execScan (f : L2u) (m : ReduxMod) (excl : Bool) (s : State) :=
  issue (.scan f m excl) s fun c => runLane (.scan f m excl) (semScan f m excl) c

end Sys2Proof.Machine
end

