-- ==== Sys2Proof/Machine/Access.lean ====
section
/-! DEFINITION. Memory accesses: the checks of an address (R152 to R156), the range scoreboard (R169), what a block
reads (R202, R242, R260), what a write does (R48, R194, R203, R226, R259), preserved program order (R177, R179), and
the performance of an access. -/

namespace Sys2Proof.Machine

open Sys2Proof

/-! ### Addresses -/

/-- What an access of one lane reaches. `space` is the space of transactions: 0 shared, 1 scratchpad, 3 stack, whose place is the
shared memory of no block. -/
structure Target where
  space : Nat
  place : Place
  addr : Nat
  ord : POrd
  /-- Element of an SX page: address of its block, position, format (R84). -/
  sx : Option (Nat × Nat × Nat)
  leaf : Option Leaf
  /-- It is named through `.span`. -/
  far : Bool := false
  deriving DecidableEq, Repr, Inhabited

/-- Outcome of a lane's address checks. -/
inductive LaneAddr where
  | ok (t : Target)
  | bad (cause info : Nat)
  | noMap
  deriving DecidableEq, Repr, Inhabited

/-- What the checks are for. -/
inductive Use where
  | load (ty : MType)
  | store (ty : MType)
  | atom
  | wait
  | wake
  deriving DecidableEq, Repr, Inhabited

/-- Bytes of an element type (R104). -/
def mtypeSize : MType → Nat
  | .b32 | .f32 => 4 | .bf16 | .s16 => 2 | .u8 | .s8 => 1 | .u64 => 8

/-- Does an element type name an element of an SX page (R85)? -/
def mtypeSx : MType → Bool
  | .b32 | .f32 | .bf16 => true
  | _ => false

/-- A glazed pair whose shadow window holds some byte of a range (R170). -/
def Block.inShadow (b : Block) (a n : Nat) : Bool :=
  b.glaze.any fun g => decide (g.2.base + g.2.len < a + n) && decide (a < g.2.base + 2 * g.2.len)

/-- First block of a span, and how many the span has (R32, R152). -/
def Launch.spanOf (l : Launch) (num : Nat) : Nat × Nat :=
  let n := max l.span 1
  let first := num / n * n
  (first, min n (l.blocks - first))

/-- A block of a launch by its block ID. -/
def State.blockNum (s : State) (launch num : Nat) : Option Block :=
  s.blocks.find? fun b => b.launch == launch && b.num == num

/-- A byte range of shared memory as a target, with the glaze check; `far` through `.span`. -/
def shTarget (b : Block) (a size : Nat) (far : Bool := false) : LaneAddr :=
  if b.inShadow a size then .bad tcPROTECT 8
  else .ok { space := 0, place := .shared b.id, addr := a, ord := .rc, sx := none, leaf := none, far := far }

/-- Permission and format checks of a translated page (R47, R85, R154, R156). DEDUCED: log 30. -/
def pageCheck (l : Leaf) (use : Use) (va : Nat) : Option (Nat × Nat) :=
  let a := l.attr
  if a.hbm then some (tcPROTECT, 1) else
  let rd := match use with | .load _ | .atom | .wait | .wake => !a.rd | .store _ => false
  let wr := match use with | .store _ | .atom => !a.wr | _ => false
  if rd then some (tcPROTECT, 2)
  else if wr then some (tcPROTECT, 3)
  else
    let sx := a.fmt != 0
    match use with
    | .load ty => if sx && !(mtypeSx ty && va % 4 == 0) then some (tcMISALIGN, 0) else none
    | .store ty => if a.lro then some (tcLINEAGEWRITE, 0)
        else if sx && !(mtypeSx ty && va % 4 == 0) then some (tcMISALIGN, 0) else none
    | .atom => if sx then some (tcFMTPARTIAL, 0) else if a.lro then some (tcLINEAGEWRITE, 0) else none
    | .wait => if sx && va % 4 != 0 then some (tcMISALIGN, 0) else none
    | .wake => none

/-- The target of a scratchpad address on a leaf. -/
def spTarget (l : Leaf) (va : Nat) : Target :=
  if l.attr.fmt = 0 then { space := 1, place := .scratch, addr := l.pa va, ord := l.attr.ord, sx := none, leaf := some l }
  else
    let (blk, pos) := l.element va
    { space := 1, place := .scratch, addr := blk, ord := l.attr.ord, sx := some (blk, pos, l.attr.fmt), leaf := some l }

/-- Checks of one lane's address, in order (R352, R394). DEDUCED: log 30. -/
def Cx.laneAddr (c : Cx) (space : Space) (use : Use) (size x : Nat) : LaneAddr :=
  if x % size != 0 then .bad tcMISALIGN 0 else
  match space with
  | .sh => if c.l.shBytes < x + size then .bad tcPROTECT 6 else shTarget c.blk x size
  | .span =>
    let a := c.l.shBytes
    let (first, n) := c.l.spanOf c.blk.num
    if n * a < x + size then .bad tcPROTECT 7 else
    match c.s.blockNum c.blk.launch (first + x / a) with
    | some b => shTarget b (x % a) size true
    | none => .bad tcPROTECT 7
  | .stk => if c.l.stackBytes < x + size then .bad tcSTACKOVF 0
    else .ok { space := 3, place := .shared 0, addr := x, ord := .rc, sx := none, leaf := none }
  | .sp =>
    if 2 ^ 57 ≤ x then .bad tcPROTECT 9 else
    match c.s.translate (some c.core) c.l.fn c.l.ctx x with
    | .fault => .noMap
    | .bad => .bad tcPROTECT 5
    | .leaf l => match pageCheck l use x with
      | some (cause, info) => .bad cause info
      | none => .ok (spTarget l x)

/-- `.sh`, `.sp` or `.span` among the spaces. -/
def space3 : Space3 → Space | .sh => .sh | .sp => .sp | .span => .span

/-- The address operand (R352): 32 bits, or an even `v` or `s` pair for `.sp`. -/
def addrOp (o : Opnd) (pa : Perm) (space : Space) (constPair : Bool := false) : OpSpec :=
  let sp := space == .sp
  { o := o, field := 1, pair := sp, perm := pa, rt := if sp then .w64 else .w32,
    acc := if sp && !constPair then genDst else vsc }

/-- A lane's address: the operand plus the offset, modulo 2^64 for `.sp`, never wrapping at 2^32. DEDUCED: log 30. -/
def Cx.addrOf (c : Cx) (a : OpSpec) (off l : Nat) : Nat :=
  let x := (c.read (c.resolve a) l).toNat + off
  if a.pair then x % 2 ^ 64 else x

/-- Bytes that a target's access touches: the element, or its SX block. -/
def Target.span (t : Target) (size : Nat) : Nat := match t.sx with | some (_, _, f) => sxSize f | none => size

/-- Keep the leaves that an access of a core used in its TLBs (R233). -/
def State.cacheLeaves (s : State) (core fn slot : Nat) : List LaneAddr → State
  | [] => s
  | .ok t :: rest => State.cacheLeaves (match t.leaf with | some l => s.cacheLeaf core fn slot l | none => s) core fn slot rest
  | _ :: rest => State.cacheLeaves s core fn slot rest

/-! ### The range scoreboard (R169) -/

/-- Ranges held on a core: block, range, whether loads stall too. A DET launch also holds completion objects (R248). -/
def State.board (s : State) (core : Nat) : List (Nat × Nat × Nat × Bool) :=
  (s.copies.filter fun c => c.core == core).flatMap (fun c =>
    c.ranges.map (fun r => (c.block, r.1, r.2, c.dir == .inn)) ++
      (if c.done != .none && (s.launch (s.block c.block).launch).det then [(c.block, c.comp, 8, true)] else [])) ++
  (s.core core).holds.map fun h => (h.block, h.lo, h.len, h.loads)

/-- Entries of a core's scoreboard in use: one a copy, one a held range. -/
def State.boardUsed (s : State) (core : Nat) : Nat :=
  (s.copies.filter fun c => c.core == core).length + (s.core core).holds.length

/-- Is an access to shared memory held back? -/
def State.boarded (s : State) (blk a n : Nat) (load : Bool) : Bool :=
  (s.board (s.block blk).core).any fun r => r.1 == blk && overlap r.2.1 r.2.2.1 a n && (!load || r.2.2.2)

/-- Is an access to a place held back? -/
def State.placeBoarded (s : State) (p : Place) (a n : Nat) (load : Bool) : Bool :=
  match p with | .shared b => s.boarded b a n load | .scratch => false

/-! ### Elements and atomics -/

/-- The value that a load gives (R352): element of the bytes, or of an SX block. -/
def loadElem (ty : MType) (sx : Option (Nat × Nat × Nat)) (bs : List Byte) : Dword :=
  match sx with
  | some (_, pos, f) =>
    let v := sxDecode f bs pos
    BitVec.ofNat 64 (match ty with | .bf16 => (bf16.encode .rne v).1 | _ => (fp32.encode .rne v).1)
  | none =>
    let x := leNat bs
    match ty with
    | .s8 => ((BitVec.ofNat 8 x).signExtend 32).setWidth 64
    | .s16 => ((BitVec.ofNat 16 x).signExtend 32).setWidth 64
    | _ => BitVec.ofNat 64 x

/-! ### What a write does -/

/-- An undo entry of each byte not yet logged in the interval (R259). -/
def Block.logUndo (b : Block) (a n : Nat) : Block :=
  { b with undoLog := (List.range n).foldl (fun log i =>
      if log.any (·.1 == a + i) then log else (a + i, b.shared.get (a + i)) :: log) b.undoLog }

/-- The undo log of a core is 128 KiB for its resident blocks (R259, R260). It takes one byte for each old byte, first come first served, and the
block whose write passes the total loses its eligibility (DESIGN CHOICE, log 39). -/
def State.undoFull (s : State) (core : Nat) : Bool :=
  decide (131072 < ((s.blocks.filter fun b => b.core == core && !b.ended).map fun b => b.undoLog.length).sum)

/-- The undo log has no room: the interval is no longer eligible for rollback, in DET mode too (R253, R260). -/
def State.overflowed (s : State) (b : Nat) : State := s.modBlock b fun x => { x with eligible := false }

/-- A write of the block becomes visible outside it: its interval is no longer eligible for rollback (R260). A DET interval makes no
such write before the merge (R253). -/
def State.ineligible (s : State) (b : Nat) : State :=
  if (s.launch (s.block b).launch).det then s else s.overflowed b

/-- A read of another block's shared memory through `.span`: bytes that their block has written in its interval become visible
outside it (R260, R262). DEDUCED: log 32. -/
def State.spanRead (s : State) (b : Nat) (p : Place) (a n : Nat) : State :=
  match p with
  | .shared o => if o != b && (s.block o).undoLog.any (fun u => decide (a ≤ u.1) && decide (u.1 < a + n)) then s.ineligible o else s
  | .scratch => s

/-- A path that a test on its wait names is released (R194). -/
def Path.release (f : Park → Bool) (q : Path) : Path := { q with park := q.park.map fun k => if f k then { k with released := true } else k }

/-- The waits of a warp that a test names go on: parked paths, those that a handler has stopped among them, and every word of a wait that has
retired (R194, R402). A wait that its core's halt has parked has its place. -/
def Warp.wake (f : Park → Bool) (g : Access → Bool) (w : Warp) : Warp :=
  let hit := fun (e : Access) => e.waits && g e
  let groups := (w.pend.filter hit ++ (w.replay.filter (·.placed)).flatMap (fun r => r.accs.filter hit)).map (·.group)
  let go := fun (e : Access) => if groups.contains e.group then e.woken else e
  { w with
    pend := w.pend.map go, replay := w.replay.map fun r => { r with accs := r.accs.map go }, paths := w.paths.map (Path.release f)
    handler := w.handler.map fun h => { h with others := h.others.map (Path.release f) } }

/-- A `WAKE`, or a write to a word of shared memory, releases the paths that wait on it (R194). -/
def State.wakeOn (s : State) (p : Place) (a n : Nat) : State :=
  let f := fun (k : Park) => k.words.any fun x => k.lanes.has x.lane && x.place == p && overlap x.addr (if k.wide then 8 else 4) a n
  let g := fun (e : Access) => e.place == p && overlap e.addr e.size a n
  { s with blocks := s.blocks.map fun b => { b with warps := b.warps.map (Warp.wake f g) } }

/-- Was an operation issued before its block's barrier interval? Its writes do not enter the undo log. -/
def State.older (s : State) (b op : Nat) : Bool :=
  match (s.block b).ck with | some k => decide (op < k.serial) | none => false

/-- Perform a write to memory: the bytes, the undo log, the watch unit, waiters, transactions, linked slots. A write of an
engine conflicts with the issuing warp's own transaction too (R203), and is not logged when its operation is older than the
interval. -/
def State.memWrite (s : State) (by_ : Option (Nat × Nat)) (p : Place) (a : Nat) (bs : List Byte) (engine : Bool := false)
    (old : Bool := false) : State :=
  let agent := if engine then none else by_
  match p with
  | .shared b =>
    let s := s.modBlock b fun x => if by_.map (·.1) == some b && !old then x.logUndo a bs.length else x
    let s := if by_.map (·.1) == some b && !old && s.undoFull (s.block b).core then s.overflowed b else s
    let s := s.modBlock b fun x => { x with shared := x.shared.setBytes a bs }
    let s := { s with badBytes := s.badBytes.filter fun x => !(decide (sharedAddr b a ≤ x) && decide (x < sharedAddr b a + bs.length)) }
    ((s.watch b a bs.length by_).wakeOn p a bs.length).conflicts agent (some b) 0 a bs.length
  | .scratch => (s.scratchWrite a bs).conflicts agent none 1 a bs.length

/-- A write of a block's own in its DET view of scratchpad (R242). The bytes of an atomic do not count as written by it: the
merge applies the atomic itself (R243). -/
def State.viewWrite (s : State) (b w a : Nat) (bs : List Byte) (engine : Bool := false) (atomic : Bool := false) : State :=
  let s := s.modBlock b fun x =>
    { x with view := bs.zipIdx.foldl (fun v e => aput (a + e.2) e.1 v) x.view,
             written := if atomic then x.written else (List.range bs.length).foldl (fun v i => if v.contains (a + i) then v else v ++ [a + i]) x.written }
  (s.endLinks a bs.length (some b)).conflicts (if engine then none else some (b, w)) (some b) 1 a bs.length

/-- The place of a buffered write behind others (R260): in warp order, behind its own warp's. -/
def insertReleased (x : Buffered) (ys : List Buffered) : List Buffered :=
  let after := fun (y : Buffered) => decide (x.warp < y.warp)
  (ys.reverse.dropWhile after).reverse ++ x :: (ys.reverse.takeWhile after).reverse

/-- The order in which a release buffer is performed (R260). -/
def releaseOrder (xs : List Buffered) : List Buffered := xs.foldl (fun ys x => insertReleased x ys) []

/-- Perform everything in a block's release buffer, in program order per warp and in warp order (R260). -/
def State.flushRelease (s : State) (b : Nat) : State :=
  let items := releaseOrder (s.block b).release
  let s := s.modBlock b fun x => { x with release := [] }
  items.foldl (fun s x =>
    let bs := match x.red with
      | none => x.bytes
      | some (op, ty, v) =>
        let old := (List.range (atomSize ty)).map fun i => s.rawByte x.place (x.addr + i)
        leBytes (atomSize ty) (atomNew op ty (BitVec.ofNat 64 (leNat old)) v 0#64).toNat
    s.memWrite (some (b, x.warp)) x.place x.addr bs) s

/-- Bytes held in the release buffer of a core. -/
def State.releaseUsed (s : State) (core : Nat) : Nat :=
  ((s.blocks.filter fun b => b.core == core).map fun b => (b.release.map fun x => x.bytes.length).sum).sum

/-- A core's release buffer that is full is performed at once (R260). -/
def State.flushFull (s : State) (core : Nat) : State :=
  if 65536 < s.releaseUsed core then
    (s.blocks.filter fun k => k.core == core && !k.release.isEmpty).foldl (fun s k => (s.flushRelease k.id).ineligible k.id) s
  else s

/-- What a block's release buffer holds is performed before an event that comes after it and is not buffered itself (R182, R188,
R195). DEDUCED: log 30. -/
def State.flushNow (s : State) (b : Nat) : State :=
  if (s.block b).release.isEmpty then s else (s.flushRelease b).ineligible b

/-- Does the scoreboard let a block's release buffer be performed (R169)? -/
def State.releaseFree (s : State) (b : Block) : Bool := b.release.all fun x => !s.placeBoarded x.place x.addr x.bytes.length false

/-- Does the scoreboard let a core's release buffers be performed? -/
def State.flushClear (s : State) (core : Nat) : Bool := (s.blocks.filter (·.core == core)).all s.releaseFree

/-- Does the block's release buffer hold a byte of a range? -/
def Block.buffers (b : Block) (p : Place) (a n : Nat) : Bool := b.release.any fun x => x.place == p && overlap x.addr x.bytes.length a n

/-- Does the buffer hold a byte of a range as a later warp wrote it? Performed in warp order (R260), that write would come after one that a
warp makes now, though the block's reads have seen it before (R182). -/
def Block.crosses (b : Block) (w : Nat) (p : Place) (a n : Nat) : Bool :=
  b.release.any fun x => decide (w < x.warp) && x.place == p && overlap x.addr x.bytes.length a n

/-- Does the buffer hold a reduction on a byte of a range? -/
def Block.reduces (b : Block) (p : Place) (a n : Nat) : Bool :=
  b.release.any fun x => x.red.isSome && x.place == p && overlap x.addr x.bytes.length a n

/-- Put a write into the release buffer (R260), which is performed first when it holds a later warp's write of these bytes. The block reads the
bytes from now on: transactions of its other warps that hold them conflict (R203). DEDUCED: log 30. -/
def State.bufferOut (s : State) (b : Nat) (x : Buffered) : State :=
  let s := if (s.block b).crosses x.warp x.place x.addr x.bytes.length then s.flushNow b else s
  let s := s.modBlock b fun k => { k with release := k.release ++ [x] }
  s.conflicts (some (b, x.warp)) (some b) (if x.place == .scratch then 1 else 0) x.addr x.bytes.length

/-- Is a place the block's own, not named through `.span`? -/
def ownPlace (b : Nat) (p : Place) (span : Bool) : Bool := p == .shared b && !span

/-- A store of a block's warp at its place: in the block's own shared memory, behind what the release buffer holds for its bytes (R182); in
its DET view; in its release buffer; or outside, which ends rollback eligibility (R242, R260). A `.span` store counts as outside whatever
block it reaches. `direct` passes by the release buffer; `group` and `so` are its completion group, and whether its page is SO. -/
def State.putOut (s : State) (b w : Nat) (p : Place) (a : Nat) (bs : List Byte) (span : Bool := false) (group : Nat := 0) (so : Bool := false)
    (direct : Bool := false) : State :=
  let l := s.launch (s.block b).launch
  if ownPlace b p span then (if (s.block b).buffers p a bs.length then s.flushNow b else s).memWrite (some (b, w)) p a bs
  else if p == .scratch && l.det then s.viewWrite b w a bs
  else if l.contained && !direct then s.bufferOut b { warp := w, group := group, so := so, place := p, addr := a, bytes := bs, red := none }
  else (s.memWrite (some (b, w)) p a bs).ineligible b

/-- A store of a block's warp is performed; a release buffer that it fills is performed too (R260). -/
def State.storeOut (s : State) (b w : Nat) (p : Place) (a : Nat) (bs : List Byte) (span : Bool := false) (group : Nat := 0) (so : Bool := false) : State :=
  (s.putOut b w p a bs span group so).flushFull (s.block b).core

/-- Does an atomic that is performed come after the block's release buffer: one of the block's own shared memory after what it holds for the
word, another one that returns after all of it (R183, R185)? -/
def State.atomFlushes (s : State) (b : Nat) (p : Place) (a n : Nat) (returns span : Bool) : Bool :=
  if ownPlace b p span then (s.block b).buffers p a n else returns && !(p == .scratch && (s.launch (s.block b).launch).det)

/-- An atomic of a block's warp is performed; the answer is the old value (R245, R260, R302). One through `.span` that returns nothing is buffered in a
CONTAINED launch as a `.span` store is (DESIGN CHOICE, log 39). DEDUCED: log 30. -/
def State.atomOut (s : State) (b w : Nat) (p : Place) (a : Nat) (op : AtomOp) (ty : AtomTy) (returns : Bool)
    (v k : Dword) (span : Bool := false) (group : Nat := 0) (so : Bool := false) : State × Dword :=
  let l := s.launch (s.block b).launch
  let s := if s.atomFlushes b p a (atomSize ty) returns span then s.flushNow b else s
  let n := atomSize ty
  let old := BitVec.ofNat 64 (leNat (s.seenBytes b p a n))
  let bs := leBytes n (atomNew op ty old v k).toNat
  if ownPlace b p span then (s.memWrite (some (b, w)) p a bs, old)
  else if p == .scratch && l.det then
    ((s.viewWrite b w a bs false true).modBlock b fun x => { x with atoms := x.atoms ++ [{ addr := a, op := op, ty := ty, b := v, c := k }] },
      old)
  else if l.contained && !returns then
    ((s.bufferOut b { warp := w, group := group, so := so, place := p, addr := a, bytes := bs, red := some (op, ty, v) }).flushFull (s.block b).core, old)
  else (((s.memWrite (some (b, w)) p a bs).ineligible b).spanRead b p a n, old)

/-! ### Transactions' buffers (R202) -/

/-- Buffered byte, if any. -/
def Tx.byte? (t : Tx) (space a : Nat) : Option TxByte := t.writes.find? fun x => x.space == space && x.addr == a

/-- Buffer one byte, written by lanes: one, or those of an SX block; `so` of an SO page. -/
def Tx.put (t : Tx) (space a : Nat) (lanes : Mask) (so : Bool) (v : Byte) : Tx :=
  match t.byte? space a with
  | some o =>
    { t with writes := t.writes.map fun x => if x.space == space && x.addr == a then
        { x with val := v, lanes := lanes, shared := o.shared || o.lanes != lanes, so := so } else x }
  | none => { t with writes := t.writes ++ [{ space := space, addr := a, val := v, lanes := lanes, shared := false, so := so }] }

/-- Buffer a run of bytes. -/
def Tx.putAll (t : Tx) (space a : Nat) (lanes : Mask) (so : Bool) : List Byte → Tx
  | [] => t
  | v :: vs => Tx.putAll (t.put space a lanes so v) space (a + 1) lanes so vs

/-- Sectors of a list, each once. -/
def sectorsOf (xs : List (Nat × Nat)) : List (Nat × Nat) := xs.foldl (fun a x => if a.contains x then a else a ++ [x]) []

/-- Sectors in the write buffer. -/
def Tx.sectors (t : Tx) : List (Nat × Nat) := sectorsOf (t.writes.map fun w => (w.space, w.addr / 32))

/-- A byte as the transaction reads it. -/
def Cx.txByte (c : Cx) (t : Tx) (sp : Nat) (p : Place) (a : Nat) : Byte :=
  match t.byte? sp a with
  | some x => x.val
  | none => if sp = 3 then c.s.stackByte c.b c.wp a else c.s.seenByte c.b p a

/-- Bytes of a range as the issuing warp reads them at once: its stack, its transaction's buffer, what its block sees. -/
def Cx.readNow (c : Cx) (sp : Nat) (p : Place) (a n : Nat) : List Byte :=
  (List.range n).map fun i =>
    match c.wp.tx with
    | some t => c.txByte t sp p (a + i)
    | none => if sp = 3 then c.s.stackByte c.b c.wp (a + i) else c.s.seenByte c.b p (a + i)

/-- The read set after a load of ranges: sectors with a byte read from memory join it. -/
def Tx.joinReads (t : Tx) : List (Nat × Nat × Nat) → Tx
  | [] => t
  | (sp, a, n) :: rest =>
    let new := (List.range n).filterMap fun i => if (t.byte? sp (a + i)).isSome then none else some (sp, (a + i) / 32)
    Tx.joinReads { t with reads := sectorsOf (t.reads ++ new) } rest

/-! ### Performance -/

/-- Does a scope reach beyond the block (R174)? -/
def wideScope : Scope → Bool | .warp | .block => false | _ => true

/-- Must a fence come after the block's release buffer is performed? A full one that reaches beyond the block orders the thread's later reads
after what is buffered (R185); a release, in a span of two or more, its later writes of shared memory too, which the span's other blocks
read at once. DEDUCED: log 30. -/
def Launch.fenceFlushes (l : Launch) (kind : FenceKind) (scope : Scope) : Bool :=
  wideScope scope && (kind == .full || ((kind == .rel || kind == .ar) && decide (2 ≤ l.span)))

/-- Does an access of a warp perform its block's release buffer before itself: a read of bytes of the block's own shared memory that the buffer
holds, or of a reduction's, whose value is that of its write (R49, R182, R185), or of an SO page when the buffer holds a write of one (R186); a
write of the block's own shared memory over bytes that it holds, or one over a later warp's (R182, R260); an atomic that comes after it (R183); a
fence (R185); a wake of a word that it holds (R195)? DEDUCED: log 30. -/
def State.flushes (s : State) (b w : Nat) (a : Access) : Bool :=
  let blk := s.block b
  let own := ownPlace b a.place a.span
  let crosses := !own && blk.crosses w a.place a.addr a.size
  !blk.release.isEmpty && (match a.kind with
    | .load .. | .wait .. | .bound .. => (a.ord == .so && blk.release.any (·.so)) || blk.reduces a.place a.addr a.size ||
        (own && blk.buffers a.place a.addr a.size)
    | .store .. => (own && blk.buffers a.place a.addr a.size) || crosses
    | .atom _ _ _ returns _ _ => s.atomFlushes b a.place a.addr a.size returns a.span || crosses
    | .fence k scope => (s.launch blk.launch).fenceFlushes k scope
    | .wake => blk.buffers a.place a.addr a.size)

/-- Bytes that an access of a CONTAINED block puts into the release buffer (R260). -/
def State.buffersSize (s : State) (b : Nat) (a : Access) : Nat :=
  if ownPlace b a.place a.span || (a.place == .scratch && (s.launch (s.block b).launch).det) then 0 else
  match a.kind with
  | .store .. | .atom _ _ _ false _ _ => a.size
  | _ => 0

/-- Do accesses of a CONTAINED block perform what release buffers hold: the block's own, or a core's full one (R260)? -/
def State.needsFlush (s : State) (b w : Nat) (as : List Access) : Bool :=
  let blk := s.block b
  (s.launch blk.launch).contained &&
    (as.any (s.flushes b w) || decide (65536 < s.releaseUsed blk.core + (as.map (s.buffersSize b)).sum))

/-- The block's release buffer is performed before accesses that come after it. -/
def State.flushFor (s : State) (b w : Nat) (as : List Access) : State := if as.any (s.flushes b w) then s.flushNow b else s

/-- Does a word of a retired wait hold another value than the one compared, in some lane of it, or has it been released (R194)? -/
def State.waitDiffers (s : State) (b : Nat) (w : Warp) (a : Access) : Bool :=
  w.pend.any fun e => e.group == a.group && (match e.kind with
    | .wait wide _ want => want.all fun v => loadElem (if wide then .u64 else .b32) e.sx (s.seenBytes b e.place e.addr e.size) != v
    | _ => false)

/-- May a warp's access be performed now? Earlier accesses that order it, parked ones included, are performed, and the
scoreboard does not hold it (R169, R229). A bound load is performed with its producer's (R49). DEDUCED: log 9. -/
def State.mayPerform (s : State) (b : Nat) (w : Warp) (a : Access) : Bool :=
  !w.blocks a && a.kind.bound?.isNone && (!s.needsFlush b w.idx [a] || s.flushClear (s.block b).core) &&
    (match a.kind with
     | .load _ _ => !s.placeBoarded a.place a.addr a.size true
     | .wait .. => !s.placeBoarded a.place a.addr a.size true && s.waitDiffers b w a
     | .store _ _ | .atom .. => !s.placeBoarded a.place a.addr a.size false
     | _ => true)

/-- Write a lane of result entries. -/
def CoreSt.putLane (c : CoreSt) (dests : List Nat) (l : Nat) (x : Dword) : CoreSt :=
  dests.zipIdx.foldl (fun c d => c.modEntry d.1 fun e => { e with value := e.value.set l (if d.2 = 0 then x.lo else x.hi) }) c

/-- Results of a group whose last access has been performed become known and ready. -/
def State.landGroup (s : State) (b w group : Nat) (dests : List Nat) : State :=
  if (s.warp b w).queued.any (·.group == group) then s else
  let core := (s.block b).core
  dests.foldl (fun s e => s.land core e) s

/-- A lane's access is performed (R172), by its kind; a wake of a DET launch wakes no warp (R242). Lanes of one load that read the same bytes are performed together
(R353). -/
def State.performOne (s : State) (b w : Nat) (a : Access) : State :=
  let s := s.flushFor b w [a]
  let core := (s.block b).core
  let read := fun (ty : MType) =>
    let x := loadElem ty a.sx (s.seenBytes b a.place a.addr a.size)
    (s.modCore core fun c => c.putLane a.dests a.lane x).spanRead b a.place a.addr a.size
  match a.kind with
  | .load ty _ => read ty
  | .wait wide _ _ => read (if wide then .u64 else .b32)
  | .store _ _ => s.storeOut b w a.place a.addr a.data a.span a.group (a.ord == .so)
  | .atom op ty _ returns v k =>
    let (s, old) := s.atomOut b w a.place a.addr op ty returns v k a.span a.group (a.ord == .so)
    s.modCore core fun c => c.putLane a.dests a.lane old
  | .fence .. | .bound _ _ => s
  | .wake => if (s.launch (s.block b).launch).det then s else s.wakeOn a.place a.addr 4

/-- Perform the pending accesses of a warp with given serials, in order, and land their groups. -/
def State.performList (s : State) (b w : Nat) : List Access → State
  | [] => s
  | a :: rest =>
    let s := s.performOne b w a
    let s := s.modWarp b w fun x => { x with pend := x.pend.filter (·.serial != a.serial) }.pass a.serial
      (if a.kind.fence?.isSome then 0#64 else a.lanes)
    State.performList (s.landGroup b w a.group a.dests) b w rest

/-- Accesses that share bytes with some of `st`, directly or through others. -/
def sharingN : Nat → List Access → List Access → List Access
  | 0, _, st => st
  | n + 1, xs, st =>
    let shares := fun (a : Access) => st.any fun e => e.place == a.place && overlap e.addr e.size a.addr a.size
    if xs.any shares then sharingN n (xs.filter fun a => !shares a) (xs.filter shares ++ st) else st

/-- What is performed together with an access: the lanes of its load that share bytes, which are read once (R353), or the words of its wait
(R194). -/
def Warp.together (w : Warp) (a : Access) : List Access :=
  match a.kind with
  | .wait .. => w.pend.filter fun e => e.waits && e.group == a.group
  | .load .. =>
    let mine := w.pend.filter fun e => e.group == a.group && (match e.kind with | .load .. => true | _ => false)
    let set := sharingN mine.length mine [a]
    w.pend.filter fun e => set.any (·.serial == e.serial)
  | _ => w.pend.filter (·.serial == a.serial)

/-- Does a place lie in a package that the block has no path to (R281)? -/
def State.placeLost (s : State) (b : Nat) (p : Place) (a : Nat) : Bool :=
  match p with | .scratch => s.unreachable (s.block b).core (a / 2 ^ 29) | .shared _ => false

/-- Does a read of a block find a byte marked as poisoned (R261)? -/
def State.placeBad (s : State) (b : Nat) (p : Place) (a n : Nat) : Bool :=
  match p with | .scratch => s.readsBad b false a n | .shared o => s.sharedBad o a n

/-- Does an access go to a package with no path left (R281), or read a byte marked as poisoned (R261)? -/
def State.accessLost (s : State) (b : Nat) (a : Access) : Bool :=
  a.kind.fence?.isNone && (s.placeLost b a.place a.addr || (a.kind.reads && s.placeBad b a.place a.addr a.size))

/-- Paths that a late wait has held go on (R23). -/
def State.endWait (s : State) (b w : Nat) (lanes : Mask) : State :=
  ((s.warp b w).paths.filter fun p => p.mask &&& lanes != 0#64).foldl (fun s p => s.mergeAt b w p.id) s

/-- Perform an access of a warp by its serial, when it may be (ACCESS_PERFORMED). One to a package with no path left is an
uncorrectable error of its block (R281), and so is a byte marked as poisoned that it reads (R261). -/
def State.perform (s : State) (b w serial : Nat) : State :=
  let wp := s.warp b w
  match wp.pend.find? (·.serial == serial) with
  | none => s
  | some a =>
    let set := wp.together a
    if !set.all (s.mayPerform b wp) then s
    else if set.any (s.accessLost b) then s.consume b
    else if a.waits then (s.performList b w set).endWait b w (set.foldl (fun m e => m ||| e.lanes) 0#64)
    else s.performList b w set

end Sys2Proof.Machine
end

