-- ==== Sys2Proof/Machine/MemOps.lean ====
section
/-! DEFINITION. Loads, stores, atomics, fences, waits and wakes (R194 to R196, R302, R328, R342, R352, R377, R394, R402,
R403), and the replay queue's entry (R229). -/

namespace Sys2Proof.Machine

open Sys2Proof

/-! ### Lanes of an access -/

/-- Address checks of the lanes of a mask. -/
def Cx.targets (c : Cx) (space : Space) (use : Use) (size : Nat) (a : OpSpec) (off : Nat) (act : Mask) :
    List (Nat × LaneAddr) :=
  act.lanes.map fun l => (l, c.laneAddr space use size (c.addrOf a off l))

/-- Lanes of a list. -/
def maskOf (xs : List Nat) : Mask := xs.foldl (fun m l => m ||| (1#64 <<< l)) 0#64

/-- The first failing check of a lane that is no helper, with the lanes that fail for the same cause. -/
def laneFault (xs : List (Nat × LaneAddr)) : Option (Nat × Nat × Mask) :=
  match xs.findSome? (fun x => match x.2 with | .bad cause info => some (cause, info) | _ => none) with
  | none => none
  | some (cause, info) => some (cause, info, maskOf ((xs.filter fun x => match x.2 with
      | .bad k _ => k == cause | _ => false).map (·.1)))

/-- Lanes whose checks pass, with their targets. -/
def okLanes (xs : List (Nat × LaneAddr)) : List (Nat × Target) :=
  xs.filterMap fun x => match x.2 with | .ok t => some (x.1, t) | _ => none

/-- Lanes without a translation. -/
def missing (xs : List (Nat × LaneAddr)) : List Nat :=
  (xs.filter fun x => x.2 == .noMap).map (·.1)

/-- Failing checks trap, per lane (R209). -/
def checkLanes (xs : List (Nat × LaneAddr)) : Except Stop Unit :=
  match laneFault xs with
  | some (cause, info, m) => .error (.laneTrap cause info m)
  | none => .ok ()

/-- Die of a core, of a scratchpad byte (R232). -/
def dieOfCore (core : Nat) : Nat := core / 64
/-- Die of a scratchpad byte. -/
def dieOfPa (pa : Nat) : Nat := pa / 2 ^ 26
/-- Cluster that owns a scratchpad byte (R158, R232). -/
def clusterOfPa (pa : Nat) : Nat := pa / 2 ^ 23

/-- Has a warp's replay queue room (R229)? The records of cancelled accesses take none (R261). -/
def Warp.canPark (w : Warp) : Bool := decide ((w.replay.filter (!·.stale)).length < 16)

/-- In a transaction an `LD` or `ST` of `.span`, of a UO page or of another die aborts with NOTX (R201). DEDUCED: log 30. -/
def Cx.checkTx (c : Cx) (space : Space) (opcode : Nat) (size : Nat) (xs : List (Nat × Target)) : Except Stop Unit :=
  if c.inTx && (space == .span || xs.any fun x => x.2.space == 1 &&
      (x.2.ord == .uo || dieOfPa x.2.addr != dieOfCore c.core || dieOfPa (x.2.addr + x.2.span size - 1) != dieOfCore c.core))
  then .error (.abort 4 opcode) else .ok ()

/-- Access kinds of R221. -/
def AccessKind.code : AccessKind → Nat | .ld => 1 | .st => 2 | .atom => 3 | .wait => 4 | .copy => 5 | .fetch => 6

/-- A full replay queue stalls the warp's next access, whether it finds its translations or not (R229). A missing translation in a
transaction is a fault of its lanes (R208, R209); outside one it parks the access. -/
def Cx.checkMissing (c : Cx) (k : AccessKind) (miss : List Nat) : Except Stop Unit := do
  require c.wp.canPark .stall
  require (miss.isEmpty || !c.inTx) (.laneTrap tcTRANSLATE k.code (maskOf miss))

/-- Does an access of the warp that is not yet performed write some byte of a target (R49)? DEDUCED: log 9. -/
def Cx.ownWrites (c : Cx) (t : Target) (va size : Nat) : Bool :=
  c.wp.queued.any fun e => e.kind.writes && e.place == t.place &&
    (overlap e.addr e.size t.addr (t.span size) || (t.space == 1 && overlap e.va e.size va size))

/-- Accesses that are performed at issue: in DET mode, in a transaction, and on the stack. DEDUCED: log 30. -/
def Cx.atOnce (c : Cx) (space : Space) : Bool := c.det || c.inTx || space == .stk

/-- May accesses be performed at issue: does none of them wait for an earlier access (R177, R229)? -/
def Cx.clearFor (c : Cx) (as : List Access) : Bool := as.all fun a => !c.wp.blocks a

/-- An access performed at issue waits for the earlier ones that are ordered before it. A store in a transaction is performed at its
commit point, and waits there. -/
def Cx.checkQuiet (c : Cx) (space : Space) (as : List Access) : Except Stop Unit :=
  require (!c.atOnce space || (c.inTx && as.all fun a => a.kind.writes) || c.clearFor as) .stall

/-- Accesses performed at issue wait while the scoreboard holds a byte of a release buffer that they perform (R169, R260). A store in a
transaction performs none until its commit point. -/
def Cx.checkFlush (c : Cx) (space : Space) (as : List Access) : Except Stop Unit :=
  require (!c.atOnce space || space == .stk || (c.inTx && as.all fun a => a.kind.writes) || !c.s.needsFlush c.b c.w as || c.s.flushClear c.core) .stall

/-- Must a block's release buffer be performed before an engine's operation of a warp on the block's shared memory: one that reads or
publishes it outside (`out`), or one that writes it, when the buffer holds shared memory, or when the span's other blocks see that write
before (R188, R189, R190)? DEDUCED: log 30. -/
def State.engineFlush (s : State) (b : Nat) (out : Bool) : Bool :=
  let blk := s.block b
  !blk.release.isEmpty && (out || blk.release.any (fun x => x.place != .scratch) || decide (2 ≤ (s.launch blk.launch).span))

/-- Does the scoreboard let an engine's operation come after the release buffer (R169)? -/
def Cx.canFlush (c : Cx) (out : Bool) : Bool := !c.s.engineFlush c.b out || c.s.flushClear c.core

/-- The release buffer is performed before an engine's operation that comes after it. -/
def State.flushEngine (s : State) (b : Nat) (out : Bool) : State := if s.engineFlush b out then s.flushNow b else s

/-- Has the warp no access that is not yet performed? -/
def Cx.allPerformed (c : Cx) : Bool := c.wp.queued.isEmpty

/-- The scoreboard stalls an access at issue (R169). -/
def Cx.checkBoard (c : Cx) (size : Nat) (load : Bool) (xs : List (Nat × Target)) : Except Stop Unit :=
  require (xs.all fun x => x.2.space != 0 || !c.s.placeBoarded x.2.place x.2.addr (x.2.span size) load) .stall

/-- The tags that parked accesses of a context hold. -/
def State.tags (s : State) (fn slot : Nat) : List Nat :=
  (s.blocks.filter fun b => (s.launch b.launch).fn == fn && (s.launch b.launch).ctx == slot).flatMap fun b =>
    b.warps.flatMap fun w => w.replay.map (·.tag)

/-- A tag of a context that no parked access holds, while there is one (R275): 16 bits, never 0. DESIGN CHOICE: log 36. -/
def State.newTag (s : State) (fn slot : Nat) : State × Nat :=
  let k := Config.idPick s.tick
  ({ s with tick := s.tick + 1 }, (unused k 65535 (s.tags fn slot)).getD (k % 65535 + 1))

/-- Put an access into the replay queue (R229); the walk's end posts its record. An access that a rollback cancelled takes up its
own record again (R261). -/
def Cx.park (c : Cx) (s : State) (k : AccessKind) (va : Nat) (mask : Mask) (line : Bool) (accs : List Access) : State :=
  match c.wp.replay.find? fun r => r.stale && r.kind == k && r.va == va && r.mask == mask && r.fpc == c.pt.pc && r.line == line with
  | some r =>
    (s.modWarp c.b c.w fun x =>
      { x with replay := x.replay.filter (·.tag != r.tag) ++ [{ r with accs := accs, stale := false }] }).due (.translationWalk c.b c.w r.tag)
  | none =>
    let (s, tag) := s.newTag c.l.fn c.l.ctx
    (s.modWarp c.b c.w fun x =>
      { x with replay := x.replay ++ [{ tag := tag, kind := k, va := va, mask := mask, fpc := c.pt.pc, line := line, accs := accs,
                                        copy := none, answer := none, posted := false, stale := false }] }).due (.translationWalk c.b c.w tag)

/-- Issue the accesses of an instruction: to be performed, or parked when a lane has no translation. -/
def Cx.launch (c : Cx) (s : State) (k : AccessKind) (miss : List Nat) (a : OpSpec) (off : Nat) (line : Bool)
    (accs : List Access) : State :=
  let s := { s with serial := s.serial + accs.length + 1 }
  if miss.isEmpty && !line then s.modWarp c.b c.w fun x => { x with pend := x.pend ++ accs }
  else
    let first := (miss.head?).getD ((accs.head?.map (·.lane)).getD 0)
    c.park s k (c.addrOf a off first) (maskOf (if line then accs.map (·.lane) else miss)) line accs

/-- The access records of lanes, numbered from the group's serial. -/
def mkAccs (group : Nat) (f : Nat → Nat → Access) (lanes : List Nat) : List Access :=
  lanes.zipIdx.map fun x => f x.1 (group + 1 + x.2)

/-- A target of a lane, or none while it has no translation. -/
def targetOf (xs : List (Nat × LaneAddr)) (l : Nat) : Option Target :=
  match xs.find? (·.1 == l) with
  | some (_, .ok t) => some t
  | _ => none

/-- The access record of one lane. A lane without a translation counts as SO until it has one. -/
def Cx.access (c : Cx) (xs : List (Nat × LaneAddr)) (a : OpSpec) (off size group : Nat) (kind : AccKind) (dests : List Nat)
    (data : List Byte) (l serial : Nat) : Access :=
  let va := c.addrOf a off l
  match targetOf xs l with
  | some t =>
    { serial := serial, group := group, lanes := 1#64 <<< l, lane := l, kind := kind, place := t.place, addr := t.addr,
      size := t.span size, ord := t.ord, sx := t.sx, data := data, dests := dests,
      engine := (match kind with | .atom .. => if t.space = 1 then some (clusterOfPa t.addr) else none | _ => none), va := va,
      span := t.far, passed := false, pc := c.pt.pc }
  | none =>
    { serial := serial, group := group, lanes := 1#64 <<< l, lane := l, kind := kind, place := .scratch, addr := va, size := size,
      ord := .so, sx := none, data := data, dests := dests, engine := none, va := va,
      span := false, passed := false, pc := c.pt.pc }

/-! ### Results of memory instructions -/

/-- Result entries of the destinations: other lanes keep the old value, acting lanes start at 0 or hold `val`. -/
def Cx.openResults (c : Cx) (i : Instr) (s : State) (d : OpSpec) (act : Mask) (key : Option Key) (known : Bool)
    (val : Nat → Dword) : State × List Nat × List (RegClass × Nat) :=
  let r := c.dstReg d
  let ds := (List.range d.span).map fun j => (r.1, r.2 + j)
  let (s, ids) := c.allocAll s (c.newEntry key (some (encodePair i)) known none 0#32 false) ds
    (c.destValues ds d.pair act fun l => { val := val l }) []
  (s, ids, ds)

/-- The instruction's results and accesses are assigned to flags, and it retires. -/
def Cx.retireMem (c : Cx) (s : State) (words : Nat) (ids : List Nat) (group : Option Nat) : State :=
  let s := c.assign s (ids.map Token.entry) (match group with | some g => [.access g] | none => [])
  c.advance (c.endWaits s) words

/-! ### The spill stack (R152, R279) -/

/-- Can every byte of stack accesses be reached, and read when they are loads? One that cannot is an uncorrectable error of the block. -/
def Cx.stackMapped (c : Cx) (xs : List (Nat × Target)) (size : Nat) (reads : Bool) : Bool :=
  xs.all fun x => x.2.space != 3 || (List.range size).all fun i => !c.s.stackLost c.b c.wp (x.2.addr + i) reads

/-- Does an access that is performed at issue go to a package with no path left (R281), or read a byte marked as poisoned (R261)? -/
def Cx.lostNow (c : Cx) (as : List Access) : Bool := as.any (c.s.accessLost c.b)

/-! ### LD -/

/-- Must a load that would bind wait (R191)? Earlier accesses that are ordered before it are not performed; the entry's own access is
none of these. -/
def Cx.bindWaits (c : Cx) (k : KeyRec) (a : Access) : Bool :=
  (c.wp.queued.filter fun e => !(k.results.any e.dests.contains || (match e.kind.bound? with | some x => k.results.contains x | none => false))).any
    fun e => ordered e a

/-- A load binds (R44, R49): to a ready entry it is performed now; to a pending one when that entry's load is. -/
def Cx.bindLoad (c : Cx) (s : State) (k : KeyRec) (ds : List (RegClass × Nat)) (acq : Bool) (as : List Access) (words : Nat) : State :=
  let s := c.bind s k ds false true
  let wait := k.results.find? fun e => !(s.core c.core).isReady e
  let group := s.serial
  let s := { s with serial := group + as.length + 1 }
  match wait with
  | none => c.advance (c.endWaits (s.modWarp c.b c.w fun x => x.pass group c.pt.mask)) words
  | some e =>
    let recs := as.zipIdx.map fun x => { x.1 with serial := group + 1 + x.2, group := group, kind := .bound e acq }
    let s := c.assign (s.modWarp c.b c.w fun x => { x with pend := x.pend ++ recs }) [] [.access group]
    c.advance (c.endWaits s) words

/-- MOD byte of a load or store (R104). -/
def memModOf (space : Space) (ty : MType) (ord : Nat) : Nat := 32 * space.code.toNat + 4 * ty.code.toNat + ord

/-- Does a load take part in lookup (R42, R46)? R46 speaks of the FMT and GEOM of one page: a load whose lanes read LRO pages of differing
FMT or GEOM is private (DESIGN CHOICE, log 37). -/
def Cx.loadLooksUp (c : Cx) (space : Space) (act : Mask) (xs : List (Nat × Target)) : Bool :=
  !c.inTx && act == fullMask c.width && xs.length == c.width &&
    (space == .sh || (space == .sp && xs.all fun x => match x.2.leaf, xs.head? with
      | some l, some h => l.attr.lro && (match h.2.leaf with
          | some k => l.attr.fmt == k.attr.fmt && l.attr.tile == k.attr.tile | none => false)
      | _, _ => false))

/-- The key of a load (R39, R46). -/
def Cx.loadKey (c : Cx) (space : Space) (ty : MType) (acq : Bool) (a : OpSpec) (off : Nat) (xs : List (Nat × Target))
    (n : Nat) : Key :=
  let leaf := (xs.head?.bind fun x => x.2.leaf).getD default
  { op := 0x3D, mod := memModOf space ty (if acq then 1 else 0), width := c.width, srcs := c.keySrc (c.resolve a),
    perms := [a.perm.code], imm := 0, version := none, ctx := c.l.ctxid, saggar := c.l.saggar,
    mem := some { space := space, size := mtypeSize ty, fmt := if space == .sp then leaf.attr.fmt else 0,
                  geom := if space == .sp && leaf.attr.tile then 1 else 0, off := off,
                  owner := if space == .sh then c.blk.slot else c.l.id },
    ident := none, dsts := List.replicate n .v }

/-- A load (R352). A helper lane that fails leaves it (R28), and a load that a lane has left is private: R46 does not say (DESIGN CHOICE,
log 37). One that every lane has left gives 0 at once. -/
def runLoad (i : Instr) (space : Space) (ty : MType) (acq : Bool) (f : L2u) (off words : Nat) (c : Cx) : Except Stop State := do
  let d := dOp f.d onlyV (ty == .u64)
  let a := addrOp f.a f.pa space
  let size := mtypeSize ty
  c.checkOps [d, a]
  c.checkReads [a] f.g
  let act := c.acting f.g
  if act == 0#64 then .ok (c.advance (c.endWaits c.s) words) else
  let all := c.targets space (.load ty) size a off act
  -- helper lanes that fail leave the load and receive 0 (R28)
  let xs := all.filter fun x => match x.2 with | .ok _ => true | _ => !c.wp.helpers.has x.1
  checkLanes xs
  c.checkTx space 0xBD size (okLanes xs)
  let miss := missing xs
  c.checkMissing .ld miss
  let group := c.s.serial
  let as := mkAccs group (c.access xs a off size group (.load ty acq) [] []) (xs.map (·.1))
  if miss.isEmpty then c.checkQuiet space as
  if !c.stackMapped (okLanes xs) size true || (c.atOnce space && space != .stk && miss.isEmpty && c.lostNow as) then .ok (c.s.stalled.consume c.b) else
  require ((okLanes xs).all fun x => !c.ownWrites x.2 (c.addrOf a off x.1) size) .stall
  let looks := miss.isEmpty && c.loadLooksUp space act (okLanes xs)
  let pre := space != .stk && ((c.atOnce space && miss.isEmpty) || looks)
  require (!pre || !c.s.needsFlush c.b c.w as || c.s.flushClear c.core) .stall
  let s := (if pre then c.s.flushFor c.b c.w as else c.s).cacheLeaves c.core c.l.fn c.l.ctx (xs.map (·.2))
  let key := c.loadKey space ty acq a off (okLanes xs) d.span
  match if looks then c.lookup s key else none with
  | some k =>
    let r := c.dstReg d
    require (c.bindable k && as.all fun x => !c.bindWaits k x) .stall
    .ok (c.bindLoad s k ((List.range d.span).map fun j => (r.1, r.2 + j)) acq as words)
  | none =>
    c.checkBoard size true (okLanes xs)
    if act != fullMask c.width then c.allMergeable act ((List.range d.span).map fun j => ((c.dstReg d).1, (c.dstReg d).2 + j))
    let now := (c.atOnce space && miss.isEmpty) || xs.isEmpty
    let reads := (okLanes xs).map fun x => (x.2.space, x.2.addr, x.2.span size)
    let tx := (s.warp c.b c.w).tx.map fun t => t.joinReads reads
    require (!(match tx with | some t => decide (64 < t.reads.length) | none => false)) (.abort 3 0)
    let val := fun l => match targetOf xs l with
      | some t => if now then loadElem ty t.sx ((c.at s).readNow t.space t.place t.addr (t.span size)) else 0#64
      | none => 0#64
    let (s, ids, ds) := c.openResults i s d act (if looks then some key else none) now val
    let s := if looks then c.insertKey s key ids
        ((okLanes xs).filterMap fun x => match x.2.place with
          | .shared b => some (b, x.2.addr, size) | .scratch => none)
        (if space == .sp then some c.l.id else none)
      else s
    let s := s.pointAll c.b c.w c.pid act ds ids
    let s := match tx with | some t => s.modWarp c.b c.w fun x => { x with tx := some t } | none => s
    let group := s.serial
    let s := if now then s.fresh.modWarp c.b c.w fun x => x.pass group (maskOf (xs.map (·.1))) else
      c.launch s .ld miss a off false (mkAccs group (c.access xs a off size group (.load ty acq) ids []) (xs.map (·.1)))
    .ok (c.retireMem s words ids (if now then none else some group))

/-- `LD`, short (R107). -/
def execLd (f : Mi) (s : State) :=
  issue (.ld f) s fun c => runLoad (.ld f) .sh .b32 false
    { d := .v f.d, a := .v f.a, pa := .ident, g := Guard.always } f.off.toNat 1 c
/-- `LD`, long. -/
def execLdLong (space : Space) (ty : MType) (acq : Bool) (f : L2u) (off : BitVec 8) (s : State) :=
  issue (.ldLong space ty acq f off) s fun c => runLoad (.ldLong space ty acq f off) space ty acq f off.toNat 2 c

/-! ### ST -/

/-- How a store reads its data operand: by its element type (R75). -/
def storeRt : MType → RT | .u64 => .w64 | .f32 => .f32 | .bf16 => .bf16 | _ => .w32

/-- The bytes that a lane stores. DEDUCED: log 30. -/
def storeData (ty : MType) (x : Dword) : List Byte := leBytes (mtypeSize ty) x.toNat

/-- A lane's value as an element of an SX page (R85). -/
def sxValue (ty : MType) (x : Dword) : FVal :=
  match ty with | .bf16 => bf16.decode (x.toNat % 65536) | _ => fp32.decode (x.toNat % 2 ^ 32)

/-- SX blocks that lanes touch, each once, with the format. -/
def sxBlocks (xs : List (Nat × Target)) : List (Nat × Nat) :=
  xs.foldl (fun (a : List (Nat × Nat)) x => match x.2.sx with
    | some (b, _, f) => if a.any (·.1 == b) then a else a ++ [(b, f)]
    | none => a) []

/-- Lane and position of each element of an SX block. -/
def sxLanes (xs : List (Nat × Target)) (b : Nat) : List (Nat × Nat) :=
  xs.filterMap fun x => match x.2.sx with | some (k, pos, _) => if k = b then some (x.1, pos) else none | none => none

/-- Lanes that break the coverage of R85: in an incomplete block, or naming an element that another lane names. -/
def sxBad (xs : List (Nat × Target)) : List Nat :=
  (sxBlocks xs).flatMap fun b =>
    let ls := sxLanes xs b.1
    let whole := (List.range 16).all fun p => ls.any (·.2 == p)
    (ls.filter fun (x : Nat × Nat) => !whole || ls.any fun (y : Nat × Nat) => y.1 != x.1 && y.2 == x.2).map (·.1)

/-- Is a byte range inside one slot of the block's declarations (R256)? -/
def Block.owns (b : Block) (a n : Nat) : Bool :=
  b.declw.any fun d => decide (d.2.1 ≤ a) && decide (a + n ≤ d.2.1 + d.2.2)

/-- What a store performs: the bytes of a lane, or of a whole SX block with the lanes that name its elements. -/
structure Piece where
  lane : Nat
  lanes : Mask
  target : Target
  data : List Byte
  deriving DecidableEq, Repr, Inhabited

/-- The piece of a lane: its bytes, or at the last lane of an SX block the whole block, with whether it saturates (R83, R85, R395). -/
def pieceOf (ty : MType) (xs : List (Nat × Target)) (val : Nat → Dword) (x : Nat × Target) : Option (Piece × Bool) :=
  match x.2.sx with
  | none => some ({ lane := x.1, lanes := 1#64 <<< x.1, target := x.2, data := storeData ty (val x.1) }, false)
  | some (b, _, f) =>
    let ls := sxLanes xs b
    if (ls.getLast?.map fun (y : Nat × Nat) => y.1) != some x.1 then none else
    let (bs, sat) := sxEncode f ((List.range 16).map fun p => match ls.find? (·.2 == p) with
      | some y => sxValue ty (val y.1) | none => .fin false 0 0)
    some ({ lane := x.1, lanes := maskOf (ls.map fun (y : Nat × Nat) => y.1), target := x.2, data := bs }, sat)

/-- The pieces of a store in lane order: a lane each, or an SX block each at its last lane, and whether a block saturates (R83, R85,
R395). -/
def storePieces (ty : MType) (xs : List (Nat × Target)) (val : Nat → Dword) : List Piece × Bool :=
  let ps := xs.filterMap (pieceOf ty xs val)
  (ps.map fun (p : Piece × Bool) => p.1, ps.any fun p => p.2)

/-- 64-byte lines of a DET launch's step-line pool that a write needs and the block does not hold yet (R246). -/
def Block.newLines (b : Block) (a n : Nat) : List Nat :=
  ([a / 64, (a + n - 1) / 64]).foldl (fun acc x => if b.lines.any (·.1 == x) || acc.contains x then acc else acc ++ [x]) []

/-- Places in use in a context's step-line pool (R246). -/
def State.linesUsed (s : State) (fn slot : Nat) : List Nat :=
  (s.blocks.filter fun b => (s.launch b.launch).fn == fn && (s.launch b.launch).ctx == slot).flatMap fun b => b.lines.map (·.2)

/-- Places for lines: the lowest free ones of the pool (DESIGN CHOICE, log 28). -/
def takeLines (size : Nat) : List Nat → List Nat → Option (List (Nat × Nat))
  | [], _ => some []
  | x :: xs, used =>
    match (List.range size).find? fun i => !used.contains i with
    | some i => (takeLines size xs (i :: used)).map fun r => (x, i) :: r
    | none => none

/-- What drawing step lines gives (R246): the state with them, none left, or a pool page that a walk finds unmapped or malformed,
which is an uncorrectable error of the block (R279). -/
inductive Drawn where
  | ok (s : State)
  | full
  | lost
  deriving Repr

/-- Is the pool page of a step line mapped as the host must map it (R279, R415)? -/
def State.lineMapped (s : State) (core : Nat) (l : Launch) (i : Nat) : Bool :=
  match s.place (some core) l.fn l.ctx ((s.ctx l.fn l.ctx).stepbase.toNat + 64 * i) with
  | some (leaf, _) => !leaf.attr.hbm && leaf.attr.fmt == 0
  | none => false

/-- Draw the lines of a DET write (R246). -/
def State.drawLines (s : State) (b : Nat) (ranges : List (Nat × Nat)) : Drawn :=
  let l := s.launch (s.block b).launch
  if !l.det then .ok s else
  let need := ranges.foldl (fun acc r => ((s.block b).newLines r.1 r.2).foldl
    (fun acc x => if acc.contains x then acc else acc ++ [x]) acc) []
  if need.isEmpty then .ok s else
  match takeLines ((s.ctx l.fn l.ctx).stepsize.toNat / 64) need (s.linesUsed l.fn l.ctx) with
  | none => .full
  | some xs => if xs.all fun x => s.lineMapped (s.block b).core l x.2 then .ok (s.modBlock b fun x => { x with lines := x.lines ++ xs }) else .lost

/-- Scratchpad ranges among pieces. -/
def pieceRanges (ps : List Piece) : List (Nat × Nat) :=
  (ps.filter fun p => p.target.space == 1).map fun p => (p.target.addr, p.data.length)

/-- Store bytes on a warp's spill stack, in the stack cache and in its pool pages (R152, R279). -/
def State.stackStore (s : State) (b w off : Nat) : List Byte → State
  | [] => s
  | v :: vs =>
    let core := (s.block b).core
    let s := (s.modWarp b w fun x => { x with stack := aput off v x.stack }).stackKeep core b w off
    State.stackStore (s.stackWrite core (s.launch (s.block b).launch) (s.warp b w) off v) b w (off + 1) vs

/-- Perform a piece at issue: buffered in a transaction, in the stack, or at its place. DEDUCED: log 30. -/
def Cx.storeNow (c : Cx) (group : Nat) (s : State) (p : Piece) : State :=
  match (s.warp c.b c.w).tx with
  | some t => s.modWarp c.b c.w fun x =>
      { x with tx := some (t.putAll p.target.space p.target.addr p.lanes (p.target.ord == .so) p.data) }
  | none =>
    if p.target.space = 3 then s.stackStore c.b c.w p.target.addr p.data
    else s.storeOut c.b c.w p.target.place p.target.addr p.data p.target.far group (p.target.ord == .so)

/-- The access records of a store's pieces. -/
def Cx.storeAccs (c : Cx) (xs : List (Nat × LaneAddr)) (a : OpSpec) (off size group : Nat) (ty : MType) (rel : Bool)
    (ps : List Piece) : List Access :=
  ps.zipIdx.map fun x =>
    { c.access xs a off size group (.store ty rel) [] x.1.data x.1.lane (group + 1 + x.2) with
      addr := x.1.target.addr, size := x.1.data.length, lanes := x.1.lanes }

/-- The access records of a store that parks whole, before its lanes are translated: a lane each, by virtual address. -/
def Cx.rawStores (c : Cx) (a : OpSpec) (off size group : Nat) (ty : MType) (rel : Bool) (lanes : List Nat) (val : Nat → Dword) :
    List Access :=
  mkAccs group (fun l n => c.access [] a off size group (.store ty rel) [] (storeData ty (val l)) l n) lanes

/-- The completion group of a store that acts at issue (R96): in a transaction that of the commit point, which performs it; else its own,
for as long as a release buffer holds it. -/
def Cx.storeGroup (c : Cx) : Nat := match c.wp.tx with | some t => t.since | none => c.s.serial

/-- A store (R394). -/
def runStore (space : Space) (ty : MType) (rel : Bool) (f : L2ab) (off words : Nat) (dataField : Nat) (c : Cx) :
    Except Stop State := do
  let a := addrOp f.a f.pa space
  let b := { bOp f.b f.pb (ty == .u64) (storeRt ty) with field := dataField }
  let size := mtypeSize ty
  let ops := if dataField = 0 then [b, a] else [a, b]
  c.checkOps ops
  c.checkReads ops f.g
  let act := c.doing f.g
  if act == 0#64 then .ok (c.advance (c.endWaits c.s) words) else
  let xs := c.targets space (.store ty) size a off act
  checkLanes xs
  c.checkTx space 0xBE size (okLanes xs)
  let miss := missing xs
  let bad := if miss.isEmpty then sxBad (okLanes xs) else []
  require bad.isEmpty (.laneTrap tcFMTPARTIAL 0 (maskOf bad))
  require (!(c.l.owncompat && space == .sp && (xs.any fun x => !c.blk.owns (c.addrOf a off x.1) size))) (.trap tcOWNERSHIP 1)
  c.checkMissing .st miss
  let as := mkAccs c.s.serial (c.access xs a off size c.s.serial (.store ty rel) [] []) (xs.map (·.1))
  if miss.isEmpty then c.checkQuiet space as
  if miss.isEmpty then c.checkFlush space as
  c.checkBoard size false (okLanes xs)
  if !c.stackMapped (okLanes xs) size false || (c.det && !c.inTx && space != .stk && miss.isEmpty && c.lostNow as) then .ok (c.s.stalled.consume c.b) else
  let val := fun l => c.read (c.resolve b) l
  let (ps, sat) := storePieces ty (okLanes xs) val
  let s := c.s.cacheLeaves c.core c.l.fn c.l.ctx (xs.map (·.2))
  let s := if miss.isEmpty && sat then s.raise c.b c.w flFMTSAT else s
  if c.atOnce space && miss.isEmpty then
    match if c.inTx then .ok s else s.drawLines c.b (pieceRanges ps) with
    | .lost => .ok (s.stalled.consume c.b)
    | .ok s =>
      let s := ps.foldl (c.storeNow c.storeGroup) (if c.inTx then s else s.fresh.modWarp c.b c.w fun x => x.pass c.s.serial (maskOf (xs.map (·.1))))
      require (!(match (s.warp c.b c.w).tx with | some t => decide (64 < t.sectors.length) | none => false)) (.abort 3 0)
      .ok (c.retireMem s words [] (some c.storeGroup))
    | .full =>
      let group := s.serial
      .ok (c.retireMem (c.launch s .st miss a off true (c.storeAccs xs a off size group ty rel ps)) words [] (some group))
  else
    let group := s.serial
    let accs := if miss.isEmpty then c.storeAccs xs a off size group ty rel ps
      else c.rawStores a off size group ty rel (xs.map fun (x : Nat × LaneAddr) => x.1) val
    .ok (c.retireMem (c.launch s .st miss a off false accs) words [] (some group))

/-- `ST`, short: the data register stands in D (R394). -/
def execSt (f : Mi) (s : State) :=
  issue (.st f) s fun c => runStore .sh .b32 false
    { a := .v f.a, b := .v f.d, pa := .ident, pb := .ident, g := Guard.always } f.off.toNat 1 0 c
/-- `ST`, long. -/
def execStLong (space : Space) (ty : MType) (rel : Bool) (f : L2ab) (off : BitVec 8) (s : State) :=
  issue (.stLong space ty rel f off) s fun c => runStore space ty rel f off.toNat 2 2 c

/-! ### ATOM and RED -/

/-- How an atomic reads its data operands. -/
def atomRt : AtomTy → RT | .u64 => .w64 | .f32 => .f32 | _ => .w32

/-- An atomic at issue in DET mode (R245), lane by lane: the old values. -/
def Cx.atomsNow (c : Cx) (op : AtomOp) (ty : AtomTy) (returns : Bool) (b k : Nat → Dword) (group : Nat) :
    List (Nat × Target) → State → List (Nat × Dword) → State × List (Nat × Dword)
  | [], s, olds => (s, olds)
  | (l, t) :: xs, s, olds =>
    let (s, old) := s.atomOut c.b c.w t.place t.addr op ty returns (b l) (k l) t.far group (t.ord == .so)
    Cx.atomsNow c op ty returns b k group xs s (olds ++ [(l, old)])

/-- `ATOM` and `RED` (R302, R377): `d` is the destination of an `ATOM`. -/
def runAtom (i : Instr) (op : AtomOp) (space : Space) (ty : AtomTy) (ord : AtomOrd) (d : Option Opnd) (srcs : L2ab)
    (casC : Option Opnd) (c : Cx) : Except Stop State := do
  let wide := ty == .u64
  let size := atomSize ty
  let a := addrOp srcs.a srcs.pa space true
  let b := bOp srcs.b srcs.pb wide (atomRt ty)
  let k := casC.map fun o => cOp o wide (atomRt ty)
  let dst := d.map fun o => dOp o onlyV wide
  let ins := [a, b] ++ k.toList
  c.checkOps (dst.toList ++ ins)
  c.checkReads ins srcs.g
  let act := c.acting srcs.g
  if act == 0#64 then .ok (c.advance (c.endWaits c.s) 2) else
  -- helper lanes never trap, and are suppressed (R28)
  let xs := c.targets space .atom size a 0 (act &&& ~~~ c.wp.helpers)
  checkLanes xs
  let miss := missing xs
  c.checkMissing .atom miss
  let as := mkAccs c.s.serial (c.access xs a 0 size c.s.serial (.atom op ty ord d.isSome 0 0) [] []) (xs.map (·.1))
  if miss.isEmpty then c.checkQuiet space as
  if miss.isEmpty then c.checkFlush space as
  c.checkBoard size false (okLanes xs)
  if c.det && miss.isEmpty && c.lostNow as then .ok (c.s.stalled.consume c.b) else
  let regs := match dst with
    | some d => let r := c.dstReg d; (List.range d.span).map fun j => (r.1, r.2 + j)
    | none => []
  if act != fullMask c.width then c.allMergeable act regs
  let s := c.s.cacheLeaves c.core c.l.fn c.l.ctx (xs.map (·.2))
  let bv := fun l => c.read (c.resolve b) l
  let kv := fun l => match k with | some x => c.read (c.resolve x) l | none => 0#64
  let kind := fun l => AccKind.atom op ty ord dst.isSome (bv l) (kv l)
  let lines := if c.det && miss.isEmpty then s.drawLines c.b ((okLanes xs).filterMap fun x =>
    if x.2.space = 1 then some (x.2.addr, size) else none) else .ok s
  match lines with
  | .lost => .ok (s.stalled.consume c.b)
  | .full | .ok _ =>
  let full := match lines with | .full => true | _ => false
  let now := c.det && miss.isEmpty && !full
  let s := match lines with | .ok t => t | _ => s
  let (s, olds) := if now then c.atomsNow op ty dst.isSome bv kv c.s.serial (okLanes xs) s.fresh [] else (s, [])
  let (s, ids) := match dst with
    | some d =>
      let (s, ids, ds) := c.openResults i s d act none (now || xs.isEmpty) fun l =>
        ((olds.find? fun (o : Nat × Dword) => o.1 == l).map fun (o : Nat × Dword) => o.2).getD 0#64
      (s.pointAll c.b c.w c.pid act ds ids, ids)
    | none => (s, [])
  if now || xs.isEmpty then .ok (c.retireMem s 2 ids (if now then some c.s.serial else none))
  else
    let group := s.serial
    let accs := mkAccs group (fun l n => c.access xs a 0 size group (kind l) ids [] l n) (xs.map fun (x : Nat × LaneAddr) => x.1)
    .ok (c.retireMem (c.launch s .atom miss a 0 full accs) 2 ids (some group))

/-- `ATOM`. -/
def execAtom (op : AtomOp) (space : Space3) (ty : AtomTy) (ord : AtomOrd) (d a b c : Opnd) (g : Guard) (s : State) :=
  issue (.atom op space ty ord d a b c g) s fun x =>
    runAtom (.atom op space ty ord d a b c g) op (space3 space) ty ord (some d)
      { a := a, b := b, pa := .ident, pb := .ident, g := g } (if op == .cas then some c else none) x

/-- The operation of a reduction among the atomics. -/
def redAtom : RedOp → AtomOp | .add => .add | .min => .min | .max => .max | .and => .and | .or => .or | .xor => .xor

/-- `RED`. -/
def execRed (op : RedOp) (space : Space3) (ty : AtomTy) (rel : Bool) (f : L2ab) (s : State) :=
  issue (.red op space ty rel f) s fun x =>
    runAtom (.red op space ty rel f) (redAtom op) (space3 space) ty (if rel then .rel else .plain) none f none x

/-! ### FENCE and IFENCE -/

/-- `FENCE` (R179, R328): one event for each active lane, kept in program order until it is performed. In DET mode and
in a transaction every access it orders has been performed at issue. In a CONTAINED launch one that orders what is buffered performs it.
DEDUCED: log 9, 30. -/
def execFence (kind : FenceKind) (scope : Scope) (s : State) :=
  issue (.fence kind scope) s fun c =>
    let group := c.s.serial
    let a : Access := { (default : Access) with serial := group + 1, group := group, lanes := c.active, kind := .fence kind scope, place := .scratch }
    if c.allPerformed && !(c.l.contained && !c.blk.release.isEmpty && c.l.fenceFlushes kind scope) then .ok (c.retireMem c.s 1 [] none)
    else .ok (c.retireMem ({ c.s with serial := group + 2 }.modWarp c.b c.w fun x => { x with pend := x.pend ++ [a] }) 1 [] (some group))

/-- `IFENCE` (R196, R342): the issuing core's I-cache and every fetched-ahead word are discarded. It comes after the
warp's own writes, which it waits for, and performs where the release buffer holds them: a fetch reads memory. DEDUCED: log 30. -/
def execIfence (s : State) :=
  issue .ifence s fun c =>
    if !c.allPerformed || !(c.blk.release.isEmpty || c.s.flushClear c.core) then .error .stall
    else .ok (c.advance ((c.s.flushNow c.b).modCore c.core fun x => { x with icache := [] }) 1)

/-! ### WAITADDR and WAKE -/

/-- The words of a wait as the block reads them now. -/
def Cx.waitRead (c : Cx) (s : State) (wide : Bool) (x : WaitWord) : Dword :=
  let size := match x.sx with | some (_, _, f) => sxSize f | none => if wide then 8 else 4
  loadElem (if wide then .u64 else .b32) x.sx (s.seenBytes c.b x.place x.addr size)

/-- A wait for a translation in DET mode (R248): the access is in the replay queue, and the instruction stays where it is. -/
def Cx.awaits (c : Cx) : Bool := c.wp.replay.any fun r => r.kind == .wait && !r.stale && r.accs.isEmpty && r.fpc == c.pt.pc && r.mask &&& c.pt.mask != 0#64

/-- `WAITADDR` (R194, R402). In DET mode it never parks: the path waits and reads again at each turn (R248). One without a
translation enters the replay queue with what it compares (R229). DEDUCED: log 30. -/
def execWaitaddr (space : Space3) (wide acq : Bool) (f : L2) (s : State) :=
  issue (.waitaddr space wide acq f) s fun c => do
    let i := Instr.waitaddr space wide acq f
    let spc := space3 space
    let size := if wide then 8 else 4
    let d := dOp f.d onlyV wide
    let a := addrOp f.a f.pa spc
    let b := bOp f.b f.pb wide (if wide then .w64 else .w32)
    c.checkOps [d, a, b]
    c.checkReads [a, b] f.g
    let act := c.acting f.g
    if act == 0#64 then .ok (c.advance (c.endWaits c.s) 2) else
    require (!c.awaits) .stall
    let all := c.targets spc .wait size a 0 act
    let xs := all.filter fun x => match x.2 with | .ok _ => true | _ => !c.wp.helpers.has x.1
    checkLanes xs
    let miss := missing xs
    c.checkMissing .wait miss
    let want := fun l => if wide then c.read (c.resolve b) l else (c.read (c.resolve b) l).lo.setWidth 64
    let as := fun (group : Nat) (ids : List Nat) => mkAccs group (fun l n => c.access xs a 0 size group (.wait wide acq (some (want l))) ids [] l n) (xs.map (·.1))
    require (!miss.isEmpty || (c.clearFor (as c.s.serial []) && (!c.s.needsFlush c.b c.w (as c.s.serial []) || c.s.flushClear c.core))) .stall
    if miss.isEmpty then c.checkBoard size true (okLanes xs)
    let regs := (List.range d.span).map fun j => ((c.dstReg d).1, (c.dstReg d).2 + j)
    if act != fullMask c.width then c.allMergeable act regs
    let s := (if miss.isEmpty then c.s.flushFor c.b c.w (as c.s.serial []) else c.s).cacheLeaves c.core c.l.fn c.l.ctx (xs.map (·.2))
    let words := (okLanes xs).map fun x => ({ lane := x.1, want := want x.1, place := x.2.place, addr := x.2.addr, sx := x.2.sx } : WaitWord)
    let val := fun l => match words.find? (·.lane == l) with | some x => c.waitRead s wide x | none => 0#64
    let parks := maskOf ((words.map (·.lane)).filter fun l => !c.wp.helpers.has l)
    let differs := parks == 0#64 || parks.lanes.any fun l => val l != want l
    let seen := fun (s : State) => (okLanes xs).foldl (fun s x => s.spanRead c.b x.2.place x.2.addr size)
      (s.fresh.modWarp c.b c.w fun x => x.pass s.serial (maskOf (words.map (·.lane))))
    if miss.isEmpty && c.lostNow (as c.s.serial []) then .ok (c.s.stalled.consume c.b)
    else if !miss.isEmpty && c.det then .ok (c.park s.stalled .wait (c.addrOf a 0 ((miss.head?).getD 0)) (maskOf miss) false [])
    else if !miss.isEmpty then
      let (s, ids, ds) := c.openResults i s d act none false fun _ => 0#64
      let s := s.pointAll c.b c.w c.pid act ds ids
      .ok (c.retireMem (c.launch s .wait miss a 0 false (as s.serial ids)) 2 ids (some s.serial))
    else if differs then
      let (s, ids, ds) := c.openResults i (seen s) d act none true val
      .ok (c.retireMem (s.pointAll c.b c.w c.pid act ds ids) 2 ids none)
    else if c.det then .ok (c.endTurn (s.stalled.modPath c.b c.w c.pid fun p =>
      { p with waiting := some (wide, words.filter fun x => parks.has x.lane) }))
    else
      let (s, ids, ds) := c.openResults i (seen s) d act none false fun _ => 0#64
      let group := s.serial
      let s := s.fresh.pointAll c.b c.w c.pid act ds ids
      let s := c.assign s (ids.map Token.entry) [.park group]
      .ok (c.issued (c.endWaits s) |>.stalled |>.modPath c.b c.w c.pid fun p =>
        { p with park := some { space := space, wide := wide, words := words, lanes := parks, dests := ids, group := group, released := false } })

/-- `WAKE` (R195, R403): each lane's wake is performed after the lane's earlier writes to the word. In DET mode it makes its checks, and
parks where a lane has no translation, but wakes no warp: none parks there (R248). -/
def execWake (space : Space3) (f : L2a) (s : State) :=
  issue (.wake space f) s fun c => do
    let spc := space3 space
    let a := addrOp f.a f.pa spc
    c.checkOps [a]
    c.checkReads [a] f.g
    let act := c.doing f.g
    if act == 0#64 then .ok (c.advance (c.endWaits c.s) 2) else
    let xs := c.targets spc .wake 4 a 0 act
    checkLanes xs
    let miss := missing xs
    c.checkMissing .wait miss
    let s := (c.s.cacheLeaves c.core c.l.fn c.l.ctx (xs.map (·.2))).ineligible c.b
    if c.det && miss.isEmpty then .ok (c.retireMem s 2 [] none)
    else
      let group := s.serial
      let accs := mkAccs group (c.access xs a 0 4 group .wake [] []) (xs.map (·.1))
      .ok (c.retireMem (c.launch s .wait miss a 0 false accs) 2 [] (some group))

end Sys2Proof.Machine
end

