-- ==== Sys2Proof/Machine/SfuMath.lean ====
section
/-! DEFINITION. The functions of R132: the exact value rounded once to FP32. Quotients and roots are exact with a
sticky bit; the other functions are enclosed in fixed point, and the precision is doubled until both ends of the
enclosure round alike (DEDUCED, log 22). -/

namespace Sys2Proof.Machine

open Sys2Proof

/-! ### Enclosures -/

/-- Sum of 2^p / ((2k+1) n^(2k+1)), signs alternating for `alt`. -/
def invSeries (n2 : Nat) (alt : Bool) : Nat → Nat → Nat → Int → Int
  | 0, _, _, acc => acc
  | fuel + 1, pow, k, acc =>
    if pow = 0 then acc else
    let t : Int := (pow / (2 * k + 1) : Nat)
    invSeries n2 alt fuel (pow / n2) (k + 1) (if alt && k % 2 == 1 then acc - t else acc + t)

/-- 2^p × atan(1/n), or atanh(1/n). -/
def invFix (p n : Nat) (alt : Bool) : Int := invSeries (n * n) alt (p + 1) (2 ^ p / n) 0 0
/-- 2^p × π. -/
def piFix (p : Nat) : Nat := (16 * invFix p 5 true - 4 * invFix p 239 true).toNat
/-- 2^p × ln 2. -/
def ln2Fix (p : Nat) : Nat := (2 * invFix p 3 false).toNat

/-- Sum of t^n / n! in fixed point. -/
def expSeries (p t : Nat) : Nat → Nat → Nat → Nat → Nat
  | 0, _, _, acc => acc
  | fuel + 1, term, n, acc =>
    if term = 0 then acc else expSeries p t fuel (term * t / 2 ^ p / (n + 1)) (n + 1) (acc + term)
/-- 2^p × e^(t/2^p), for t/2^p below 20. -/
def expFix (p t : Nat) : Nat := expSeries p t (p + 100) (2 ^ p) 0 0

/-- Sum of (−1)^k t^(2k+1) / (2k+1)! in fixed point. -/
def sinSeries (p t : Nat) : Nat → Nat → Nat → Int → Int
  | 0, _, _, acc => acc
  | fuel + 1, term, k, acc =>
    if term = 0 then acc else
    sinSeries p t fuel (term * t / 2 ^ p * t / 2 ^ p / ((2 * k + 2) * (2 * k + 3))) (k + 1)
      (if k % 2 = 1 then acc - term else acc + term)
/-- 2^p × sin(t/2^p), for t/2^p below π/2. -/
def sinFix (p t : Nat) : Nat := (sinSeries p t (p + 8) t 0 0).toNat

/-- Sum of z^(2k+1) / (2k+1) in fixed point. -/
def atanhSeries (p z2 : Nat) : Nat → Nat → Nat → Nat → Nat
  | 0, _, _, acc => acc
  | fuel + 1, pow, k, acc =>
    if pow = 0 then acc else atanhSeries p z2 fuel (pow * z2 / 2 ^ p) (k + 1) (acc + pow / (2 * k + 1))

/-- The error that an enclosure allows for, in units of its precision. -/
def slack : Nat := 2 ^ 40

/-- A fixed-point magnitude rounded to FP32. -/
def roundFix (neg : Bool) (x : Nat) (p : Int) : Nat :=
  if x = 0 then fp32.signed neg 0 else (fp32.round .rne neg x (-p) false).1

/-- Round a magnitude `f p / 2^(p - scale)`, doubling the precision until both ends agree. DEDUCED: log 22. -/
def ziv (f : Nat → Nat) (neg : Bool) (scale : Int) : Nat → Nat → Nat
  | 0, p => roundFix neg (f p) (p - scale)
  | fuel + 1, p =>
    let x := f p
    let lo := roundFix neg (x - slack) (p - scale)
    if slack < x && lo == roundFix neg (x + slack) (p - scale) then lo else ziv f neg scale fuel (2 * p)

/-- A value known by its enclosures. DEDUCED: log 22. -/
def enclosed (f : Nat → Nat) (neg : Bool) (scale : Int) : Nat := ziv f neg scale 6 256

/-! ### Exact cases -/

/-- An exact value in FP32. -/
def exactF (neg : Bool) (man : Nat) (exp : Int) : Nat := (fp32.encode .rne (.fin neg man exp)).1
/-- An integer in FP32. -/
def intF (x : Int) : Nat := (fp32.encode .rne (FVal.ofInt x)).1
/-- Infinity in FP32. -/
def infF (neg : Bool) : Nat := fp32.signed neg fp32.infMag
/-- NaN with NV. -/
def invalidF : Nat × Word := (fp32.nan, flNV)

/-- Integer square root, bit by bit. -/
def isqrtFrom (n : Nat) : Nat → Nat → Nat
  | 0, r => r
  | i + 1, r => isqrtFrom n i (if (r + 2 ^ i) * (r + 2 ^ i) ≤ n then r + 2 ^ i else r)
/-- Floor of a square root below 2^80. -/
def isqrt (n : Nat) : Nat := isqrtFrom n 80 0

/-- OF for an overflow to infinity (R132). -/
def overF (r : Nat) : Nat × Word := (r, if r % 2 ^ 31 == fp32.infMag then flOF else 0#32)

/-- 1 / x (R376). -/
def rcpF (neg : Bool) (man : Nat) (exp : Int) : Nat × Word :=
  let k := 60 + man.log2
  overF (fp32.round .rne neg (2 ^ k / man) (-(k : Int) - exp) (2 ^ k % man != 0)).1

/-- √x (R393). -/
def sqrtF (man : Nat) (exp : Int) : Nat :=
  let k : Nat := if exp % 2 = 0 then 60 else 61
  let n := man * 2 ^ k
  let r := isqrt n
  (fp32.round .rne false r ((exp - k) / 2) (r * r != n)).1

/-- 1 / √x (R381). -/
def rsqF (man : Nat) (exp : Int) : Nat :=
  let k : Nat := if exp % 2 = 0 then 100 else 101
  let r := isqrt (2 ^ k / man)
  (fp32.round .rne false r (-((k : Int) + exp) / 2) (r * r * man != 2 ^ k)).1

/-- 2^x (R324). -/
def exp2F (neg : Bool) (man : Nat) (exp : Int) : Nat × Word :=
  let d : Nat := 2 ^ (-exp).toNat
  let x : Int := (if neg then -1 else 1) * ((man * 2 ^ exp.toNat : Nat) : Int)
  let n := x / d
  let f := (x % d).toNat
  if 128 ≤ n then (infF false, flOF)
  else if n < -150 then (0, flUF)
  else if f = 0 then (exactF false 1 n, if n < -149 then flUF else 0#32)
  else (enclosed (fun p => expFix p (ln2Fix p * f / d)) false n, if n < -126 then flUF else 0#32)

/-- log2 x for x > 0 (R356). -/
def log2F (man : Nat) (exp : Int) : Nat :=
  let top := man.log2
  let big := decide (3 * 2 ^ top ≤ 2 * man)
  let den := if big then 2 ^ (top + 1) else 2 ^ top
  let e : Int := exp + top + (if big then 1 else 0)
  if man = den then intF e else
  let num := if man < den then den - man else man - den
  -- sign and fixed-point value of log2(man / den)
  let lg := fun p =>
    let z := num * 2 ^ p / (man + den)
    let m : Int := (2 * atanhSeries p (z * z / 2 ^ p) (p + 8) z 0 0 * 2 ^ p / ln2Fix p : Nat)
    if man < den then -m else m
  let neg := decide (e < 0) || (e == 0 && decide (man < den))
  enclosed (fun p => (e * 2 ^ p + lg p).natAbs) neg 0

/-- sin or cos of `q/4 + a/(4 den)` revolutions with 0 < a < den, by the quadrant. -/
def sinQuad (q a den : Nat) : Nat :=
  enclosed (fun p => sinFix p (piFix p * (if q % 2 = 1 then den - a else a) / (2 * den))) (decide (2 ≤ q)) 0
/-- The exact sine of a quadrant's start: +0, 1, +0, −1. -/
def sinStart (q : Nat) : Nat := if q % 2 = 0 then 0 else exactF (q == 3) 1 0

/-- Sine (`cosine` false) or cosine of a finite x in revolutions (R317, R391). -/
def trigF (cosine neg : Bool) (man : Nat) (exp : Int) : Nat :=
  let den := 2 ^ (-exp).toNat
  -- four times the fraction of |x|, counted backwards for the sine of a negative x
  let r := 4 * ((man * 2 ^ exp.toNat) % den)
  let r := if neg && !cosine then (4 * den - r) % (4 * den) else r
  let q := (r / den + if cosine then 1 else 0) % 4
  if r % den = 0 then sinStart q else sinQuad q (r % den) den

/-- tanh x (R396). -/
def tanhF (neg : Bool) (man : Nat) (exp : Int) : Nat :=
  if (FVal.fin false man exp).lt (.fin false 1 (-13)) then exactF neg man exp
  else if !(FVal.fin false man exp).lt (.fin false 10 0) then exactF neg 1 0
  else
    let f := fun p =>
      let t := if 0 ≤ exp then man * 2 ^ (exp.toNat + p + 1) else man * 2 ^ (p + 1) / 2 ^ (-exp).toNat
      let e := expFix p t
      (e - 2 ^ p) * 2 ^ p / (e + 2 ^ p)
    enclosed f neg 0

/-- The SFU functions. -/
inductive SfuFn where
  | rcp | rsq | sqrt | exp2 | log2 | sin | cos | tanh
  deriving DecidableEq, Repr, Inhabited

/-- Result and flags of a function at an FP32 value that is no NaN (R132). DEDUCED: log 22. -/
def sfuValue (f : SfuFn) (x : FVal) : Nat × Word :=
  match f, x with
  | _, .nan _ => (fp32.nan, 0#32)
  | .rcp, .inf n => (fp32.signed n 0, 0#32)
  | .rcp, .fin n m e => if m = 0 then (infF n, flDZ) else rcpF n m e
  | .rsq, .inf n => if n then invalidF else (0, 0#32)
  | .rsq, .fin n m e => if m = 0 then (infF n, flDZ) else if n then invalidF else (rsqF m e, 0#32)
  | .sqrt, .inf n => if n then invalidF else (infF false, 0#32)
  | .sqrt, .fin n m e => if m = 0 then (fp32.signed n 0, 0#32) else if n then invalidF else (sqrtF m e, 0#32)
  | .exp2, .inf n => (if n then 0 else infF false, 0#32)
  | .exp2, .fin n m e => exp2F n m e
  | .log2, .inf n => if n then invalidF else (infF false, 0#32)
  | .log2, .fin n m e => if m = 0 then (infF true, flDZ) else if n then invalidF else (log2F m e, 0#32)
  | .sin, .inf _ => invalidF
  | .sin, .fin n m e => if m = 0 then (fp32.signed n 0, 0#32) else (trigF false n m e, 0#32)
  | .cos, .inf _ => invalidF
  | .cos, .fin n m e => (trigF true n m e, 0#32)
  | .tanh, .inf n => (exactF n 1 0, 0#32)
  | .tanh, .fin n m e => if m = 0 then (fp32.signed n 0, 0#32) else (tanhF n m e, 0#32)

/-- A unary SFU function on a pattern (R297): flush, the value of R132, flush with UF alone. -/
def sfuApply (f : SfuFn) (ftz : Bool) (x : Nat) : Nat × Word :=
  match fp32.decode (fp32.flush ftz x) with
  | .nan sig => (fp32.nan, if sig then flNV else 0#32)
  | v =>
    let (y, fl) := sfuValue f v
    if ftz && fp32.subnormal y then (fp32.signed (y.testBit 31) 0, fl ||| flUF) else (y, fl)

end Sys2Proof.Machine
end

