-- ==== Sys2Proof/Machine/Sfu.lean ====
section
/-! DEFINITION. SFU instructions: the unary functions (R297, R132), activation tables (R133 to R135, R300, R354), random
numbers (R138, R139, R380). -/

namespace Sys2Proof.Machine

open Sys2Proof

/-! ### Unary functions -/

/-- The mould of R297. -/
def semSfu (f : L2u) (n base : Nat) (ftz : Bool) (fn : SfuFn) : Sem :=
  { semUn f n base (f32Mod { rnd := .rne, ftz := ftz }) none false .f32 (fun x => floatRes (sfuApply fn ftz x.toNat)) with
    sfu := 2, canFlag := true }

/-- R376. -/
def semRcp (f : L2u) (n : Nat) (ftz : Bool) : Sem := semSfu f n 0x2C ftz .rcp
/-- R381. -/
def semRsq (f : L2u) (n : Nat) (ftz : Bool) : Sem := semSfu f n 0x2D ftz .rsq
/-- `SQRT`. -/
def semSqrt (f : L2u) (n : Nat) (ftz : Bool) : Sem := semSfu f n 0x2E ftz .sqrt
/-- `EXP2`. -/
def semExp2 (f : L2u) (n : Nat) (ftz : Bool) : Sem := semSfu f n 0x2F ftz .exp2
/-- R356. -/
def semLog2 (f : L2u) (n : Nat) (ftz : Bool) : Sem := semSfu f n 0x30 ftz .log2
/-- R391. -/
def semSin (f : L2u) (n : Nat) (ftz : Bool) : Sem := semSfu f n 0x31 ftz .sin
/-- R317. -/
def semCos (f : L2u) (n : Nat) (ftz : Bool) : Sem := semSfu f n 0x32 ftz .cos
/-- R396. -/
def semTanh (f : L2u) (n : Nat) (ftz : Bool) : Sem := semSfu f n 0x33 ftz .tanh

/-- `RCP`, short. -/
def execRcp (f : Rr) (s : State) := issue (.rcp f) s fun c => runLane (.rcp f) (semRcp (longRr f) 1 false) c
/-- `RCP`, long. -/
def execRcpLong (f : L2u) (ftz : Bool) (s : State) := issue (.rcpLong f ftz) s fun c => runLane (.rcpLong f ftz) (semRcp f 2 ftz) c
/-- `RSQ`, short. -/
def execRsq (f : Rr) (s : State) := issue (.rsq f) s fun c => runLane (.rsq f) (semRsq (longRr f) 1 false) c
/-- `RSQ`, long. -/
def execRsqLong (f : L2u) (ftz : Bool) (s : State) := issue (.rsqLong f ftz) s fun c => runLane (.rsqLong f ftz) (semRsq f 2 ftz) c
/-- `SQRT`, short. -/
def execSqrt (f : Rr) (s : State) := issue (.sqrt f) s fun c => runLane (.sqrt f) (semSqrt (longRr f) 1 false) c
/-- `SQRT`, long. -/
def execSqrtLong (f : L2u) (ftz : Bool) (s : State) := issue (.sqrtLong f ftz) s fun c => runLane (.sqrtLong f ftz) (semSqrt f 2 ftz) c
/-- `EXP2`, short. -/
def execExp2 (f : Rr) (s : State) := issue (.exp2 f) s fun c => runLane (.exp2 f) (semExp2 (longRr f) 1 false) c
/-- `EXP2`, long. -/
def execExp2Long (f : L2u) (ftz : Bool) (s : State) := issue (.exp2Long f ftz) s fun c => runLane (.exp2Long f ftz) (semExp2 f 2 ftz) c
/-- `LOG2`, short. -/
def execLog2 (f : Rr) (s : State) := issue (.log2 f) s fun c => runLane (.log2 f) (semLog2 (longRr f) 1 false) c
/-- `LOG2`, long. -/
def execLog2Long (f : L2u) (ftz : Bool) (s : State) := issue (.log2Long f ftz) s fun c => runLane (.log2Long f ftz) (semLog2 f 2 ftz) c
/-- `SIN`, short. -/
def execSin (f : Rr) (s : State) := issue (.sin f) s fun c => runLane (.sin f) (semSin (longRr f) 1 false) c
/-- `SIN`, long. -/
def execSinLong (f : L2u) (ftz : Bool) (s : State) := issue (.sinLong f ftz) s fun c => runLane (.sinLong f ftz) (semSin f 2 ftz) c
/-- `COS`, short. -/
def execCos (f : Rr) (s : State) := issue (.cos f) s fun c => runLane (.cos f) (semCos (longRr f) 1 false) c
/-- `COS`, long. -/
def execCosLong (f : L2u) (ftz : Bool) (s : State) := issue (.cosLong f ftz) s fun c => runLane (.cosLong f ftz) (semCos f 2 ftz) c
/-- `TANH`, short. -/
def execTanh (f : Rr) (s : State) := issue (.tanh f) s fun c => runLane (.tanh f) (semTanh (longRr f) 1 false) c
/-- `TANH`, long. -/
def execTanhLong (f : L2u) (ftz : Bool) (s : State) := issue (.tanhLong f ftz) s fun c => runLane (.tanhLong f ftz) (semTanh f 2 ftz) c

/-! ### Buffers of a context (R134, R136) -/

/-- The buffers of a context, `n` of them, zeroed at version 0 when nothing has been loaded. -/
def buffersOf (n : Nat) (ctx : Word) (xs : List (Word × List Buffer)) : List Buffer :=
  match xs.find? (·.1 == ctx) with
  | some x => x.2
  | none => List.replicate n default

/-- Rewrite one buffer of a context. -/
def modBuffer (n : Nat) (ctx : Word) (i : Nat) (f : Buffer → Buffer) (xs : List (Word × List Buffer)) :
    List (Word × List Buffer) :=
  (ctx, modAt i f (buffersOf n ctx xs)) :: xs.filter (·.1 != ctx)

/-- An activation table of a context. -/
def CoreSt.act (c : CoreSt) (ctx : Word) (t : Nat) : Buffer := (buffersOf 8 ctx c.acts).getD t default
/-- A chain slot of a context. -/
def CoreSt.chain (c : CoreSt) (ctx : Word) (k : Nat) : Buffer := (buffersOf 4 ctx c.chains).getD k default

/-- The flip of a buffer (R134): the image that has come in becomes current, the version rises. -/
def Buffer.flip (b : Buffer) : Buffer :=
  match b.incoming with
  | [] => b
  | x :: rest => { version := b.version + 1, image := x.2.2.2, incoming := rest }

/-- Does a warp wait for a flip of its own? -/
def Buffer.owns (b : Buffer) (blk w : Nat) : Bool := b.incoming.any fun x => x.1 == blk && x.2.1 == w

/-- Entries that R169 gives a core's scoreboard. -/
def boardSize : Nat := 96

/-- The lane whose operands a warp-wide instruction takes (R134): the lowest that acts and is no helper. -/
def Cx.leader (c : Cx) (g : Guard) : Option Nat := (c.doing g).lowest

/-- Checks before an engine takes an image in shared memory: the warp's own writes are performed, the range is not held, and the scoreboard
has room. -/
def Cx.imageFree (c : Cx) (x n : Nat) : Except Stop Unit := do
  require c.allPerformed .stall
  require (!c.s.boarded c.b x n true && decide (c.s.boardUsed c.core < boardSize)) .stall

/-- A read of the block's own shared memory at issue: what the release buffer holds there is performed first (R49, R182), and a byte marked as
poisoned is an uncorrectable error (R261). The answer is the path in the state that is read. -/
def Cx.ownReady (c : Cx) (x n : Nat) : Except Stop Cx := do
  let own := c.blk.buffers (.shared c.b) x n
  require (!own || c.s.flushClear c.core) .stall
  let c := if own then c.at (c.s.flushNow c.b) else c
  require (!c.s.sharedBad c.b x n) .lost
  .ok c

/-- An engine reads an image from shared memory at issue. -/
def Cx.imageReady (c : Cx) (x n : Nat) : Except Stop Cx := do
  c.imageFree x n
  c.ownReady x n

/-! ### LDACT -/

/-- Bytes of a table image (R133). -/
def actSize : Nat := 3088

/-- A word of an image; bytes beyond it are 0. -/
def imgWord (img : List Byte) (i : Nat) : Nat := leNat ((img.drop i).take 4)

/-- Step exponent of a table image (R133). -/
def actStep (img : List Byte) : Int := (BitVec.ofNat 8 (imgWord img 4)).toInt

/-- Header checks of a table image (R134). -/
def actHeaderOk (img : List Byte) : Bool :=
  (match fp32.decode (imgWord img 0) with | .fin .. => true | _ => false) &&
    decide (-24 ≤ actStep img) && decide (actStep img ≤ 8) && imgWord img 4 / 256 == 0

/-- `LDACT` (R134, R354): an SFU instruction, which takes the quadrant's SFU as the others do (R132). -/
def execLdact (t : Fin 8) (f : L2a) (s : State) :=
  issue (.ldact t f) s fun c => do
    let a := addrOp f.a f.pa .sh
    c.checkOps [a]
    c.checkReads [a] f.g
    match c.leader f.g with
    | none => .ok (c.advance (c.endWaits c.s) 2)
    | some l =>
      let x := c.addrOf a 0 l
      require (x % 16 == 0) (.trap tcMISALIGN 0)
      require (decide (x + actSize ≤ c.l.shBytes)) (.trap tcCOPYRANGE 1)
      require ((c.cst.act c.l.ctxid t.val).incoming.isEmpty && c.sfuFree) .stall
      let c ← c.imageReady x actSize
      let img := c.s.seenBytes c.b (.shared c.b) x actSize
      require (actHeaderOk img) (.trap tcRESBITS 0)
      let id := c.s.serial
      let s := c.s.fresh.modCore c.core fun k =>
        { k with holds := k.holds ++ [{ id := id, block := c.b, lo := x, len := actSize, loads := false }],
                 acts := modBuffer 8 c.l.ctxid t.val (fun b => { b with incoming := b.incoming ++ [(c.b, c.w, id, img)] }) k.acts }
      let s := c.assign (c.useSfu s 2) [] [.request id]
      .ok (c.advance (c.endWaits s) 2)

/-! ### ACTV -/

/-- R135 on finite x: below, segment or above. -/
def actSegment (img : List Byte) (neg : Bool) (man : Nat) (exp : Int) : Nat × Word :=
  match fp32.decode (imgWord img 0) with
  | .fin ln lm le =>
    let st := actStep img
    let e := min exp (min le st)
    let step : Int := 2 ^ (st - e).toNat
    let diff := sigAt neg man exp e - sigAt ln lm le e
    if diff < 0 then (imgWord img 8, 0#32)
    else if 256 * step ≤ diff then (imgWord img 12, 0#32)
    else
      let i := (diff / step).toNat
      let (u, f0) := fp32.encode .rne (.fin false (diff - i * step).toNat e)
      let (v, f1) := fp32.fma rneMod u (imgWord img (24 + 12 * i)) (imgWord img (20 + 12 * i))
      let (r, f2) := fp32.fma rneMod u v (imgWord img (16 + 12 * i))
      (r, f0 ||| f1 ||| f2)
  | _ => (0, 0#32)

/-- The value of an activation table (R135). A NaN pattern in the BELOW or ABOVE word is the result as it stands: R135 gives the word,
and R72 makes produced NaNs canonical (DESIGN CHOICE, log 37). DEDUCED: log 33. -/
def actValue (img : List Byte) (ftz : Bool) (x : Nat) : Nat × Word :=
  match fp32.decode (fp32.flush ftz x) with
  | .nan sig => (fp32.nan, if sig then flNV else 0#32)
  | .inf neg => fp32.flushResult ftz (imgWord img (if neg then 8 else 12), 0#32)
  | .fin neg man exp => fp32.flushResult ftz (actSegment img neg man exp)

/-- R135, R300: the table's image and version are those current at issue. DEDUCED: log 33. -/
def semActv (f : L2u) (t : Nat) (ftz : Bool) (b : Buffer) : Sem :=
  { semUn f 2 0x34 (f32Mod { rnd := .rne, ftz := ftz }) none false .f32 (fun x => floatRes (actValue b.image ftz x.toNat)) with
    sfu := 2, canFlag := true, version := some (t, b.version.toNat) }

/-- `ACTV`: it waits for the warp's own flips of the table. -/
def execActv (f : L2u) (t : Fin 8) (ftz : Bool) (s : State) :=
  issue (.actv f t ftz) s fun c =>
    let b := c.cst.act c.l.ctxid t.val
    if b.owns c.b c.w then .error .stall else runLane (.actv f t ftz) (semActv f t.val ftz b) c

/-! ### RNG -/

/-- One round of the network (R139). -/
def rngRound (k0 k1 : Word) (x : Word × Word × Word × Word) (j : Nat) : Word × Word × Word × Word :=
  let (x0, x1, x2, x3) := x
  let x0 := x0 + x1
  let x3 := (x3 ^^^ x0).rotateLeft ([13, 7, 22, 17].getD (j % 4) 0)
  let x2 := x2 + x3
  let x1 := (x1 ^^^ x2).rotateLeft ([9, 29, 3, 11].getD (j % 4) 0)
  if j % 4 = 3 then
    let m := BitVec.ofNat 32 ((j + 1) / 4)
    (x0 + k0 + m * 0x6A5D3C29#32, x1 + k1 + m * 0xD2E417B3#32, x2, x3)
  else (x0, x1, x2, x3)

/-- The network (R139): y0 to y3. -/
def rngOut (k0 k1 : Word) (ctr gid : Dword) : List Word :=
  let (y0, y1, y2, y3) := (List.range 12).foldl (rngRound k0 k1) (ctr.lo, ctr.hi, gid.lo, gid.hi)
  [y0 + ctr.lo, y1 + ctr.hi, y2 + gid.lo, y3 + gid.hi]

/-- The global thread ID of a lane (R139). -/
def Cx.threadId (c : Cx) (l : Nat) : Nat := c.blk.num * 1024 + c.wp.idx * c.width + l

/-- Operands of `RNG` (R138): four registers from a multiple of 4, and an even pair. -/
def rngOps (d a : Opnd) (pa : Perm) : List OpSpec :=
  [{ o := d, field := 0, dest := true, acc := onlyV, align := 4, count := 4 }, { o := a, field := 1, pair := true, acc := onlyV, rt := .w64, perm := pa }]

/-- Do the resolved registers overlap (R138)? DEDUCED: log 16. -/
def rngOverlap (d a : Nat) : Bool := overlap d 4 a 2

/-- The checks of R138: `BADOPND` of direct codes, then `INDEX` of resolved ones. The overlap counts at A, the later field. -/
def Cx.checkRng (c : Cx) (d a : Opnd) (pa : Perm) : Except Stop Unit :=
  match d, a with
  | .v n, .v m => do
    match firstBad (fun x => x.ok c.wp.grant c.width false) (rngOps d a pa) with
    | some x => .error (.trap tcBADOPND x.field)
    | none => require (!rngOverlap n.toNat m.toNat) (.trap tcBADOPND 1)
  | _, _ => do
    c.checkOps (rngOps d a pa)
    let at_ := fun (o : Opnd) => ((c.resolve { o := o, field := 0, acc := onlyV }).reg?.map (·.2)).getD 0
    require (!rngOverlap (at_ d) (at_ a)) (.trap tcINDEX (match d with | .idx _ => 0 | _ => 1))

/-- `RNG` (R138, R380). Under a permutation of A a lane's counter, in the test, the network and the sum, is the one that the lane reads
(DEDUCED, log 38). -/
def execRng (d : Opnd) (a : PermOpnd) (g : Guard) (s : State) :=
  issue (.rng d a g) s fun c => do
    c.checkRng d a.o a.perm
    let ops := rngOps d a.o a.perm
    c.checkReads ops g
    let act := c.acting g
    if act == 0#64 then .ok (c.advance (c.endWaits c.s) 2) else
    let src := c.resolve (ops.getD 1 default)
    require (act.lanes.all fun l => c.read src l != 0xFFFFFFFFFFFFFFFF#64) (.trap tcRNGWRAP 0)
    require c.sfuFree .stall
    let dn := (c.dstReg (ops.getD 0 default)).2
    let an := (c.dstReg (ops.getD 1 default)).2
    let ds := ((List.range 4).map fun i => (RegClass.v, dn + i)) ++ [(.v, an), (.v, an + 1)]
    if act != fullMask c.width then c.allMergeable act ds
    let (k0, k1) := c.l.seed
    let row := fun l =>
      let x := c.read src l
      rngOut k0 k1 x (BitVec.ofNat 64 (c.threadId l)) ++ [(x + 1).lo, (x + 1).hi]
    let rows := (List.range c.width).map fun l =>
      if act.has l then row l else ds.map fun r => c.cst.regLane c.wp c.pt r.1 r.2 l
    let vals := (List.range 6).map fun i => rows.map fun r => r.getD i 0#32
    let (s, ids) := c.allocAll c.s (c.newEntry none (some (encodePair (.rng d a g))) true none 0#32 false) ds vals []
    let s := c.assign (s.pointAll c.b c.w c.pid act ds ids) (ids.map Token.entry) []
    .ok (c.advance (c.endWaits (c.useSfu s 4)) 2)

end Sys2Proof.Machine
end

