-- ==== Sys2Proof/Machine/Chains.lean ====
section
/-! DEFINITION. Current reservations (R267) and chains (R136, R137, R312, R313), with the flips of tables and slots
(R134). -/

namespace Sys2Proof.Machine

open Sys2Proof

/-! ### Chain images (R136) -/

/-- The operations that a chain may hold: VEC or SFU, lineage-bearing, with one 32-bit destination, less those that R136
excludes. -/
def chainSem : Instr → Option Sem
  | .iaddLong f t => some (semIadd f 2 t)
  | .isubLong f t => some (semIsub f 2 t)
  | .imulLong f t => some (semImul f 2 t)
  | .imulhiLong f t => some (semImulhi f 2 t)
  | .imad f t => some (semImad f t)
  | .iabsLong f t => some (semIabs f 2 t)
  | .iminLong f t => some (semImin f 2 t)
  | .imaxLong f t => some (semImax f 2 t)
  | .shlLong f t => some (semShift f 0x0E t shlFn)
  | .shrLong f t => some (semShift f 0x0F t shrFn)
  | .sarLong f t => some (semShift f 0x10 t sarFn)
  | .andLong f => some (semLogic f 2 0x11 (· &&& ·))
  | .orLong f => some (semLogic f 2 0x12 (· ||| ·))
  | .xorLong f => some (semLogic f 2 0x13 (· ^^^ ·))
  | .logic3 f n => some (semLogic3 f n)
  | .popcLong f => some (semWord f 2 0x15 fun x => BitVec.ofNat 32 (popcFn x))
  | .clzLong f => some (semWord f 2 0x16 fun x => BitVec.ofNat 32 (clzFn x))
  | .brevLong f => some (semWord f 2 0x17 brevFn)
  | .bfx f t => some (semBfx f t)
  | .bfi f => some (semBfi f)
  | .lea f t => some (semLea f t)
  | .faddLong f m => some (semFadd f 2 m)
  | .fsubLong f m => some (semFsub f 2 m)
  | .fmulLong f m => some (semFmul f 2 m)
  | .ffma f m => some (semFfma f m)
  | .fminLong f z => some (semFmin f 2 z)
  | .fmaxLong f z => some (semFmax f 2 z)
  | .fclass f t => some (semFclass f t)
  | .frnd f t m x => some (semFrnd f t m x)
  | .halfmad f t m => some (semHalfmad f t m)
  | .cvt f r d k => some (semCvt f r d k)
  | .rcpLong f z => some (semRcp f 2 z)
  | .rsqLong f z => some (semRsq f 2 z)
  | .sqrtLong f z => some (semSqrt f 2 z)
  | .exp2Long f z => some (semExp2 f 2 z)
  | .log2Long f z => some (semLog2 f 2 z)
  | .sinLong f z => some (semSin f 2 z)
  | .cosLong f z => some (semCos f 2 z)
  | .tanhLong f z => some (semTanh f 2 z)
  | _ => none

/-- A source of a chain operation: a temporary, an input, or an inline constant; a pair from an even number. -/
def chainSrcOk (x : OpSpec) : Bool :=
  x.perm == .ident && (match x.o with
    | .v n => decide (n.toNat + x.span ≤ 12) && n.toNat % x.step == 0
    | .const _ => true
    | _ => false)

/-- Is an operation one that R136 allows? -/
def chainOpOk (m : Sem) : Bool :=
  m.dst.perm == .ident && !m.dst.pair && m.guard == Guard.always && m.srcs.all chainSrcOk &&
    (match m.dst.o with | .v n => decide (n.toNat < 8) | _ => false)

/-- The operations of an image: `none` when one breaks a rule (R136). -/
def chainOps : List Word → Option (List Sem)
  | [] => some []
  | [_] => none
  | w0 :: w1 :: rest =>
    match decodeWords w0 w1 with
    | .error _ => none
    | .ok i => match chainSem i, chainOps rest with
      | some m, some ms => if w0.getLsbD 31 && chainOpOk m then some (m :: ms) else none
      | _, _ => none

/-- Number of operations that word 0 names. -/
def chainN (w0 : Word) : Nat := bitsOf w0.toNat 4 0

/-- Word 0 of an image (R136). -/
def chainHeadOk (w0 : Word) : Bool :=
  decide (1 ≤ chainN w0) && decide (chainN w0 ≤ 16) && (w0 &&& 0xFFFFF8E0#32) == 0#32

/-- A source's value in a chain: temporaries and inputs are registers 0 to 11. DEDUCED: log 31. -/
def chainRead (regs : List Word) (x : OpSpec) : Dword :=
  match x.o with
  | .v n => if x.pair then Dword.pair (regs.getD n.toNat 0) (regs.getD (n.toNat + 1) 0) else (regs.getD n.toNat 0).setWidth 64
  | .const k => constRead k x.rt
  | _ => 0#64

/-- Run the operations of a chain in one lane (R137): registers and the flags so far. -/
def chainRun (w : Nat) : List Sem → List Word → Word → List Word × Word
  | [], regs, fl => (regs, fl)
  | m :: ms, regs, fl =>
    let r := m.f { src := fun i _ => match m.srcs[i]? with | some x => chainRead regs x | none => 0#64,
                   act := fullMask w, help := 0#64, active := fullMask w, w := w } 0
    chainRun w ms (regs.set (match m.dst.o with | .v n => n.toNat | _ => 0) r.val.lo) (fl ||| r.flags)

/-! ### CHLOAD -/

/-- `CHLOAD` (R136, R312). -/
def execChload (k : Fin 4) (f : L2a) (s : State) :=
  issue (.chload k f) s fun c => do
    let a := addrOp f.a f.pa .sh
    c.checkOps [a]
    c.checkReads [a] f.g
    match c.leader f.g with
    | none => .ok (c.advance (c.endWaits c.s) 2)
    | some l =>
      let x := c.addrOf a 0 l
      require (x % 4 == 0) (.trap tcMISALIGN 0)
      require (decide (x + 4 ≤ c.l.shBytes)) (.trap tcCOPYRANGE 1)
      require ((c.cst.chain c.l.ctxid k.val).incoming.isEmpty) .stall
      let c ← c.imageReady x 4
      let w0 := BitVec.ofNat 32 (leNat (c.s.seenBytes c.b (.shared c.b) x 4))
      let size := 4 + 8 * chainN w0
      require (decide (x + size ≤ c.l.shBytes)) (.trap tcCOPYRANGE 1)
      let c ← c.imageReady x size
      let img := c.s.seenBytes c.b (.shared c.b) x size
      require (chainHeadOk w0 && (chainOps ((leWords img).drop 1)).isSome) (.trap tcRESBITS 0)
      let id := c.s.serial
      let s := c.s.fresh.modCore c.core fun j =>
        { j with holds := j.holds ++ [{ id := id, block := c.b, lo := x, len := size, loads := false }],
                 chains := modBuffer 4 c.l.ctxid k.val (fun b => { b with incoming := b.incoming ++ [(c.b, c.w, id, img)] }) j.chains }
      let s := c.assign s [] [.request id]
      .ok (c.advance (c.endWaits s) 2)

/-! ### CHRUN -/

/-- R137: inputs i0 to i2 and the old destination; the class of a constant operand is the word. -/
def semChrun (f : L3) (k : Nat) (b : Buffer) : Sem :=
  let ws := leWords b.image
  let ops := ((chainOps (ws.drop 1)).getD [])
  let res := bitsOf (ws.getD 0 0#32).toNat 10 8
  { dst := dOp f.d onlyV, srcs := [aOp f.a f.pa, bOp f.b, cOp f.c], guard := f.g, words := 2, base := 0x51, mod := k,
    perms := [f.pa.code], version := some (k, b.version.toNat), readsDst := true, canFlag := ops.any (·.canFlag), fpGroup := true,
    f := fun x l =>
      let (regs, fl) := chainRun x.w ops
        (List.replicate 8 0#32 ++ [(x.src 0 l).lo, (x.src 1 l).lo, (x.src 2 l).lo, (x.src 3 l).lo]) 0#32
      { val := (regs.getD res 0#32).setWidth 64, flags := fl } }

/-- The reservation of a path's `CHRUN`: granted, waiting, or not asked for. -/
def Cx.chrunState (c : Cx) : Option Bool := (c.cst.chrun.find? fun x => x.1 == c.b && x.2.1 == c.w && x.2.2.1 == c.pid).map (·.2.2.2)

/-- Does `CHRUN` execute, or does it bind or do nothing? -/
def Cx.chrunRuns (c : Cx) (m : Sem) : Bool :=
  c.acting m.guard != 0#64 && !(c.looksUp m && (c.lookup c.s (c.keyOf m)).isSome)

/-- A `CHRUN` that executes asks for current first (R137, R267); the request is made once, and the path stalls. -/
def Cx.askChrun (c : Cx) : State :=
  let s := c.s.stalled
  if c.chrunState.isSome then s else
  (s.modCore c.core fun k => { k with chrun := k.chrun ++ [(c.b, c.w, c.pid, false)] }).askCurrent .vector c.core c.pid 1

/-- The path's `CHRUN` is over: its request for current, or its reservation, is given back (R267). -/
def Cx.endRequest (c : Cx) (s : State) : State := s.endChrun c.b c.w (· != c.pid)

/-- `CHRUN` (R137, R313): checks and traps as a lane operation; it executes once its reservation is granted, and gives it back
when it has executed, or has bound, done nothing or stopped for good. The flags of its lanes come of executing it. -/
def execChrun (f : L3) (k : Fin 4) (s : State) :=
  issue (.chrun f k) s fun c =>
    let b := c.cst.chain c.l.ctxid k.val
    if b.owns c.b c.w then .error .stall else
    let m := semChrun f k.val b
    match runLane (.chrun f k) m c with
    | .error (.trap cause info) => .ok ((c.at (c.endRequest c.s)).stop (.chrun f k) (.trap cause info))
    | .error (.laneTrap cause info lanes) =>
      if c.chrunRuns m && c.chrunState != some true then .ok c.askChrun else
      .ok ((c.at (c.endRequest c.s)).fail (.chrun f k) (runLane (.chrun f k) m) (.laneTrap cause info lanes))
    | .error e => .error e
    | .ok s' => if c.chrunRuns m && c.chrunState != some true then .ok c.askChrun else .ok (c.endRequest s')

/-! ### Flips (R134, R136) -/

/-- The flip of a buffer releases the image's range. DEDUCED: log 31. -/
def State.flipped (s : State) (core : Nat) (b : Buffer) : State :=
  match b.incoming with
  | [] => s
  | x :: _ => s.modCore core fun c => { c with holds := c.holds.filter (·.id != x.2.2.1) }

/-- TABLE_FLIP: the whole image of an activation table is in (R134). -/
def execTableFlip (core ctx t : Nat) (s : State) : Host.Outcome State Fault Refusal :=
  let id := BitVec.ofNat 32 ctx
  let b := (s.core core).act id t
  if b.incoming.isEmpty then .next s else
  .next ((s.flipped core b).modCore core fun c => { c with acts := modBuffer 8 id t Buffer.flip c.acts })

/-- CHAIN_SLOT_FLIP: the whole image of a chain slot is in (R136). -/
def execChainSlotFlip (core ctx k : Nat) (s : State) : Host.Outcome State Fault Refusal :=
  let id := BitVec.ofNat 32 ctx
  let b := (s.core core).chain id k
  if b.incoming.isEmpty then .next s else
  .next ((s.flipped core b).modCore core fun c => { c with chains := modBuffer 4 id k Buffer.flip c.chains })

end Sys2Proof.Machine
end

