-- ==== Sys2Proof/Machine/MatrixOps.lean ====
section
/-! DEFINITION. The matrix engine (R86 to R91, R113 to R127, R364, R367, R368): formats and chunks, parameter blocks, `MMA`,
`MRD`, `MWM`, `MCLR`, and the engine's events. -/

namespace Sys2Proof.Machine

open Sys2Proof

/-! ### Elements and products (R74, R86, R88) -/

/-- Format of a floating element code (R74). -/
def elemFmt (code : Nat) : Option Fmt :=
  if code = 2 then some fp16 else if code = 3 then some bf16 else if code = 4 then some e4m3
  else if code = 5 then some e5m2 else none

/-- Is a code an SX format? -/
def isSx (code : Nat) : Bool := decide (16 ≤ code) && decide (code ≤ 18)

/-- Bytes of a run of `n` elements of a matrix format (R73, R118). -/
def elemBytes (code n : Nat) : Nat :=
  if isSx code then n / 16 * sxSize code else if code = 8 then n / 2 else if code = 2 || code = 3 then 2 * n else n

/-- Element `i` of a run. -/
def elemAt (code : Nat) (run : List Byte) (i : Nat) : FVal :=
  if isSx code then sxDecode code ((run.drop (i / 16 * sxSize code)).take (sxSize code)) (i % 16)
  else if code = 8 then FVal.ofInt (intFrom 4 true ((run.getD (i / 2) 0).toNat / (if i % 2 = 0 then 1 else 16)))
  else if code = 9 then FVal.ofInt (intFrom 8 true (run.getD i 0).toNat)
  else match elemFmt code with
    | some f => if f.sbit = 15 then f.decode (leNat [run.getD (2 * i) 0, run.getD (2 * i + 1) 0])
                else f.decode (run.getD i 0).toNat
    | none => .fin false 0 0

/-- Accumulator format and K values a cycle of a pair of element codes (R86); the mixed rows take either order. -/
def pairOf (a b : Nat) : Option (Nat × Nat) :=
  let one := fun x y => (a == x && b == y) || (a == y && b == x)
  if one 3 3 || one 2 2 then some (0, 4)
  else if one 4 4 || one 5 5 || one 4 5 || one 18 18 then some (0, 8)
  else if one 9 9 then some (1, 8)
  else if one 9 3 then some (0, 4)
  else if one 9 4 || one 9 5 then some (0, 8)
  else if one 17 17 || one 8 17 then some (0, 16)
  else if one 8 8 then some (1, 16)
  else if one 16 16 then some (0, 32)
  else none

/-- The truncated sum of finite products (R87): significand and exponent. -/
def truncSum (ps : List FVal) : Int × Int :=
  let top := ps.foldl (fun (a : Option Int) p => match p with
    | .fin _ m e => if m = 0 then a else
        let t := (m.log2 : Int) + e
        (match a with | some x => some (max x t) | none => some t)
    | _ => a) none
  match top with
  | none => (0, 0)
  | some t =>
    let q := t - 50
    (ps.foldl (fun (a : Int) p => match p with
      | .fin n m e =>
        let v : Int := if q ≤ e then m * 2 ^ (e - q).toNat else (m / 2 ^ (q - e).toNat : Nat)
        if n then a - v else a + v
      | _ => a) 0, q)

/-- The result of a chunk (R87, R88): FP32 pattern and flags. A chunk that meets two rows of R88's table takes the first of them only, but
that a NaN scale stands before infinite products of one sign: a signalling one raises NV with them too. An infinite scale and a zero scale on
a finite sum, which no row covers unless the sum is 0, give a NaN with NV (DESIGN CHOICE, log 38). -/
def chunkSum (ps : List (FVal × Word)) (scales : List FVal) : Nat × Word :=
  let vs := ps.map (·.1)
  let nan := fun (b : Bool) => (fp32.nan, if b then flNV else 0#32)
  let inf := fun (n : Bool) => vs.any (· == .inf n)
  if vs.any FVal.isNan then nan (ps.any fun p => p.2 != 0#32)
  else if inf false && inf true then nan true
  else if scales.any FVal.isNan then nan (scales.any FVal.sig)
  else
    let (sum, q) := truncSum vs
    let base : FVal := if inf false then .inf false else if inf true then .inf true else .fin (decide (sum < 0)) sum.natAbs q
    let (v, bad) := scales.foldl (fun (a : FVal × Bool) k =>
      let (r, f) := FVal.mul a.1 k
      (r, a.2 || f != 0#32)) (base, false)
    if bad || v.isNan then nan true
    else match v with
      | .fin _ 0 _ => (0, 0#32)
      | _ => fp32.encode .rne v

/-! ### Parameter blocks (R116, R117) -/

/-- Bits of a parameter word. -/
def pbBits (ws : List Word) (i hi lo : Nat) : Nat := bitsOf (ws.getD i 0#32).toNat hi lo

/-- Rows of A and columns of B by mode (R113). -/
def matShape (mode : Nat) : Nat × Nat := if mode = 0 then (16, 16) else if mode = 1 then (16, 64) else if mode = 2 then (32, 32) else (64, 16)

/-- First row and column of a quadrant's tile (R113). -/
def matOrigin (mode q : Nat) : Nat × Nat :=
  if mode = 0 then (0, 0) else if mode = 1 then (0, 16 * q) else if mode = 2 then (16 * (q / 2), 16 * (q % 2)) else (16 * q, 0)

/-- Stored rows of A and the bytes of one (R118). -/
def aStored (ws : List Word) : Nat × Nat :=
  let m := (matShape (pbBits ws 0 1 0)).1
  let k := pbBits ws 1 12 0
  if pbBits ws 0 14 14 = 1 then (k, elemBytes (pbBits ws 0 6 2) m) else (m, elemBytes (pbBits ws 0 6 2) k)

/-- Bytes of the A image. -/
def aLen (ws : List Word) : Nat := ((aStored ws).1 - 1) * pbBits ws 3 17 0 + (aStored ws).2

/-- Holder warps of an operation (R113). -/
def holdersOf (ws : List Word) : List Nat :=
  let b := pbBits ws 4 5 0
  if pbBits ws 0 1 0 = 0 then [b] else [b, b + 1, b + 2, b + 3]

/-- Image registers of a holder (R119). -/
def imageRegs (ws : List Word) (w : Nat) : Nat :=
  let mode := pbBits ws 0 1 0
  ceilDiv (pbBits ws 1 12 0 / (if mode = 0 then 1 else 4) * elemBytes (pbBits ws 0 11 7) (matShape mode).2) (4 * w)

/-- The checks of R117 from RESERVED on: the subcode of the first that fails. -/
def Cx.badParam (c : Cx) (ws : List Word) : Option Nat :=
  let mode := pbBits ws 0 1 0
  let k := pbBits ws 1 12 0
  let reserved := pbBits ws 0 31 19 != 0 || pbBits ws 1 31 13 != 0 || pbBits ws 2 31 18 != 0 || pbBits ws 3 31 18 != 0 ||
    pbBits ws 4 7 6 != 0 || pbBits ws 4 31 15 != 0 || (List.range 5).any fun i => ws.getD (7 + i) 0#32 != 0#32
  let fmtBad := match pairOf (pbBits ws 0 6 2) (pbBits ws 0 11 7) with
    | none => true
    | some (acc, _) => acc != pbBits ws 0 12 12 || (pbBits ws 0 16 16 == 1 && acc == 1)
  let a := pbBits ws 2 17 0
  let pitch := pbBits ws 3 17 0
  let n := imageRegs ws c.width
  let r := pbBits ws 4 14 8
  if reserved then some 3
  else if mode != 0 && c.l.saggar then some 4
  else if fmtBad then some 5
  else if k == 0 || k % 32 != 0 || 4096 < k then some 6
  else if a % 4 != 0 || pitch % 4 != 0 || pitch < (aStored ws).2 || c.l.shBytes < a + aLen ws then some 7
  else if (holdersOf ws).any (fun h => decide (c.blk.warps.length ≤ h) || (c.blk.warp h).exited ||
      decide ((c.blk.warp h).grant < r + n) || decide (128 < r + n)) || (mode == 0 && pbBits ws 4 5 0 % 4 != c.wp.quad) then some 8
  else none

/-! ### Tiles and watermarks (R122) -/

/-- A block's tile. DESIGN CHOICE: log 6. -/
def Block.tile (b : Block) (q t : Nat) : List Word := (alook (4 * q + t) b.tiles).getD (List.replicate 256 0#32)
/-- A block's watermark. DESIGN CHOICE: log 6. -/
def Block.mark (b : Block) (q t : Nat) : Nat := (alook (4 * q + t) b.marks).getD 16
/-- Write a tile. -/
def Block.setTile (b : Block) (q t : Nat) (x : List Word) : Block := { b with tiles := aput (4 * q + t) x b.tiles }
/-- Write a watermark. -/
def Block.setMark (b : Block) (q t n : Nat) : Block := { b with marks := aput (4 * q + t) n b.marks }

/-- Tile index of an operation. -/
def MatOp.tile (m : MatOp) : Nat := pbBits m.words 0 18 17
/-- Chunks of an operation. -/
def MatOp.chunks (m : MatOp) : Nat := pbBits m.words 1 12 0 / 32
/-- Sub-arrays of an operation: a saggar operation takes its neighbour too (R127). -/
def MatOp.subs (m : MatOp) (saggar : Bool) : List Nat := if saggar then m.quads.flatMap fun q => [q, q ^^^ 1] else m.quads

/-- Is some byte of a range of a block in the box of an outbound copy that has parts to move? It keeps what it held at issue (R169, R397). -/
def State.outHeld (s : State) (b a n : Nat) : Bool :=
  s.copies.any fun k => k.block == b && k.dir == .out && !k.parts.isEmpty && k.ranges.any fun r => overlap r.1 r.2 a n

/-- Must an operation's writes of its own parameter block wait: an outbound copy or another engine than the matrix engine holds the words
(R148, R169, R397)? DEDUCED: log 31. -/
def State.matHeld (s : State) (core : Nat) (m : MatOp) : Bool :=
  s.outHeld m.block (m.pb + 48) 16 || (s.core core).holds.any fun h => h.block == m.block && overlap h.lo h.len (m.pb + 48) 16 &&
    !((s.core core).matq.any fun k => h.id == k.hold || h.id == k.hold + 1)

/-- The engine writes word 14 of the parameter block, and word 15 as 0 (R116). -/
def State.matState (s : State) (m : MatOp) (st : Nat) (final : Bool) : State :=
  let x := st + (if final then m.flags.toNat % 32 * 256 + (if m.wrap then 8192 else 0) else 0)
  s.memWrite (some (m.block, m.warp)) (.shared m.block) (m.pb + 56) (leBytes 8 x) true (s.older m.block m.id)
/-- The engine writes PROGRESS, and word 13 as 0 (R116). DEDUCED: log 31. -/
def State.matProgress (s : State) (m : MatOp) : State :=
  s.memWrite (some (m.block, m.warp)) (.shared m.block) (m.pb + 48) (leBytes 8 m.progress) true (s.older m.block m.id)

/-! ### MMA -/

/-- Operations of a core's queue whose blocks are not saved away, but for those that have only STATE 4 to write. -/
def State.matqOf (s : State) (core : Nat) : List MatOp := (s.core core).matq.filter fun m => !(s.block m.block).saved && m.owes != 4

/-- Captured entries with their holders and registers (R119). -/
def Cx.captures (c : Cx) (ws : List Word) : List (Nat × Nat × Nat) :=
  let r := pbBits ws 4 14 8
  (holdersOf ws).flatMap fun h => (List.range (imageRegs ws c.width)).map fun i =>
    (h, r + i, (alook (r + i) (c.blk.warp h).v).getD 0)

/-- Absent pieces of image registers are filled before the capture (R65). -/
def Cx.absentImage (c : Cx) (ws : List Word) : Option Instr :=
  let r := pbBits ws 4 14 8
  (holdersOf ws).findSome? fun h => ((c.blk.warp h).absent.find? fun a =>
      a.1 == .v && decide (r ≤ a.2.1) && decide (a.2.1 < r + imageRegs ws c.width)).map fun a =>
    .registerFill c.b h a.1 a.2.1 a.2.2

/-- The issue effects of `MMA` (R115). -/
def Cx.startMma (c : Cx) (pb : Nat) (ws : List Word) : State :=
  let id := c.s.serial
  let t := pbBits ws 0 18 17
  let quads := if pbBits ws 0 1 0 = 0 then [c.wp.quad] else [0, 1, 2, 3]
  let a := pbBits ws 2 17 0
  let op : MatOp :=
    { id := id, block := c.b, warp := c.w, quads := quads, pb := pb, words := ws,
      a := c.s.seenBytes c.b (.shared c.b) a (aLen ws), caps := c.captures ws, b := [], st := 1, reserved := false,
      requested := false, progress := 0, rows := 0, acc := [], flags := 0#32, wrap := false, hold := id + 1 }
  let s := { c.s with serial := id + 3 }.modCore c.core fun k =>
    { k with matq := k.matq ++ [op],
             holds := k.holds ++ [({ id := id + 1, block := c.b, lo := a, len := aLen ws, loads := false } : RangeHold)] ++
               (if c.det then [({ id := id + 2, block := c.b, lo := pb + 48, len := 16, loads := true } : RangeHold)] else []) }
  let s := s.modBlock c.b fun (b : Block) => { quads.foldl (fun (b : Block) (q : Nat) => b.setMark q t 0) b with mma := true }
  s.memWrite c.actor (.shared c.b) (pb + 56) (leBytes 8 1)

/-- `MMA` (R115, R364). -/
def execMma (f : L2a) (s : State) :=
  issue (.mma f) s fun c => do
    let a := addrOp f.a f.pa .sh
    c.checkOps [a]
    c.checkReads [a] f.g
    match (c.doing f.g).lanes with
    | [] => .ok (c.advance (c.endWaits c.s) 2)
    | l :: rest =>
      require rest.isEmpty (.trap tcMATRIXPARAM 1)
      let pb := c.addrOf a 0 l
      require (pb % 64 == 0 && decide (pb + 64 ≤ c.l.shBytes)) (.trap tcMATRIXPARAM 2)
      let c ← c.imageReady pb 64
      let ws := leWords (c.s.seenBytes c.b (.shared c.b) pb 64)
      match c.badParam ws with
      | some k => .error (.trap tcMATRIXPARAM k)
      | none =>
        require (c.canFlush false && !c.s.boarded c.b (pb + 48) 16 false && decide ((c.s.matqOf c.core).length < 4) && decide (c.s.boardUsed c.core + (if c.det then 2 else 1) ≤ boardSize)) .stall
        let c ← c.imageReady (pbBits ws 2 17 0) (aLen ws)
        match c.absentImage ws with
        | some e => .error (.await e)
        | none => .ok (c.advance (c.endWaits ((c.at (c.s.flushEngine c.b false)).startMma pb ws)) 2)

/-! ### MRD, MWM, MCLR -/

/-- R123. -/
def semMrd (f : L2u) (t : Nat) (tile : List Word) : Sem :=
  { dst := dOp f.d onlyV, srcs := [{ aOp f.a f.pa with acc := vsc }], guard := f.g, words := 2, base := 0x4D, mod := t, lineage := false,
    f := fun x l => plainRes ((tile.getD (16 * ((x.src 0 l).lo.toNat) + l % 16) 0#32).setWidth 64) }

/-- `MRD` (R123, R367): it waits until every row it names is below the watermark. -/
def execMrd (f : L2u) (t : BitVec 2) (s : State) :=
  issue (.mrd f t) s fun c => do
    let m := semMrd f t.toNat (c.blk.tile c.wp.quad t.toNat)
    c.checkOps m.ops
    c.checkReads m.srcs f.g
    let rows := (c.acting f.g).lanes.map fun l => (c.read (c.resolve (m.srcs.getD 0 default)) l).lo.toNat
    require (rows.all fun r => decide (r ≤ 15)) (.trap tcMATRIXPARAM 9)
    require (rows.all fun r => decide (r < c.blk.mark c.wp.quad t.toNat)) .stall
    runLane (.mrd f t) m c

/-- R124. -/
def semMwm (d : BitVec 7) (x : Nat) : Sem :=
  { dst := dOp (.v d) onlyV, srcs := [], guard := Guard.always, words := 1, base := 0x4F, lineage := false,
    f := fun _ _ => plainRes (BitVec.ofNat 64 x) }

/-- `MWM` (R124, R368). In DET mode it stalls until the watermark is 16 (R248). -/
def execMwm (d : BitVec 7) (t : BitVec 2) (s : State) :=
  issue (.mwm d t) s fun c => do
    let m := semMwm d (c.blk.mark c.wp.quad t.toNat)
    c.checkOps m.ops
    require (!c.det || c.blk.mark c.wp.quad t.toNat == 16) .stall
    runLane (.mwm d t) m c

/-- `MCLR` (R125): it stalls while an operation uses the tile. -/
def execMclr (t : BitVec 2) (s : State) :=
  issue (.mclr t) s fun c =>
    let q := c.wp.quad
    if c.cst.matq.any fun m => m.block == c.b && m.quads.contains q && m.tile == t.toNat && m.owes != 4 then .error .stall
    else .ok (c.advance (c.s.modBlock c.b fun b =>
      { (b.setTile q t.toNat (List.replicate 256 0#32)).setMark q t.toNat 16 with mma := true }) 1)

/-! ### The engine (R120, R121) -/

/-- Is a launch of a block in saggar mode? -/
def State.saggarOf (s : State) (b : Nat) : Bool := (s.launch (s.block b).launch).saggar

/-- Operations of a queue whose sub-arrays are free of earlier ones (R120). -/
def State.matFree (s : State) : List MatOp → List Nat → List MatOp
  | [], _ => []
  | m :: ms, used =>
    let subs := m.subs (s.saggarOf m.block)
    let rest := State.matFree s ms (used ++ subs)
    if subs.any used.contains then rest else m :: rest

/-- Rewrite an operation of a core's queue. -/
def State.modMat (s : State) (core id : Nat) (f : MatOp → MatOp) : State :=
  s.modCore core fun c => { c with matq := c.matq.map fun m => if m.id = id then f m else m }

/-- Units of an operation (R267). -/
def MatOp.units (m : MatOp) (saggar : Bool) : Nat := 3 * (m.subs saggar).length

/-- An operation whose sub-arrays are free and whose captured entries are ready reads them and asks for current
(R119, R120); a poisoned one is never read (R54). DEDUCED: log 31. -/
def State.matAsk (s : State) (core : Nat) : State :=
  (s.matFree (s.matqOf core) []).foldl (fun s m =>
    let c := s.core core
    if m.requested || !(m.caps.all fun k => c.isReady k.2.2) then s
    else if m.caps.any fun k => (c.entry? k.2.2).any (·.poison) then s.consume m.block else
    let w := (s.launch (s.block m.block).launch).w
    let b := if m.caps.isEmpty then m.b else m.caps.map fun k => (List.range w).map fun l => c.laneVal k.2.2 l
    let s := s.modMat core m.id fun x => { x with requested := true, b := b, caps := [] }
    let actor := if (s.warp m.block m.warp).exited then none else some (m.block, m.warp)
    (s.askCurrent .matrix core m.id (m.units (s.saggarOf m.block))).sweep core actor) s

/-- The arbiter grants an operation (R120): STATE 2, and the accumulation starts or goes on. One that still owes the writes of its parking
(R126) makes them first. -/
def State.matStart (s : State) (core id : Nat) : State :=
  match (s.core core).matq.find? (·.id == id) with
  | none => s
  | some m =>
    let blk := s.block m.block
    let acc := m.quads.map fun q =>
      (q, if pbBits m.words 0 13 13 = 1 then blk.tile q m.tile else List.replicate 256 0#32)
    let s := if m.owes = 3 then (s.matProgress m).matState m 3 false else s
    (s.modMat core id fun x =>
      { x with reserved := true, st := 2, owes := 0, acc := if x.acc.isEmpty then acc else x.acc }).matState m 2 false

/-- Row k of B, N columns: its bytes in the holder's image (R119). -/
def MatOp.bRow (m : MatOp) (k : Nat) : List Byte :=
  let mode := pbBits m.words 0 1 0
  let holders := if mode = 0 then 1 else 4
  let rows := pbBits m.words 1 12 0 / holders
  let len := elemBytes (pbBits m.words 0 11 7) (matShape mode).2
  let regs := m.b.length / holders
  let image := ((m.b.drop (k / rows * regs)).take regs).flatMap fun r => r.flatMap wordBytes
  (image.drop (k % rows * len)).take len

/-- Element A[i][k] (R118). -/
def MatOp.aElem (m : MatOp) (i k : Nat) : FVal :=
  let pitch := pbBits m.words 3 17 0
  let fmt := pbBits m.words 0 6 2
  if pbBits m.words 0 14 14 = 1 then elemAt fmt (m.a.drop (k * pitch)) i else elemAt fmt (m.a.drop (i * pitch)) k

/-- The next chunk of one output element: the new accumulator and flags, and whether it wraps (R87, R89). -/
def MatOp.element (m : MatOp) (as bs : List FVal) (acc : Word) : Word × Word × Bool :=
  let neg := pbBits m.words 0 15 15 = 1
  let ps := (as.zip bs).map fun x =>
    let (p, f) := FVal.mul x.1 x.2
    (if neg then p.flip else p, f)
  if pbBits m.words 0 12 12 = 1 then
    let t := ps.foldl (fun (a : Int) p => match p.1 with
      | .fin n k e => if n then a - k * 2 ^ e.toNat else a + k * 2 ^ e.toNat | _ => a) acc.toInt
    (BitVec.ofInt 32 t, 0#32, decide (t < -2 ^ 31) || decide (2 ^ 31 ≤ t))
  else
    let scales := if pbBits m.words 0 16 16 = 1 then
      [fp32.decode (m.words.getD 5 0#32).toNat, fp32.decode (m.words.getD 6 0#32).toNat] else []
    let (sum, f) := chunkSum ps scales
    let (r, g) := fp32.add rneMod acc.toNat sum
    (BitVec.ofNat 32 r, f ||| g, false)

/-- One chunk enters the participating sub-arrays (R87, R114). -/
def MatOp.chunk (m : MatOp) : MatOp :=
  let mode := pbBits m.words 0 1 0
  let c := m.progress
  let ks := (List.range 32).map (32 * c + ·)
  let rows := ks.map m.bRow
  let fmt := pbBits m.words 0 11 7
  let col := fun j => rows.map fun r => elemAt fmt r j
  let out : List (Nat × List (Word × Word × Bool)) := m.acc.map fun (q, acc) =>
    let (r0, c0) := matOrigin mode q
    let as := (List.range 16).map fun i => ks.map fun k => m.aElem (r0 + i) k
    let bs := (List.range 16).map fun j => col (c0 + j)
    (q, acc.zipIdx.map fun x => m.element (as.getD (x.2 / 16) []) (bs.getD (x.2 % 16) []) x.1)
  { m with
    progress := c + 1
    acc := out.map fun x => (x.1, x.2.map (·.1))
    flags := out.foldl (fun a x => x.2.foldl (fun a y => a ||| y.2.1) a) m.flags
    wrap := m.wrap || out.any fun x => x.2.any (·.2.2) }

/-- MATRIX_CHUNK: the next chunk of an operation whose reservation is granted (R114, R118). In a saggar launch the two accumulations
are compared after it (R127, R258). DESIGN CHOICE: log 15. -/
def execMatrixChunk (core op : Nat) (s : State) : Host.Outcome State Fault Refusal :=
  match (s.core core).matq.find? (·.id == op) with
  | none => .next s
  | some m =>
    if !m.reserved || m.chunks ≤ m.progress then .next s else
    let s := s.modMat core op MatOp.chunk
    let s := if m.progress + 1 < m.chunks then s
      else s.modCore core fun c => { c with holds := c.holds.filter (·.id != m.hold) }
    if !s.saggarOf m.block then .next s else
    let (ok, s) := s.compared
    .next (if ok then s else s.consume m.block)

/-- An operation's last row is final (R121). -/
def State.matDone (s : State) (core : Nat) (m : MatOp) : State :=
  let s := s.modCore core fun c => { c with matq := c.matq.filter (·.id != m.id), holds := c.holds.filter (·.id != m.hold + 1) }
  let s := ((s.freeCurrent .matrix core m.id).matProgress m).matState m 4 true
  if m.wrap && !(s.warp m.block m.warp).exited then s.raise m.block m.warp flACCWRAP else s

/-- Row `r` of the participating tiles of a block becomes final; only the latest operation on a tile moves its watermark
(R122). -/
def Block.finalRow (b : Block) (m : MatOp) (later : List MatOp) (r : Nat) : Block :=
  m.acc.foldl (fun b (x : Nat × List Word) =>
    let old := b.tile x.1 m.tile
    let b := b.setTile x.1 m.tile (old.take (16 * r) ++ (x.2.drop (16 * r)).take 16 ++ old.drop (16 * r + 16))
    if later.any fun k => k.block == m.block && k.tile == m.tile && k.quads.contains x.1 then b
    else b.setMark x.1 m.tile (r + 1)) b

/-- Row `r` of an operation becomes final. A rollback does not cancel an operation that is older than the interval, so its
rows go into the shadow tiles too (R127, R259). -/
def State.matRow (s : State) (core : Nat) (m : MatOp) (r : Nat) : State :=
  let later := ((s.core core).matq.dropWhile (·.id != m.id)).drop 1
  let old := s.older m.block m.id
  s.modBlock m.block fun b =>
    let b := b.finalRow m later r
    if !old then b else
    { b with ck := b.ck.map fun k =>
        let x := { b with tiles := k.tiles, marks := k.marks }.finalRow m later r
        { k with tiles := x.tiles, marks := x.marks } }

/-- Must an operation's last write of STATE wait: for reads that have been passed (R189), or for a range that holds it? -/
def State.endHeld (s : State) (core : Nat) (m : MatOp) : Bool := s.passedOn (.shared m.block) (m.pb + 56) 8 || s.matHeld core m

/-- ROW_FINAL: the next row of an operation whose chunks are all in (R114, R121). The last one writes STATE 4, which may wait; one that a
pre-emption has finished without it writes it now (R126). -/
def execRowFinal (core op : Nat) (s : State) : Host.Outcome State Fault Refusal :=
  match (s.core core).matq.find? (·.id == op) with
  | none => .next s
  | some m =>
    if m.owes = 4 then .next (if (s.block m.block).saved || s.endHeld core m then s else s.matDone core m)
    else if !m.reserved || m.progress < m.chunks || 16 ≤ m.rows then .next s
    else if m.rows = 15 && s.endHeld core m then .next s else
    let s := (s.matRow core m m.rows).modMat core op fun x => { x with rows := x.rows + 1 }
    .next (if m.rows = 15 then s.matDone core m else s)

end Sys2Proof.Machine
end

