-- ==== Sys2Proof/Machine/TreeOps.lean ====
section
/-! DEFINITION. Sum-tree registers (R140 to R151, R401, R404 to R412). An instruction arrives at the unit as it issues, and
acts on its tree there (DEDUCED, log 24); its results become ready, and a `WSAVE`'s writes are performed, when the unit completes it. -/

namespace Sys2Proof.Machine

open Sys2Proof

/-! ### Trees -/

/-- Leaves of a configured tree. -/
def Block.tree? (b : Block) (t : Nat) : Option (List Nat) := alook t b.trees
/-- Sum of leaves. -/
def massSum (xs : List Nat) : Nat := xs.foldl (· + ·) 0
/-- Prefix sum, inclusive (R142). -/
def prefixTo (xs : List Nat) (i : Nat) : Nat := massSum (xs.take (i + 1))

/-- Saturation to a mass, and whether it changed the value (R145). -/
def satMass (x : Int) : Nat × Bool :=
  if x < 0 then (0, true) else if 2 ^ 32 - 1 < x then (2 ^ 32 - 1, true) else (x.toNat, false)

/-- The mass of an FP32 value scaled by 2^k (R145). -/
def floatMass (k : Int) (x : Nat) : Nat × Bool :=
  match fp32.decode x with
  | .nan _ => (0, true)
  | .inf n => if n then (0, true) else (2 ^ 32 - 1, true)
  | .fin n m e => satMass (roundInt .rne n m (e + k)).1

/-- `WSET`: the new mass of a leaf (R145). -/
def setLeaf (scale : Option (BitVec 8)) (_ : Nat) (b : Word) : Nat × Bool :=
  match scale with
  | none => (b.toNat, false)
  | some k => floatMass k.toInt b.toNat
/-- `WADD`: the new mass of a leaf (R145). -/
def addLeaf (signed : Bool) (old : Nat) (b : Word) : Nat × Bool :=
  satMass ((old : Int) + (if signed then b.toInt else (b.toNat : Int)))

/-- Updates lane by lane, each on the tree as the last left it: the leaves, and whether one saturated (R145). -/
def updateLeaves (f : Nat → Word → Nat × Bool) : List (Nat × Word) → List Nat → Bool → List Nat × Bool
  | [], xs, sat => (xs, sat)
  | (i, b) :: rest, xs, sat =>
    let r := f (xs.getD i 0) b
    updateLeaves f rest (xs.set i r.1) (sat || r.2)

/-- Smallest index from `i` on whose inclusive prefix passes the target (R146), L when none does. -/
def findLeaf (t : Nat) : List Nat → Nat → Nat → Nat
  | [], i, _ => i
  | x :: xs, i, acc => if t < acc + x then i else findLeaf t xs (i + 1) (acc + x)

/-- The cut of R147: the last leaf kept. -/
def cutAtLeaf (thr : Nat) (xs : List Nat) : Nat :=
  if massSum xs < thr then xs.length - 1
  else if thr = 0 then 0 else findLeaf (thr - 1) xs 0 0

/-! ### The shared operation -/

/-- Cause detail of `WTREE` (R141). -/
def wtBudget : Nat := 1
/-- UNCONF. -/
def wtUnconf : Nat := 2
/-- INDEX. -/
def wtIndex : Nat := 3

/-- Leaf index, mass, addend or address (R144). -/
def treeA (o : Opnd) (pa : Perm) (pair : Bool := false) : OpSpec := { aOp o pa pair (if pair then .w64 else .w32) with acc := vsc }

/-- The tree of an instruction other than `WCFG` (R141). DEDUCED: log 31. -/
def Cx.treeOf (c : Cx) (t : Nat) : Except Stop (List Nat) :=
  match c.blk.tree? t with
  | some xs => .ok xs
  | none => .error (.trap tcWTREE wtUnconf)

/-- Indexes are below L in every lane that acts (R141). -/
def Cx.checkIndex (c : Cx) (a : OpSpec) (m : Mask) (n : Nat) : Except Stop Unit :=
  require (m.lanes.all fun l => decide ((c.read (c.resolve a) l).lo.toNat < n)) (.trap tcWTREE wtIndex)

/-- The instruction enters the unit's queue with its results and retires. DEDUCED: log 24. -/
def Cx.finishTree (c : Cx) (i : Instr) (s : State) (d : Option OpSpec) (act : Mask) (val : Nat → Dword)
    (save : Option (Nat × List Byte)) (range : Option (Nat × Nat)) : State :=
  let (s, ids) := match d with
    | some d =>
      let (s, ids, ds) := c.openResults i s d act none true val
      (s.pointAll c.b c.w c.pid act ds ids, ids)
    | none => (s, [])
  let id := s.serial
  let s := { s with serial := id + 2 }.modCore c.core fun k =>
    { k with trees := k.trees ++ [({ id := id, block := c.b, warp := c.w, dests := ids, save := save, hold := range.map fun _ => id + 1 } : TreeOp)],
             holds := k.holds ++ (match range with
               | some (lo, n) => [({ id := id + 1, block := c.b, lo := lo, len := n, loads := true } : RangeHold)]
               | none => []) }
  let s := c.assign s (ids.map Token.entry) (if range.isSome then [.tree id] else [])
  c.advance (c.endWaits s) 2

/-- Write a tree of the block. -/
def Cx.putTree (c : Cx) (t : Nat) (xs : List Nat) : State := c.s.modBlock c.b fun b => { b with trees := aput t xs b.trees }

/-! ### WCFG -/

/-- Leaves of the block's other trees (R140). -/
def Block.otherLeaves (b : Block) (t : Nat) : Nat := massSum ((b.trees.filter fun x => x.1 != t).map fun x => x.2.length)

/-- `WCFG` (R140, R404). -/
def execWcfg (t : BitVec 4) (log2count : Option (Fin 11)) (g : Guard) (s : State) :=
  issue (.wcfg t log2count g) s fun c => do
    let i := Instr.wcfg t log2count g
    c.checkReads [] g
    if c.doing g == 0#64 then .ok (c.advance (c.endWaits c.s) 2) else
    let n := match log2count with | some k => 2 ^ (k.val + 4) | none => 0
    require (decide (n = 0) || decide (c.blk.otherLeaves t.toNat + n ≤ c.l.leaves)) (.trap tcWTREE wtBudget)
    let s := if n = 0 then c.s.modBlock c.b fun b => { b with trees := adel t.toNat b.trees }
      else c.putTree t.toNat (List.replicate n 0)
    .ok (c.finishTree i s none 0#64 (fun _ => 0#64) none none)

/-! ### Updates -/

/-- `WSET` and `WADD` (R145). DEDUCED: log 24. -/
def runUpdate (i : Instr) (t : BitVec 4) (f : L2ab) (rt : RT) (fn : Nat → Word → Nat × Bool) (c : Cx) : Except Stop State := do
  let a := treeA f.a f.pa
  let b := { bOp f.b f.pb false rt with acc := vsc }
  c.checkOps [a, b]
  c.checkReads [a, b] f.g
  let xs ← c.treeOf t.toNat
  let act := c.doing f.g
  c.checkIndex a act xs.length
  let ups := act.lanes.map fun l => ((c.read (c.resolve a) l).lo.toNat, (c.read (c.resolve b) l).lo)
  let (ys, sat) := updateLeaves fn ups xs false
  let s := c.putTree t.toNat ys
  let s := if sat then s.raise c.b c.w flFMTSAT else s
  .ok (c.finishTree i s none 0#64 (fun _ => 0#64) none none)

/-- `WSET` (R145, R411). -/
def execWset (t : BitVec 4) (scale : Option (BitVec 8)) (f : L2ab) (s : State) :=
  issue (.wset t scale f) s fun c => runUpdate (.wset t scale f) t f (if scale.isSome then .f32 else .w32) (setLeaf scale) c
/-- `WADD` (R145, R401). -/
def execWadd (t : BitVec 4) (signed : Bool) (f : L2ab) (s : State) :=
  issue (.wadd t signed f) s fun c => runUpdate (.wadd t signed f) t f .w32 (addLeaf signed) c

/-! ### Queries -/

/-- A query of a lane operand (R146): helper lanes receive 0. DEDUCED: log 24. -/
def runQuery (i : Instr) (t : BitVec 4) (f : L2u) (dPair aPair index : Bool) (fn : List Nat → Nat → Nat) (c : Cx) :
    Except Stop State := do
  let d := dOp f.d onlyV dPair
  let a := treeA f.a f.pa aPair
  c.checkOps [d, a]
  c.checkReads [a] f.g
  let xs ← c.treeOf t.toNat
  if index then c.checkIndex a (c.doing f.g) xs.length
  let act := c.acting f.g
  if act == 0#64 then .ok (c.advance (c.endWaits c.s) 2) else
  if act != fullMask c.width then c.allMergeable act ((List.range d.span).map fun j => ((c.dstReg d).1, (c.dstReg d).2 + j))
  .ok (c.finishTree i c.s (some d) act
    (fun l => if c.wp.helpers.has l then 0#64 else BitVec.ofNat 64 (fn xs (c.read (c.resolve a) l).toNat)) none none)

/-- `WGET` (R146, R407). -/
def execWget (t : BitVec 4) (f : L2u) (s : State) :=
  issue (.wget t f) s fun c => runQuery (.wget t f) t f false false true (fun xs i => xs.getD i 0) c
/-- `WPRE` (R146, R409). -/
def execWpre (t : BitVec 4) (f : L2u) (s : State) :=
  issue (.wpre t f) s fun c => runQuery (.wpre t f) t f true false true prefixTo c
/-- `WFIND` (R146, R406). -/
def execWfind (t : BitVec 4) (f : L2u) (s : State) :=
  issue (.wfind t f) s fun c => runQuery (.wfind t f) t f false true false (fun xs x => findLeaf x xs 0 0) c

/-- `WSUM` (R146, R412). -/
def execWsum (t : BitVec 4) (d : Opnd) (g : Guard) (s : State) :=
  issue (.wsum t d g) s fun c => do
    let x := dOp d onlyV true
    c.checkOps [x]
    c.checkReads [] g
    let xs ← c.treeOf t.toNat
    let act := c.acting g
    if act == 0#64 then .ok (c.advance (c.endWaits c.s) 2) else
    if act != fullMask c.width then c.allMergeable act ((List.range 2).map fun j => ((c.dstReg x).1, (c.dstReg x).2 + j))
    .ok (c.finishTree (.wsum t d g) c.s (some x) act
      (fun l => if c.wp.helpers.has l then 0#64 else BitVec.ofNat 64 (massSum xs)) none none)

/-- `WCUT` (R147, R405). -/
def execWcut (t : BitVec 4) (f : L2u) (s : State) :=
  issue (.wcut t f) s fun c => do
    let d := dOp f.d onlyV
    let a := treeA f.a f.pa true
    c.checkOps [d, a]
    c.checkReads [a] f.g
    let xs ← c.treeOf t.toNat
    match c.leader f.g with
    | none => .ok (c.advance (c.endWaits c.s) 2)
    | some l0 =>
      let act := c.acting f.g
      if act != fullMask c.width then c.allMergeable act [c.dstReg d]
      let k := cutAtLeaf (c.read (c.resolve a) l0).toNat xs
      let s := c.putTree t.toNat (xs.take (k + 1) ++ List.replicate (xs.length - (k + 1)) 0)
      .ok (c.finishTree (.wcut t f) s (some d) act
        (fun l => if c.wp.helpers.has l then 0#64 else BitVec.ofNat 64 k) none none)

/-! ### Images -/

/-- The image of `WLOAD` and `WSAVE` (R148): the tree, and the address, none when no lane qualifies. -/
def Cx.treeImage (c : Cx) (t : BitVec 4) (f : L2a) : Except Stop (List Nat × Option Nat) := do
  let a := treeA f.a f.pa
  c.checkOps [a]
  c.checkReads [a] f.g
  let xs ← c.treeOf t.toNat
  match c.leader f.g with
  | none => .ok (xs, none)
  | some l =>
    let x := (c.read (c.resolve a) l).lo.toNat
    require (x % 16 == 0) (.trap tcMISALIGN 0)
    require (decide (x + 4 * xs.length ≤ c.l.shBytes)) (.trap tcCOPYRANGE 1)
    .ok (xs, some x)

/-- `WLOAD` (R148, R408). -/
def execWload (t : BitVec 4) (f : L2a) (s : State) :=
  issue (.wload t f) s fun c => do
    let (xs, at_) ← c.treeImage t f
    match at_ with
    | none => .ok (c.advance (c.endWaits c.s) 2)
    | some x =>
      let n := 4 * xs.length
      let c ← c.imageReady x n
      let s := c.putTree t.toNat ((leWords (c.s.seenBytes c.b (.shared c.b) x n)).map BitVec.toNat)
      .ok (c.finishTree (.wload t f) s none 0#64 (fun _ => 0#64) none (some (x, n)))

/-- `WSAVE` (R148, R410). -/
def execWsave (t : BitVec 4) (f : L2a) (s : State) :=
  issue (.wsave t f) s fun c => do
    let (xs, at_) ← c.treeImage t f
    match at_ with
    | none => .ok (c.advance (c.endWaits c.s) 2)
    | some x =>
      let n := 4 * xs.length
      c.imageFree x n
      require (!c.s.boarded c.b x n false && c.canFlush false) .stall
      .ok (c.finishTree (.wsave t f) (c.s.flushEngine c.b false) none 0#64 (fun _ => 0#64)
        (some (x, xs.flatMap fun m => leBytes 4 m)) (some (x, n)))

/-! ### Completion -/

/-- An instruction leaves the unit: results ready, a saved image written, its range released (R148, R149). -/
def State.treeDone (s : State) (core : Nat) (m : TreeOp) : State :=
  let s := s.modCore core fun c =>
    { c with trees := c.trees.filter (·.id != m.id), holds := c.holds.filter fun h => some h.id != m.hold }
  let s := match m.save with
    | some (a, bs) => s.memWrite (some (m.block, m.warp)) (.shared m.block) a bs true (s.older m.block m.id)
    | none => s
  m.dests.foldl (fun s e => s.complete core e) s

/-- SUM_TREE_UNIT_COMPLETE: the unit completes its oldest instruction (R149, R150), but not on a halted core (R151, R234). DEDUCED: log 24. -/
def execSumTreeUnitComplete (core : Nat) (s : State) : Host.Outcome State Fault Refusal :=
  match if (s.core core).halted then none else (s.core core).trees.find? fun m => !(s.block m.block).saved with
  | none => .next s
  | some m => .next (s.treeDone core m)

end Sys2Proof.Machine
end

