-- ==== Sys2Proof/Machine/CopyOps.lean ====
section
/-! DEFINITION. Copies (R159 to R171, R299, R306, R314, R319, R336, R397): tensor layout records and boxes, the checks at
issue, the movement of parts, completion, barrier objects, request lists, and glazed pairs. -/

namespace Sys2Proof.Machine

open Sys2Proof

/-! ### Tensor layout records (R159, R160) -/

/-- Element size of a format code in a record (R160): `none` is malformed. -/
def recSize (fmt : Nat) : Option Nat :=
  if [0x00, 0x04, 0x05, 0x09, 0x0A].contains fmt then some 1
  else if [0x02, 0x03, 0x0B].contains fmt then some 2
  else if [0x01, 0x0C, 0x0D, 0x13].contains fmt then some 4
  else if [0x06, 0x0E, 0x0F].contains fmt then some 8
  else if fmt = 0x10 then some 8 else if fmt = 0x11 then some 12 else if fmt = 0x12 then some 18 else none

/-- A record read: limits, pitches, cuts and overlaps by level. -/
structure Layout where
  base : Nat
  size : Nat
  levels : Nat
  lim : List Nat
  pitch : List Nat
  cut : List Nat
  ovl : List Nat
  fill : Word
  deriving DecidableEq, Repr, Inhabited

/-- Is a level's set of fields as R159 asks? -/
def Layout.levelOk (r : Layout) (d : Nat) : Bool :=
  let l := r.lim.getD d 0
  let p := r.pitch.getD d 0
  let c := r.cut.getD d 0
  let o := r.ovl.getD d 0
  if d < r.levels then l != 0 && c != 0 && decide (o < c) && (d == 0 || (p != 0 && p % r.size == 0))
  else l == 0 && p == 0 && c == 0 && o == 0

/-- Read a record from its 16 words (R159, R160). -/
def readRec (ws : List Word) : Option Layout :=
  let x := fun i => (ws.getD i 0#32).toNat
  match recSize (bitsOf (x 2) 7 3) with
  | none => none
  | some size =>
    let r : Layout :=
      { base := x 0 + 2 ^ 32 * x 1, size := size, levels := bitsOf (x 2) 2 0, lim := (List.range 5).map fun d => x (3 + d),
        pitch := 0 :: (List.range 4).map fun d => x (9 + d),
        cut := [bitsOf (x 13) 15 0, bitsOf (x 13) 31 16, bitsOf (x 14) 15 0, bitsOf (x 14) 31 16, bitsOf (x 15) 15 0],
        ovl := (List.range 5).map fun d => bitsOf (x 2) (11 + 4 * d) (8 + 4 * d), fill := ws.getD 8 0#32 }
    if 1 ≤ r.levels && r.levels ≤ 5 && r.base < 2 ^ 57 && r.base % size == 0 && bitsOf (x 2) 31 28 == 0 &&
        bitsOf (x 15) 31 16 == 0 && (List.range 5).all r.levelOk then some r else none

/-- Step between boxes of a level (R161). -/
def Layout.step (r : Layout) (d : Nat) : Nat := r.cut.getD d 0 - r.ovl.getD d 0
/-- Boxes along a level (R161). -/
def Layout.boxes (r : Layout) (d : Nat) : Nat :=
  if r.ovl.getD d 0 < r.lim.getD d 0 then ceilDiv (r.lim.getD d 0 - r.ovl.getD d 0) (r.step d) else 1
/-- All boxes. -/
def Layout.total (r : Layout) : Nat := (List.range r.levels).foldl (fun a d => a * r.boxes d) 1
/-- First element along each level of the box that a coordinate selects (R161). -/
def Layout.firsts (r : Layout) (coord : Nat) : List Nat :=
  ((List.range r.levels).foldl (fun (a : Nat × List Nat) d => (a.1 / r.boxes d, a.2 ++ [a.1 % r.boxes d * r.step d])) (coord, [])).2
/-- Bytes of a box in shared memory. -/
def Layout.bytes (r : Layout) : Nat := (List.range r.levels).foldl (fun a d => a * r.cut.getD d 0) r.size

/-- Rows of a box along levels 1 to `n` (R161): inside the tensor, byte offset from the level-0 address, row number. -/
def Layout.rows (r : Layout) (first : List Nat) : Nat → List (Bool × Nat × Nat)
  | 0 => [(true, 0, 0)]
  | n + 1 =>
    let d := n + 1
    if r.levels ≤ d then Layout.rows r first n else
    let stride := (List.range n).foldl (fun a k => a * r.cut.getD (k + 1) 0) 1
    (Layout.rows r first n).flatMap fun row => (List.range (r.cut.getD d 0)).map fun e =>
      let g := first.getD d 0 + e
      (row.1 && decide (g < r.lim.getD d 0), row.2.1 + g * r.pitch.getD d 0, row.2.2 + e * stride)

/-- Runs of a box: global address or none outside the tensor, shared offset in the box, length (R161). -/
def Layout.runs (r : Layout) (coord : Nat) : List (Option Nat × Nat × Nat) :=
  let first := r.firsts coord
  let c0 := r.cut.getD 0 0
  let g0 := first.getD 0 0
  (r.rows first 4).flatMap fun row =>
    let n := if row.1 then min c0 (r.lim.getD 0 0 - g0) else 0
    let sh := r.size * c0 * row.2.2
    [(some (r.base + row.2.1 + g0 * r.size), sh, n * r.size), (none, sh + n * r.size, (c0 - n) * r.size)].filter fun x =>
      decide (0 < x.2.2)

/-- Cut a run into parts of at most 16 aligned bytes on both sides (R172). -/
def cutRun (lane : Nat) (fill : Nat → Byte) : Nat → Option Nat → Nat → Nat → Nat → List Part
  | 0, _, _, _, _ => []
  | k + 1, g, sh, off, len =>
    if len = 0 then [] else
    let room := match g with | some a => min (16 - a % 16) (16 - sh % 16) | none => 16 - sh % 16
    let n := min len room
    { g := g, sh := sh, len := n, fill := if g.isSome then [] else (List.range n).map fun i => fill (off + i), lane := lane } ::
      cutRun lane fill k (g.map (· + n)) (sh + n) (off + n) (len - n)

/-- Parts of a copy (R161): a `.out` copy skips what lies outside the tensor. `sh` is the first shared byte of the box. -/
def Layout.parts (r : Layout) (coord sh lane : Nat) (dir : Dir) : List Part :=
  (r.runs coord).flatMap fun x =>
    if x.1.isNone && dir == .out then [] else
    cutRun lane (fun i => BitVec.ofNat 8 (r.fill.toNat / 2 ^ (8 * (i % r.size % 4)))) x.2.2 x.1 (sh + x.2.1) 0 x.2.2

/-- Lowest and highest global byte of a box's elements in the tensor (R163). -/
def Layout.footprint (r : Layout) (coord : Nat) : Option (Nat × Nat) :=
  let xs := (r.runs coord).filterMap fun x => x.1.map fun g => (g, g + x.2.2 - 1)
  match xs with
  | [] => none
  | x :: rest => some (rest.foldl (fun a b => (min a.1 b.1, max a.2 b.2)) x)

/-! ### The checks at issue (R163) -/

/-- Translate for a copy of a core: an address above 57 bits has no mapping. -/
def State.copyWalk (s : State) (core : Nat) (l : Launch) (va : Nat) : Walk := if 2 ^ 57 ≤ va then .fault else s.translate (some core) l.fn l.ctx va

/-- Row 7: the destination lies on an LRO page. -/
def lroBad (dir : Dir) (w : Walk) : Bool := match w with | .leaf l => dir == .out && l.attr.lro | _ => false

/-- Row 8: the subcode of `PROTECT`. -/
def copyProtect (dir : Dir) (w : Walk) : Option Nat :=
  match w with
  | .bad => some 5
  | .leaf l => if dir == .inn && !l.attr.rd then some 2 else if dir == .out && !l.attr.wr then some 3 else none
  | .fault => none

/-- A copy that has passed its checks. -/
structure Plan where
  parts : List Part
  range : Nat × Nat
  done : Done
  comp : Nat
  dir : Dir
  lane : Nat
  leaves : List Leaf
  deriving DecidableEq, Repr, Inhabited

/-- The leaf of a walk. -/
def Walk.leaves : Walk → List Leaf | .leaf l => [l] | _ => []

/-- `COPYRANGE` with a subcode and a request index (R163). DEDUCED: log 31. -/
def copyRange (sub idx : Nat) : Stop := .trap tcCOPYRANGE (sub + 256 * idx)

/-- A request: where its box, record, coordinate and completion object are. -/
structure CopyReq where
  m : TcMod
  d : Nat
  recAt : Nat
  coord : Nat
  comp : Nat
  lane : Nat
  /-- Its request list, and its index there. -/
  list : Option (Nat × Nat)
  idx : Nat
  deriving DecidableEq, Repr, Inhabited

/-- A trap of a request, with its detail: a subcode, and the request's index in its list (R163, R314). -/
def CopyReq.trap (q : CopyReq) (cause sub : Nat) : Stop := .trap cause (sub + 256 * q.idx)

/-- Rows 1 to 3 for the record: it is aligned, inside the allocation, and read once. -/
def Cx.readRecord (c : Cx) (q : CopyReq) : Except Stop (List Word) := do
  require (q.d % 16 == 0 && (q.m.done == .none || q.comp % 8 == 0) && q.recAt % 64 == 0) (q.trap tcMISALIGN 0)
  require (decide (q.recAt + 64 ≤ c.l.shBytes)) (copyRange 1 q.idx)
  let c ← c.imageReady q.recAt 64
  .ok (leWords (c.s.seenBytes c.b (.shared c.b) q.recAt 64))

/-- Rows 2 to 8 (R163), then R256, for a record's words. DEDUCED: log 31. -/
def Cx.planCopy (c : Cx) (q : CopyReq) (ws : List Word) : Except Stop Plan :=
  match readRec ws with
  | none => .error (copyRange 2 q.idx)
  | some r => do
    let n := r.bytes
    let has := q.m.done != .none
    require (decide (q.d + n ≤ c.l.shBytes) && (!has || decide (q.comp + 8 ≤ c.l.shBytes))) (copyRange 1 q.idx)
    require (decide (q.coord < r.total)) (copyRange 3 q.idx)
    let ends := match r.footprint q.coord with
      | some (lo, hi) => [c.s.copyWalk c.core c.l lo, c.s.copyWalk c.core c.l hi]
      | none => []
    require (ends.all (· != .fault)) (copyRange 3 q.idx)
    let pair := c.blk.glaze.find? fun g => decide (g.2.base ≤ q.d) && decide (q.d + n ≤ g.2.base + g.2.len)
    require (!(q.m.shadow && pair.isNone) && !c.blk.inShadow q.d n) (copyRange 4 q.idx)
    let hits := fun (a k : Nat) => overlap q.d n a k
    require (!(q.m.dir == .inn && (hits q.recAt 64 || (has && hits q.comp 8) ||
      (match q.list with | some (a, k) => hits a k | none => false)))) (copyRange 1 q.idx)
    require (!ends.any (lroBad q.m.dir)) (q.trap tcLINEAGEWRITE 0)
    match ends.findSome? (copyProtect q.m.dir) with
    | some sub => .error (q.trap tcPROTECT sub)
    | none =>
      let own := match r.footprint q.coord with
        | some (lo, hi) => !(c.l.owncompat && q.m.dir == .out) || c.blk.owns lo (hi + 1 - lo)
        | none => true
      require own (.trap tcOWNERSHIP 1)
      let sh := if q.m.shadow then q.d + (pair.map (·.2.len)).getD 0 else q.d
      .ok { parts := r.parts q.coord sh q.lane q.m.dir, range := (sh, n), done := q.m.done, comp := q.comp, dir := q.m.dir,
            lane := q.lane, leaves := ends.flatMap Walk.leaves }

/-- Plan the copies of all lanes before any issues (R162). -/
def Cx.planAll (c : Cx) : List CopyReq → Except Stop (List Plan)
  | [] => .ok []
  | q :: qs =>
    match c.readRecord q with
    | .error e => .error e
    | .ok ws => match c.planCopy q ws, Cx.planAll c qs with
      | .error e, _ => .error e
      | _, .error e => .error e
      | .ok p, .ok ps => .ok (p :: ps)

/-! ### Starting copies -/

/-- Start one copy: its scoreboard entry, its stamp count (R12), its request for current (R267). -/
def State.startCopy (s : State) (b w : Nat) (issued : Mask) (fpc : Word) (p : Plan) (acopy : Bool) (ranges : List (Nat × Nat))
    (op : Nat := s.serial) : State :=
  let id := s.serial
  let blk := s.block b
  let n := if p.done == .stamp then blk.stamps + 1 else blk.stamps
  let s := p.leaves.foldl (fun s l => s.cacheLeaf blk.core (s.launch blk.launch).fn (s.launch blk.launch).ctx l) s
  let cp : Copy :=
    { id := id, op := op, block := b, warp := w, core := blk.core, lane := p.lane, issued := issued, fpc := fpc, dir := p.dir, acopy := acopy,
      parts := p.parts, done := p.done, comp := p.comp, stamp := n, ranges := ranges, reserved := false }
  ({ s.fresh with copies := s.copies ++ [cp] }.modBlock b fun x => { x with stamps := n }).askCurrent .copy blk.core id 1

/-- A `v`, `s` or constant operand of a copy. -/
def copyOp (o : Opnd) (field : Nat) (perm : Perm := .ident) : OpSpec := { o := o, field := field, acc := vsc, perm := perm }

/-- A lane's word of an operand. -/
def Cx.wordAt (c : Cx) (x : OpSpec) (l : Nat) : Nat := (c.read (c.resolve x) l).lo.toNat

/-- `TCOPY` (R162, R397). -/
def execTcopy (m : TcMod) (f : L3) (s : State) :=
  issue (.tcopy m f) s fun c => do
    let d := copyOp f.d 0
    let a := copyOp f.a 1 f.pa
    let b := copyOp f.b 2
    let k := copyOp f.c 3
    let ops := if m.done == .none then [d, a, b] else [d, a, b, k]
    c.checkOps ops
    c.checkReads ops f.g
    let q := (c.doing f.g).lanes
    if q.isEmpty then .ok (c.advance (c.endWaits c.s) 2) else
    require (c.allPerformed && c.wp.canPark && c.canFlush (m.dir == .out)) .stall
    let c := c.at (c.s.flushEngine c.b (m.dir == .out))
    let ps ← c.planAll (q.map fun l => { m := m, d := c.wordAt d l, recAt := c.wordAt a l, coord := c.wordAt b l,
                                         comp := if m.done == .none then 0 else c.wordAt k l, lane := l, list := none, idx := 0 })
    require (decide (c.s.boardUsed c.core + ps.length ≤ boardSize)) .stall
    let s := ps.foldl (fun s p => s.startCopy c.b c.w (maskOf q) c.pt.pc p false [p.range]) c.s
    .ok (c.advance (c.endWaits s) 2)

/-! ### ACOPY -/

/-- Checks of one lane of an `ACOPY` (R163 rows 1, 3, 5 to 8, R165, R299). DEDUCED: log 31. -/
def Cx.planLane (c : Cx) (dir : Dir) (counted : Bool) (d a comp lane : Nat) : Except Stop (Part × List Leaf) := do
  require (d % 16 == 0 && a % 16 == 0 && (!counted || comp % 8 == 0)) (.trap tcMISALIGN 0)
  require (decide (d + 16 ≤ c.l.shBytes) && (!counted || decide (comp + 8 ≤ c.l.shBytes))) (copyRange 1 0)
  require (!c.blk.inShadow d 16) (copyRange 4 0)
  require (!(dir == .inn && counted && overlap d 16 comp 8)) (copyRange 1 0)
  require (decide (a < 2 ^ 57)) (.trap tcPROTECT 9)
  let w := c.s.copyWalk c.core c.l a
  require (!lroBad dir w) (.trap tcLINEAGEWRITE 0)
  match copyProtect dir w with
  | some sub => .error (.trap tcPROTECT sub)
  | none =>
    require (match w with | .leaf l => l.attr.fmt == 0 | _ => true) (.trap tcFMTPARTIAL 0)
    .ok ({ g := some a, sh := d, len := 16, fill := [], lane := lane }, w.leaves)

/-- All lanes of an `ACOPY`. -/
def Cx.planLanes (c : Cx) (dir : Dir) (counted : Bool) (d a : OpSpec) (comp : Nat) : List Nat → Except Stop (List (Part × List Leaf))
  | [] => .ok []
  | l :: ls =>
    match c.planLane dir counted (c.wordAt d l) (c.read (c.resolve a) l).toNat comp l, Cx.planLanes c dir counted d a comp ls with
    | .error e, _ => .error e
    | _, .error e => .error e
    | .ok p, .ok ps => .ok (p :: ps)

/-- Do `.in` copies hold some byte that lanes of an `ACOPY` move (R169)? -/
def State.inHeld (s : State) (b : Nat) (xs : List (Nat × Nat)) : Bool :=
  s.copies.any fun k => k.block == b && k.dir == .inn && k.ranges.any fun r => xs.any fun x => overlap r.1 r.2 x.1 x.2

/-- `ACOPY` (R165, R299). It stalls while an older `.in` copy holds a range of it (R169). -/
def execAcopy (dir : Dir) (counted : Bool) (d a k : Opnd) (g : Guard) (s : State) :=
  issue (.acopy dir counted d a k g) s fun c => do
    let dd : OpSpec := { o := d, field := 0, acc := onlyV }
    let aa : OpSpec := { o := a, field := 1, pair := true, acc := onlyV, rt := .w64 }
    let kk := cOp k
    let ops := if counted then [dd, aa, kk] else [dd, aa]
    c.checkOps ops
    c.checkReads ops g
    let q := (c.doing g).lanes
    match q with
    | [] => .ok (c.advance (c.endWaits c.s) 2)
    | l0 :: _ =>
      require (c.allPerformed && c.wp.canPark && c.canFlush (dir == .out)) .stall
      let comp := if counted then c.wordAt kk l0 else 0
      let ps ← c.planLanes dir counted dd aa comp q
      require (!(c.l.owncompat && dir == .out) || ps.all fun p => c.blk.owns (p.1.g.getD 0) 16) (.trap tcOWNERSHIP 1)
      let ranges := ps.map fun (x : Part × List Leaf) => (x.1.sh, 16)
      require (decide (c.s.boardUsed c.core + 1 ≤ boardSize) && !c.s.inHeld c.b ranges) .stall
      let p : Plan := { parts := ps.map (·.1), range := (0, 0), done := if counted then .bar else .none, comp := comp, dir := dir,
                        lane := l0, leaves := ps.flatMap (·.2) }
      let s := c.s.flushEngine c.b (dir == .out)
      let s := s.startCopy c.b c.w (maskOf q) c.pt.pc p true ranges
      .ok (c.advance (c.endWaits s) 2)

/-! ### Moving parts -/

/-- Has a part been parked (R229)? An `ACOPY` parks lane by lane. -/
def State.partParked (s : State) (cp : Copy) (p : Part) : Bool :=
  (s.warp cp.block cp.warp).replay.any fun r => r.copy == some cp.id && (!cp.acopy || r.mask.has p.lane)

/-- Does an engine hold some byte of a range of a block against an access of a copy (R118, R148)? -/
def State.engineHeld (s : State) (core b a n : Nat) (load : Bool) : Bool :=
  (s.core core).holds.any fun h => h.block == b && overlap h.lo h.len a n && (!load || h.loads)

/-- Does another holder keep a part's shared bytes (R148, R169)? Arrivals wait for `.out` copies, for ranges that engines hold,
and for older `.in` copies; what an `.out` copy reads waits for the images of the sum-tree unit. DEDUCED: log 31. -/
def State.partHeld (s : State) (cp : Copy) (p : Part) : Bool :=
  let hit := fun (r : Nat × Nat) => overlap r.1 r.2 p.sh p.len
  (cp.dir == .inn && s.copies.any fun k => k.id != cp.id && k.block == cp.block && k.ranges.any hit &&
    (k.dir == .out || decide (k.id < cp.id))) ||
  s.engineHeld cp.core cp.block p.sh p.len (cp.dir == .out)

/-- Must a copy's completion wait: an engine or an outbound copy holds its object (R148, R169, R397), or a read of its stamp has been passed
(R188)? -/
def State.compHeld (s : State) (cp : Copy) : Bool :=
  cp.done != .none && (s.engineHeld cp.core cp.block cp.comp 8 false || s.outHeld cp.block cp.comp 8 ||
    (cp.done == .stamp && s.passedOn (.shared cp.block) cp.comp 8))

/-- Write global memory for a block's copy, when a DET launch has a step line for it (R242, R246, R260). A table entry that it makes valid
has its page zeroed (R157). -/
def State.globalWrite (s : State) (b w : Nat) (hbm : Bool) (a : Nat) (bs : List Byte) : Drawn :=
  if (s.launch (s.block b).launch).det then
    match s.drawLines b [(lineAddr hbm a, bs.length)] with
    | .ok s => .ok (if hbm then s.modBlock b fun x => { x with stepCopies := bs.zipIdx.foldl (fun v e => aput (a + e.2) e.1 v) x.stepCopies }
        else s.viewWrite b w a bs true)
    | d => d
  else if hbm then .ok (((s.hbmWrite a bs).mapNew).ineligible b)
  else .ok ((s.memWrite (some (b, w)) .scratch a bs true).ineligible b)

/-- Rewrite a copy. -/
def State.modCopy (s : State) (id : Nat) (f : Copy → Copy) : State :=
  { s with copies := s.copies.map fun k => if k.id = id then f k else k }

/-- Remove a copy: its scoreboard entry, its reservation, its parked parts. -/
def State.dropCopy (s : State) (cp : Copy) : State :=
  (({ s with copies := s.copies.filter (·.id != cp.id) }).modWarp cp.block cp.warp fun x =>
    { x with replay := x.replay.filter (·.copy != some cp.id) }).freeCurrent .copy cp.core cp.id

/-- Deliver a trap in place of the next issue of a path (R230); a warp whose threads have all exited kills its block. -/
def State.deliverTrap (s : State) (b w : Nat) (d : Delivery) : State :=
  if (s.warp b w).exited then s.kill b else s.modWarp b w fun x => { x with deliver := x.deliver ++ [d] }

/-- A copy ends on a failure found while it moves (R163, R230). -/
def State.failCopy (s : State) (cp : Copy) (cause info lane va : Nat) : State :=
  (s.dropCopy cp).deliverTrap cp.block cp.warp
    { cause := cause, info := BitVec.ofNat 32 info, precise := false, threads := cp.issued, replay := true, fpc := cp.fpc, fva := va,
      fmask := 1#64 <<< lane, adopted := none }

/-- Ask for a copy's current, once (R267). -/
def State.askCopy (s : State) (cp : Copy) : State :=
  if cp.reserved || (s.cluster (clusterOf cp.core)).reqs.any (fun r => r.cls == .copy && r.core == cp.core && r.who == cp.id) then s
  else s.askCurrent .copy cp.core cp.id 1

/-- Park a copy, or a lane of an `ACOPY`, in its warp's replay queue (R229, R246). It gives its reservation back (R267), and an `ACOPY`
with other lanes to move asks again. A full queue leaves it to try again. One that a rollback has cancelled takes up its own record again
(R261). -/
def State.parkCopy (s : State) (cp : Copy) (lane va : Nat) (line : Bool) : State :=
  if !(s.warp cp.block cp.warp).canPark then s else
  let l := s.launch (s.block cp.block).launch
  let mask := 1#64 <<< lane
  let old := (s.warp cp.block cp.warp).replay.find? fun r =>
    r.stale && r.kind == .copy && r.va == va && r.mask == mask && r.fpc == cp.fpc && r.line == line
  let (s, tag) := match old with | some r => (s, r.tag) | none => s.newTag l.fn l.ctx
  let new : Parked := match old with
    | some r => { r with copy := some cp.id, stale := false }
    | none => { tag := tag, kind := .copy, va := va, mask := mask, fpc := cp.fpc, line := line, accs := [], copy := some cp.id,
                answer := none, posted := false, stale := false }
  let s := s.modWarp cp.block cp.warp fun x => { x with replay := x.replay.filter (·.tag != tag) ++ [new] }
  let s : State := (s.modCopy cp.id fun k => { k with reserved := false }).freeCurrent .copy cp.core cp.id
  let s : State := if cp.acopy && cp.parts.any fun p => !s.partParked cp p then s.askCopy { cp with reserved := false } else s
  s.due (.translationWalk cp.block cp.warp tag)

/-- One arrival on a barrier object (R167). -/
def State.arriveBar (s : State) (b w comp : Nat) (old : Bool) : State :=
  let m := (s.block b).shared
  let n := (m.word comp).toNat
  if n = 0 then s.memWrite (some (b, w)) (.shared b) (comp + 4) [1#8] true old
  else s.memWrite (some (b, w)) (.shared b) comp (leBytes 4 (n - 1)) true old

/-- Would a copy's arrival read a byte of its object that is marked as poisoned (R261)? -/
def State.barLost (s : State) (cp : Copy) : Bool := cp.done == .bar && s.sharedBad cp.block cp.comp 4

/-- After the last part: the stamp or the arrival, then the release of the entry (R12, R167, R169). -/
def State.finishCopy (s : State) (cp : Copy) : State :=
  if !cp.acopy && s.barLost cp then s.consume cp.block else
  let s := match cp.done with
    | .none => s
    | .bar => if cp.acopy then s else s.arriveBar cp.block cp.warp cp.comp (s.older cp.block cp.op)
    | .stamp => s.memWrite (some (cp.block, cp.warp)) (.shared cp.block) cp.comp (leBytes 8 cp.stamp) true (s.older cp.block cp.op)
  s.dropCopy cp

/-- A part has been moved. -/
def State.partDone (s : State) (cp : Copy) (i : Nat) : State :=
  if cp.acopy && s.barLost cp then s.consume cp.block else
  let parts := cp.parts.eraseIdx i
  let s := if cp.acopy && cp.done == .bar then s.arriveBar cp.block cp.warp cp.comp (s.older cp.block cp.op) else s
  if parts.isEmpty && !s.compHeld cp then s.finishCopy cp
  else s.modCopy cp.id fun k => { k with parts := parts }

/-- Package of a byte of global memory. -/
def packageOfPa (hbm : Bool) (a : Nat) : Nat := if hbm then a / 2 ^ 39 else a / 2 ^ 29

/-- Move a part whose page is known. One of a package with no path left is an uncorrectable error of its block (R281), and so is a byte
marked as poisoned that it reads (R261). A part that reads a word which a buffered reduction changes comes after that write (R188). -/
def State.movePart (s : State) (cp : Copy) (i : Nat) (p : Part) (leaf : Leaf) (va : Nat) : State :=
  let l := s.launch (s.block cp.block).launch
  let s := s.cacheLeaf (s.block cp.block).core l.fn l.ctx leaf
  let a := leaf.pa va
  if s.unreachable cp.core (packageOfPa leaf.attr.hbm a) || (if cp.dir == .inn then s.readsBad cp.block leaf.attr.hbm a p.len else s.sharedBad cp.block p.sh p.len) then
    s.consume cp.block else
  let late := cp.dir == .inn && !leaf.attr.hbm && (s.block cp.block).reduces .scratch a p.len
  if late && !s.flushClear (s.block cp.block).core then s else
  let s := if late then s.flushNow cp.block else s
  match cp.dir with
  | .inn =>
    let bs := (List.range p.len).map fun j => s.globalByte cp.block leaf.attr.hbm (a + j)
    (s.memWrite (some (cp.block, cp.warp)) (.shared cp.block) p.sh bs true (s.older cp.block cp.op)).partDone cp i
  | .out =>
    let bs := (s.block cp.block).shared.bytes p.sh p.len
    match s.globalWrite cp.block cp.warp leaf.attr.hbm a bs with
    | .ok s => s.partDone cp i
    | .full => s.parkCopy cp p.lane va true
    | .lost => s.consume cp.block

/-- Move one part (R172): fill, or translate and move; a fault parks it, a failing page ends the copy (R163). -/
def State.copyPart (s : State) (cp : Copy) (i : Nat) (p : Part) : State :=
  match p.g with
  | none => (s.memWrite (some (cp.block, cp.warp)) (.shared cp.block) p.sh p.fill true (s.older cp.block cp.op)).partDone cp i
  | some va =>
    let w := s.copyWalk (s.block cp.block).core (s.launch (s.block cp.block).launch) va
    match w with
    | .fault => s.parkCopy cp p.lane va false
    | .bad => s.failCopy cp tcPROTECT 5 p.lane va
    | .leaf leaf =>
      if lroBad cp.dir w then s.failCopy cp tcLINEAGEWRITE 0 p.lane va
      else match copyProtect cp.dir w with
        | some sub => s.failCopy cp tcPROTECT sub p.lane va
        | none => if cp.acopy && leaf.attr.fmt != 0 then s.failCopy cp tcFMTPARTIAL 0 p.lane va
                  else s.movePart cp i p leaf va

/-- COPY_PART: one of a copy's remaining parts, in any order; a copy with none left to move finishes. -/
def execCopyPart (copy part : Nat) (s : State) : Host.Outcome State Fault Refusal :=
  match s.copies.find? (·.id == copy) with
  | none => .next s
  | some cp =>
    if !cp.reserved || (s.block cp.block).saved then .next s
    else if cp.parts.isEmpty || (cp.acopy && cp.done == .bar && s.compHeld cp) then .next (if s.compHeld cp then s else s.finishCopy cp)
    else match cp.parts[part]? with
      | none => .next s
      | some p => .next (if s.partParked cp p || s.partHeld cp p then s else s.copyPart cp part p)

/-! ### Request lists (R164, R314) -/

/-- A request entry as a request; `none` is malformed. -/
def kickReq (ws : List Word) (lane : Nat) (list : Nat × Nat) (idx : Nat) : Option CopyReq :=
  let w := fun i => (ws.getD i 0#32)
  match tcModOf ((w 0).setWidth 8) with
  | none => none
  | some m =>
    if (w 0) >>> 8 != 0#32 || (List.range 3).any (fun i => w (5 + i) != 0#32) || (m.done == .none && w 4 != 0#32) then none
    else some { m := m, d := (w 1).toNat, recAt := (w 2).toNat, coord := (w 3).toNat, comp := (w 4).toNat, lane := lane, list := some list, idx := idx }

/-- Check every entry of a list (R164): the entries with their records. Row 1 of R163 comes before row 2. -/
def Cx.checkKick (c : Cx) (lane : Nat) (list : Nat × Nat) : List (List Word) → Nat → Except Stop (List (List Word × List Word))
  | [], _ => .ok []
  | ws :: rest, idx =>
    let w := fun i => (ws.getD i 0#32).toNat
    if w 1 % 16 != 0 || w 2 % 64 != 0 || w 4 % 8 != 0 then .error (.trap tcMISALIGN (256 * idx))
    else match kickReq ws lane list idx with
      | none => .error (copyRange 2 idx)
      | some q =>
        match c.readRecord q with
        | .error e => .error e
        | .ok r => match c.planCopy q r, Cx.checkKick c lane list rest (idx + 1) with
          | .error e, _ => .error e
          | _, .error e => .error e
          | .ok _, .ok xs => .ok ((ws, r) :: xs)

/-- Groups of `n` words. -/
def wordGroups (n : Nat) (ws : List Word) (count : Nat) : List (List Word) := (List.range count).map fun i => (ws.drop (n * i)).take n

/-- Does a request list hold an outbound copy? -/
def kickOut (es : List (List Word × List Word)) : Bool :=
  es.any fun e => match tcModOf ((e.1.getD 0 0#32).setWidth 8) with | some m => m.dir == .out | none => false

/-- `CKICK` (R164, R314). -/
def execCkick (a b : Opnd) (pa : Perm) (g : Guard) (s : State) :=
  issue (.ckick a b pa g) s fun c => do
    let aa := copyOp a 1 pa
    let bb := copyOp b 2
    c.checkOps [aa, bb]
    c.checkReads [aa, bb] g
    match c.leader g with
    | none => .ok (c.advance (c.endWaits c.s) 2)
    | some l =>
      let x := c.wordAt aa l
      let n := c.wordAt bb l
      require (decide (1 ≤ n) && decide (n ≤ 64)) (.trap tcBADOPND 2)
      require (x % 32 == 0) (.trap tcMISALIGN 0)
      require (decide (x + 32 * n ≤ c.l.shBytes)) (copyRange 1 0)
      require (c.allPerformed && c.canFlush false) .stall
      let c := c.at (c.s.flushEngine c.b false)
      let c ← c.imageReady x (32 * n)
      let es ← c.checkKick l (x, 32 * n) (wordGroups 8 (leWords (c.s.seenBytes c.b (.shared c.b) x (32 * n))) n) 0
      require (decide (c.cst.kicks.length < 16) && c.wp.canPark && c.canFlush (kickOut es)) .stall
      let s := c.s.flushEngine c.b (kickOut es)
      let id := s.serial
      let s := s.fresh.modCore c.core fun k =>
        { k with kicks := k.kicks ++ [{ id := id, block := c.b, warp := c.w, lane := l, issued := 1#64 <<< l, fpc := c.pt.pc, entries := es }] }
      .ok (c.advance (c.endWaits s) 2)

/-- The copy of a kicked entry, checked before: its parts and range (R164). A `.shadow` entry whose pair has been released between its check and
its issue is no longer displaced: it moves the bytes at its shared address (DESIGN CHOICE, log 39). -/
def Block.kickPlan (b : Block) (k : Kick) (e : List Word × List Word) : Option Plan :=
  match kickReq e.1 k.lane (0, 0) 0, readRec e.2 with
  | some q, some r =>
    let n := r.bytes
    let pair := b.glaze.find? fun g => decide (g.2.base ≤ q.d) && decide (q.d + n ≤ g.2.base + g.2.len)
    let sh := if q.m.shadow then q.d + (pair.map (·.2.len)).getD 0 else q.d
    some { parts := r.parts q.coord sh k.lane q.m.dir, range := (sh, n), done := q.m.done, comp := q.comp, dir := q.m.dir,
           lane := k.lane, leaves := [] }
  | _, _ => none

/-- REQUEST_ENGINE_ISSUE: the request engine issues the next entry of its oldest list (R164), on a core that does not halt (R234). -/
def execRequestEngineIssue (core : Nat) (s : State) : Host.Outcome State Fault Refusal :=
  match if (s.core core).halted || (s.core core).halting.isSome then none else (s.core core).kicks.find? fun k => !(s.block k.block).saved with
  | none => .next s
  | some k =>
    match k.entries with
    | [] => .next (s.modCore core fun c => { c with kicks := c.kicks.filter (·.id != k.id) })
    | e :: rest =>
      if boardSize ≤ s.boardUsed core then .next s else
      let s := s.modCore core fun c =>
        { c with kicks := if rest.isEmpty then c.kicks.filter (·.id != k.id)
                   else c.kicks.map fun j => if j.id = k.id then { j with entries := rest } else j }
      .next (match (s.block k.block).kickPlan k e with
        | some p => s.startCopy k.block k.warp k.issued k.fpc p false [p.range] k.id
        | none => s)

/-! ### Barrier objects -/

/-- `BINIT` (R166, R306): one 8-byte store of the issuing warp. -/
def execBinit (a b : Opnd) (pa : Perm) (g : Guard) (s : State) :=
  issue (.binit a b pa g) s fun c => do
    let aa := copyOp a 1 pa
    let bb := copyOp b 2
    c.checkOps [aa, bb]
    c.checkReads [aa, bb] g
    match c.leader g with
    | none => .ok (c.advance (c.endWaits c.s) 2)
    | some l =>
      let xs := c.targets .sh (.store .u64) 8 aa 0 (1#64 <<< l)
      checkLanes xs
      let data := leBytes 8 (c.wordAt bb l)
      let acc := fun (group : Nat) => c.access xs aa 0 8 group (.store .u64 false) [] data l (group + 1)
      c.checkMissing .st []
      c.checkQuiet .sh [acc c.s.serial]
      c.checkFlush .sh [acc c.s.serial]
      c.checkBoard 8 false (okLanes xs)
      if c.det then
        .ok (c.retireMem ((okLanes xs).foldl (fun s x => s.storeOut c.b c.w x.2.place x.2.addr data) c.s) 2 [] none)
      else
        let group := c.s.serial
        .ok (c.retireMem (c.launch c.s .st [] aa 0 false [acc group]) 2 [] (some group))

/-- `CWAIT` (R168, R319): it stalls until the word reads 0. Its read comes after the earlier accesses that order it (R177, R179). DEDUCED: log 30. -/
def execCwait (f : L2a) (s : State) :=
  issue (.cwait f) s fun c => do
    let a := copyOp f.a 1 f.pa
    c.checkOps [a]
    c.checkReads [a] f.g
    match c.leader f.g with
    | none => .ok (c.advance (c.endWaits c.s) 2)
    | some l =>
      let xs := c.targets .sh (.load .u64) 8 a 0 (1#64 <<< l)
      checkLanes xs
      c.checkMissing .ld []
      require ((okLanes xs).all fun x => !c.ownWrites x.2 (c.addrOf a 0 x.1) 8) .stall
      require (c.clearFor [c.access xs a 0 8 c.s.serial (.load .u64 false) [] [] l c.s.serial]) .stall
      c.checkBoard 8 true (okLanes xs)
      let c ← c.ownReady (c.addrOf a 0 l) 4
      require ((okLanes xs).all fun x => (c.readNow 0 x.2.place x.2.addr 4).all (· == 0#8)) .stall
      .ok (c.advance (c.endWaits (c.s.fresh.modWarp c.b c.w fun x => x.pass c.s.serial (1#64 <<< l))) 2)

/-! ### Glazed pairs (R170, R336) -/

/-- Is a pair one that `.reg` accepts (R170)? -/
def Cx.glazeOk (c : Cx) (g base len : Nat) : Bool :=
  base % 64 == 0 && len % 64 == 0 && decide (64 ≤ len) && decide (base + 2 * len ≤ c.l.shBytes) &&
    c.blk.glaze.all fun x => x.1 == g || !overlap base (2 * len) x.2.base (2 * x.2.len)

/-- The swap of a pair: the bytes of both windows change places in one act, a write of all of the window (R48, R170). DEDUCED: log 31. -/
def Cx.glazeSwap (c : Cx) (x : Glaze) : State :=
  let vis := c.blk.shared.bytes x.base x.len
  let hid := c.blk.shared.bytes (x.base + x.len) x.len
  (c.s.memWrite c.actor (.shared c.b) x.base hid).memWrite c.actor (.shared c.b) (x.base + x.len) vis

/-- `GLAZE` (R170, R336). -/
def execGlaze (op : GlazeOp) (pair : Fin 4) (a b : Opnd) (g : Guard) (s : State) :=
  issue (.glaze op pair a b g) s fun c => do
    let aa := copyOp a 1
    let bb := copyOp b 2
    let ops := if op == .reg then [aa, bb] else []
    c.checkOps ops
    c.checkReads ops g
    match c.leader g with
    | none => .ok (c.advance (c.endWaits c.s) 2)
    | some l =>
      let bad : Stop := .trap tcCOPYRANGE 4
      let end_ := fun (s : State) => c.advance (c.endWaits s) 2
      match op with
      | .reg => do
        let base := c.wordAt aa l
        let len := c.wordAt bb l
        require (c.glazeOk pair.val base len) bad
        .ok (end_ (c.s.modBlock c.b fun x => { x with glaze := aput pair.val { base := base, len := len } x.glaze }))
      | .swap =>
        match alook pair.val c.blk.glaze with
        | none => .error bad
        | some x => do
          require (c.allPerformed && c.canFlush false) .stall
          require (!c.s.boarded c.b x.base (2 * x.len) false) .stall
          require (!c.s.sharedBad c.b x.base (2 * x.len)) .lost
          .ok (end_ ((c.at (c.s.flushEngine c.b false)).glazeSwap x))
      | .rel =>
        match alook pair.val c.blk.glaze with
        | none => .error bad
        | some _ => .ok (end_ (c.s.modBlock c.b fun x => { x with glaze := adel pair.val x.glaze }))

end Sys2Proof.Machine
end

