-- ==== Sys2Proof/Machine/Barriers.lean ====
section
/-! DEFINITION. Rendezvous of blocks and spans (R180, R303), arrivals at a step's boundary (R240), blocks that can never go
on (R303), and the end of a warp (R323). -/

namespace Sys2Proof.Machine

open Sys2Proof

/-- Every path of a warp, those that a handler has stopped among them. -/
def Warp.allPaths (w : Warp) : List Path := w.paths ++ (match w.handler with | some h => h.others | none => [])

/-- Threads of a warp held for a reason. -/
def Warp.heldMask (w : Warp) (h : Hold) : Mask :=
  (w.allPaths.filter fun p => p.hold == some h).foldl (fun m p => m ||| p.mask) 0#64

/-- A warp arrives when every thread of it that has not exited is held there (R303). -/
def Warp.allHeld (w : Warp) (h : Hold) : Bool := w.live &&& ~~~ w.heldMask h == 0#64

/-- Resident blocks of the span of a block. -/
def State.spanBlocks (s : State) (b : Nat) : List Block :=
  let blk := s.block b
  let n := max (s.launch blk.launch).span 1
  s.blocks.filter fun x => x.launch == blk.launch && !x.ended && x.num / n == blk.num / n

/-- Has a block an image on its way into a table or slot (R189)? -/
def State.flipping (s : State) (b : Nat) : Bool :=
  let c := s.core (s.block b).core
  (c.acts ++ c.chains).any fun x => x.2.any fun k => k.incoming.any (·.1 == b)

/-- A held path goes on after its one-word instruction. -/
def State.letGo (s : State) (b w pid : Nat) : State :=
  match s.cxOf b w pid with
  | none => s
  | some c =>
    let s := s.modPath b w pid fun p => { p with hold := none }
    (c.at s).goOn s (c.after 1) [(c.pt.mask, c.after 1)]

/-- Every path of a warp held for a reason goes on, lowest thread first; one that a handler has stopped does when the handler ends. -/
def State.letGoAll (s : State) (b w : Nat) (h : Hold) : State :=
  let s := ((sortPaths ((s.warp b w).paths.filter fun p => p.hold == some h)).map (·.id)).foldl (fun s i => s.letGo b w i) s
  s.modWarp b w fun x => { x with handler := x.handler.map fun k =>
    { k with others := k.others.map fun p => if p.hold == some h then { p with hold := some .passed } else p } }

/-- Have all the blocks arrived, with some warp waiting and no flip outstanding (R180, R189)? -/
def State.gathered (s : State) (bs : List Block) (h : Hold) : Bool :=
  bs.all (fun x => !x.saved && x.warps.all (·.allHeld h) && !s.flipping x.id) && bs.any fun x => x.warps.any fun w => !w.exited

/-- A rendezvous of a block or a span, when it is complete (R303): release buffers are performed, held threads go on, and
each block takes its checkpoint before any warp issues. DEDUCED: log 32. -/
def State.rendezvous (s : State) (b : Nat) (h : Hold) : State :=
  let bs := if h == .span then s.spanBlocks b else s.blocks.filter fun x => x.id == b && !x.ended
  if !s.gathered bs h || !bs.all s.releaseFree then s else
  let s := bs.foldl (fun s x => s.flushRelease x.id) s
  let s := bs.foldl (fun s x => x.warps.foldl (fun s w =>
    (s.letGoAll x.id w.idx h).modWarp x.id w.idx fun y =>
      if h == .span then { y with spans := y.spans + 1 } else { y with bars := y.bars + 1 }) s) s
  bs.foldl (fun s x => s.takeCk x.id) s

/-- Has a warp an operation of an engine under way (R241, R248)? -/
def State.warpBusy (s : State) (b w : Nat) : Bool :=
  let c := s.core (s.block b).core
  s.copies.any (fun k => k.block == b && k.warp == w) || c.kicks.any (fun k => k.block == b && k.warp == w) ||
    c.matq.any (fun k => k.block == b && k.warp == w) || c.trees.any (fun k => k.block == b && k.warp == w) ||
    (c.acts ++ c.chains).any fun x => x.2.any fun k => k.owns b w

/-- Has a block an operation under way? -/
def State.blockBusy (s : State) (b : Nat) : Bool := (s.block b).warps.any fun w => s.warpBusy b w.idx

/-- A block arrives at a step's boundary (R240, R241): the arrival is a rendezvous and takes a checkpoint. DEDUCED: log 28. -/
def State.stepArrive (s : State) (b : Nat) : State :=
  let blk := s.block b
  if !(s.launch blk.launch).det || blk.arrived || blk.ended || blk.saved then s
  else if !s.gathered [blk] .kstep || s.blockBusy b || !s.releaseFree blk ||
      blk.warps.any (fun w => !w.pend.isEmpty || w.replay.any (!·.stale)) then s
  else
    (((s.flushRelease b).modBlock b fun x => { x with arrived := true }).takeCk b).due (.stepEnd blk.launch)

/-- Re-evaluate what a held or exited thread can complete (R303). -/
def State.settle (s : State) (b : Nat) : State := ((s.rendezvous b .bar).rendezvous b .span).stepArrive b

/-- Every thread that has not exited is held at barriers or meeting points, and nothing can release them (R303). -/
def Block.stuck (b : Block) : Bool :=
  !b.ended && !b.saved && b.warps.any (fun w => !w.exited) &&
    b.warps.all (fun w => w.live &&& ~~~ (w.heldMask .meet ||| w.heldMask .bar ||| w.heldMask .span ||| w.heldMask .kstep) == 0#64) &&
    !(b.warps.all (·.allHeld .bar) || b.warps.all (·.allHeld .span) || b.warps.all (·.allHeld .kstep))

/-- Packages that a block's buffered writes and step writes go to (R242, R260). -/
def Block.outPackages (b : Block) : List Nat :=
  (b.release.filter (·.place == .scratch)).map (fun x => packageOfPa false x.addr) ++ b.written.map (packageOfPa false) ++
    b.atoms.map (fun x => packageOfPa false x.addr) ++ b.stepCopies.map fun x => packageOfPa true x.1

/-- Does a block hold a write for a package that it has no path to (R281)? -/
def State.writesLost (s : State) (b : Block) : Bool := b.outPackages.any (s.unreachable b.core)

/-- A warp whose threads have all exited releases its registers (R323). -/
def State.warpGone (s : State) (b w : Nat) : State :=
  if !(s.warp b w).exited then s else
  (s.modWarp b w fun x =>
    { x with v := [], p := [], paths := [], waits := [], links := [], absent := [], handler := none, loops := [] }).sweep
      (s.block b).core (some (b, w))

end Sys2Proof.Machine
end

