-- ==== Sys2Proof/Machine/CtrlOps.lean ====
section
/-! DEFINITION. Branches, meeting points, loops, barriers, exits, and the instructions that raise and end traps (R20, R21,
R94, R129, R228, R241, R251, R303, R307, R308, R310, R311, R323, R369, R379, R382). -/

namespace Sys2Proof.Machine

open Sys2Proof

/-! ### Targets (R94) -/

/-- Event that fetches the line of a code address. -/
def Cx.fetchOf (c : Cx) (x : Word) : Instr := .icacheFill c.b (BitVec.ofNat 64 (c.l.codeVa x / 128 * 128))

/-- The header-map bit of a code address; the instruction waits until its line is fetched. -/
def Cx.header? (c : Cx) (x : Word) : Except Stop Bool :=
  match c.s.mapBit c.core c.b c.l x with
  | some v => .ok v
  | none => .error (.await (c.fetchOf x))

/-- A target is word-aligned and its map bit is set, or the transfer takes `BADTARGET`. DEDUCED: log 17. -/
def Cx.checkTarget (c : Cx) (x : Word) : Except Stop Unit := do
  require (x.toNat % 4 == 0) (.trap tcBADTARGET 0)
  let v ← c.header? x
  require v (.trap tcBADTARGET 0)

/-- Check several targets before any thread moves. -/
def Cx.checkTargets (c : Cx) : List Word → Except Stop Unit
  | [] => .ok ()
  | x :: xs => match c.checkTarget x with
    | .error e => .error e
    | .ok _ => Cx.checkTargets c xs

/-- Target of a branch by a word offset. -/
def Cx.target (c : Cx) (off : BitVec 19) : Word := c.pt.pc + (off.signExtend 32) * 4#32

/-! ### Branches -/

/-- `BRA` (R308). -/
def execBra (u : Bool) (f : Br) (s : State) :=
  issue (.bra u f) s fun c => do
    c.checkReads [] f.g
    let t := c.acting f.g
    require (!(u && t != 0#64 && t != c.active)) (.trap tcNONUNIFORM 0)
    if t != 0#64 then c.checkTarget (c.target f.off)
    .ok (c.leave (c.endWaits c.s) 1 [(t, c.target f.off), (c.active &&& ~~~ t, c.after 1)])

/-- Operand of `BRX` and `RET`. -/
def brxOp (a : BitVec 7) : OpSpec := { o := .v a, field := 1, acc := onlyV }

/-- A branch of each thread to the code address in its lane (R310, R379). -/
def runBrx (a : BitVec 7) (g : BitVec 3) (c : Cx) : Except Stop State := do
  c.checkOps [brxOp a]
  c.checkReads [brxOp a] (shortGuard g)
  let t := c.acting (shortGuard g)
  let tgt := fun l => (c.read (c.resolve (brxOp a)) l).lo
  let groups := joinGroups (t.lanes.map fun l => (1#64 <<< l, tgt l))
  c.checkTargets (groups.map (·.2))
  .ok (c.leave (c.endWaits c.s) 1 (groups ++ [(c.active &&& ~~~ t, c.after 1)]))

/-- `BRX`. -/
def execBrx (a : BitVec 7) (g : BitVec 3) (s : State) := issue (.brx a g) s (runBrx a g)
/-- `RET`. -/
def execRet (a : BitVec 7) (g : BitVec 3) (s : State) := issue (.ret a g) s (runBrx a g)

/-- `CALL` (R311): the return address goes to `v0` as a private result. -/
def execCall (f : Br) (s : State) :=
  issue (.call f) s fun c => do
    let d := dOp (.v 0) onlyV
    c.checkReads [] f.g
    let t := c.acting f.g
    if t == 0#64 then .ok (c.advance (c.endWaits c.s) 1) else
    c.checkTarget (c.target f.off)
    if t != fullMask c.width then c.allMergeable t [(.v, 0)]
    let (s, ids, ds) := c.openResults (.call f) c.s d t none true fun _ => (c.after 1).setWidth 64
    let s := c.assign (s.pointAll c.b c.w c.pid t ds ids) (ids.map Token.entry) []
    .ok (c.leave (c.endWaits s) 1 [(t, c.target f.off), (c.active &&& ~~~ t, c.after 1)])

/-- `MEET` (R20). -/
def execMeet (f : Br) (s : State) :=
  issue (.meet f) s fun c => do
    c.checkReads [] f.g
    let t := c.acting f.g
    if t != 0#64 then c.checkTarget (c.target f.off)
    let s := if t == 0#64 then c.s else c.s.modWarp c.b c.w fun w => w.setMr t (some (c.target f.off))
    .ok (c.advance (c.endWaits s) 1)

/-! ### LOOP -/

/-- The count of `LOOP`, read once (R129, R358). -/
def Cx.loopCount (c : Cx) : LoopCount → Except Stop Word
  | .imm n => .ok n
  | .sreg k => do
    c.allReadable [(5, .s, k.toNat)]
    .ok (c.cst.regLane c.wp c.pt .s k.toNat 0)

/-- `LOOP` (R129): it opens a record over the clauses that follow it, or skips them. -/
def execLoop (n : Fin 3) (words : BitVec 8) (count : LoopCount) (s : State) :=
  issue (.loop n words count) s fun c => do
    let k ← c.loopCount count
    let start := c.after 2
    let stop := start + BitVec.ofNat 32 (4 * (words.toNat + 1))
    let v ← c.header? stop
    require v (.trap tcBADCLAUSE 4)
    if k == 0#32 then .ok (c.leave (c.endWaits c.s) 2 [(c.active, stop)]) else
    let s := c.s.modWarp c.b c.w fun w =>
      { w with lc := setAt n.val k w.lc, loops := { n := n, start := start, stop := stop } :: w.loops.filter (·.n != n) }
    .ok (c.advance (c.endWaits s) 2)

/-! ### Turns and barriers -/

/-- `NOP` (R369). -/
def execNop (s : State) := issue .nop s fun c => .ok (c.advance (c.endWaits c.s) 1)

/-- `YIELD` (R251): outside DET mode the path leaves the quadrant's next cycle to other paths that are ready. -/
def execYieldTurn (s : State) :=
  issue .yieldTurn s fun c =>
    let s := c.advance (c.endWaits c.s) 1
    .ok (if c.det then c.endTurn s
      else s.modPath c.b c.w c.pid fun p => { p with yield := some p.next })

/-- `BAR` and `BAR.span` (R303). The warp's accesses are performed before it arrives (R180). DEDUCED: log 32. -/
def execBar (span : Bool) (s : State) :=
  issue (.bar span) s fun c => do
    require c.allPerformed .stall
    .ok ((c.endTurn (c.heldAt (c.endWaits c.s) (if span then .span else .bar))).settle c.b)

/-- `KSTEP` (R241, R351). DEDUCED: log 28. -/
def execKstep (s : State) :=
  issue .kstep s fun c => do
    if !c.det then .ok (c.advance (c.endWaits c.s) 1) else
    require c.allPerformed .stall
    .ok ((c.endTurn (c.heldAt (c.endWaits c.s) .kstep)).settle c.b)

/-! ### EXIT -/

/-- Threads exit, and what their registers alone named dies in the warp's name (R56); the others of the path go on after the `EXIT`. -/
def Cx.exitNow (c : Cx) (s : State) (t : Mask) : State :=
  let s := s.modWarp c.b c.w fun w =>
    match w.handler with
    | some h => { w with handler := none, paths := w.paths ++ h.others }.exitLanes h.mask
    | none => w.exitLanes t
  let s := (s.sweep c.core c.actor).letGoAll c.b c.w .passed
  match (s.warp c.b c.w).path? c.pid with
  | some p => c.goOn s (c.after 1) [(p.mask, c.after 1)]
  | none => s.releases c.b c.w

/-- `EXIT` (R323). In a handler it exits every thread of MASK and ends the handler (R227). DEDUCED: log 32. -/
def execExit (g : BitVec 3) (s : State) :=
  issue (.exit g) s fun c => do
    c.checkReads [] (shortGuard g)
    let s := ((c.issued (c.endWaits c.s)).retire c.b c.w).stalled
    let s := c.exitNow s (c.acting (shortGuard g))
    let s := ((c.endTurn s).warpGone c.b c.w).settle c.b
    .ok (if (s.block c.b).warps.all Warp.exited then s.due (.blockEnd c.b) else s)

/-! ### Traps raised and ended -/

/-- The warp halts for the host's debug agent, and the host is told (R221, R307): `DEBUG`. DESIGN CHOICE: log 15. -/
def Cx.haltDebug (c : Cx) : State :=
  (c.s.stalled.modWarp c.b c.w fun w => { w with paths := w.paths.map fun p => { p with hold := some .debug } }).logEvent
    (packageOf c.core) (.halted c.b c.w)

/-- `BKPT` (R307): a trap, or a halt when a debug session is attached to the context (R221). DESIGN CHOICE: log 15. -/
def execBkpt (imm : BitVec 10) (s : State) :=
  issue (.bkpt imm) s fun c =>
    if (c.s.ctx c.l.fn c.l.ctx).debug then .ok c.haltDebug else .error (.trap tcBKPT imm.toNat)
/-- `TRAP` (R398). -/
def execTrap (imm : BitVec 10) (s : State) := issue (.trap imm) s fun _ => .error (.trap tcTRAPINSN imm.toNat)

/-- Addresses of the instructions of a clause, by their words in the I-cache. -/
def Cx.clauseWalk (c : Cx) : Nat → Word → Except Stop (List Word)
  | 0, _ => .ok []
  | n + 1, x =>
    match c.s.codeWord c.core c.b c.l x with
    | none => .error (.await (c.fetchOf x))
    | some w => match Cx.clauseWalk c n (x + (if w.getLsbD 31 then 8#32 else 4#32)) with
      | .error e => .error e
      | .ok xs => .ok (x :: xs)

/-- A word of the trap frame, as the block reads it. -/
def Cx.frameWord (c : Cx) (off : Nat) : Word := c.s.seenWord c.b (c.s.framePa c.core c.l c.wp false + off)

/-- Is the trap frame's page unmapped (R279), or a byte of the frame marked as poisoned (R261)? -/
def Cx.frameLost (c : Cx) (off n : Nat) : Bool :=
  match c.s.frameAt c.core c.l c.wp false with
  | none => true
  | some a => c.s.readsBad c.b false (a + off) n

/-- Where `RTE` continues (R111): inside the trapped clause at or after the trapped instruction, or at a clause header. DEDUCED: log 17. -/
def Cx.resumeAt (c : Cx) : Except Stop (Word × Option Clause) := do
  let pc := c.frameWord 0x14
  require (pc.toNat % 4 == 0) (.trap tcBADTARGET 0)
  let head := c.frameWord 0x0C
  let index := ((c.frameWord 0x10).fld 0 4).toNat
  let v ← c.header? pc
  if v then .ok (pc, none) else
  require (index != 0 && head.toNat % 4 == 0) (.trap tcBADTARGET 0)
  match c.s.codeWord c.core c.b c.l head with
  | none => .error (.await (c.fetchOf head))
  | some h => do
    let xs ← c.clauseWalk (headerN h) (head + 4#32)
    let k := xs.findIdx (· == pc)
    require (decide (k < xs.length) && decide (index ≤ k + 1)) (.trap tcBADTARGET 0)
    .ok (pc, some { at_ := head, header := h, done := k })

/-- Loop records from the frame (R224, R228): the order of opening is that at entry, records that the handler added come
first. -/
def Cx.frameLoops (c : Cx) (order : List LoopRec) : List LoopRec :=
  let fromFrame := fun (n : Fin 3) => ({ n := n, start := c.frameWord (0x558 + 8 * n.val), stop := c.frameWord (0x55C + 8 * n.val) } : LoopRec)
  let live := fun (r : LoopRec) => !(r.start == 0#32 && r.stop == 0#32)
  (([0, 1, 2] : List (Fin 3)).filter (fun n => !order.any (·.n == n))).map fromFrame |>.filter live |>.append
    ((order.map fun r => fromFrame r.n).filter live)

/-- The pieces of a warp's `v` and `p` registers (R65). -/
def Cx.pieces (c : Cx) : List (RegClass × Nat × Nat) :=
  ((List.range c.wp.grant).flatMap fun n => (List.range (ceilDiv c.width 16)).map fun k => (RegClass.v, n, k)) ++
    (List.range 7).map fun n => (.p, n, 0)

/-- Results of parked paths that a handler abandons are read at once (R52, R228). -/
def Cx.dropParks (c : Cx) (s : State) : State :=
  c.wp.paths.foldl (fun s p => match p.park with
    | some k => k.dests.foldl (fun s e => s.land c.core e) s
    | none => s) s

/-- The `s` registers that a path which returns fills at their first access (R65), with the values at entry where the path joins
others later (R53). DEDUCED: log 25. -/
def Cx.returnS (c : Cx) (h : Handler) : List (Nat × Option Word) :=
  ((List.range 32).filter fun n => !(c.wp.links.any fun k => k.1 == .s && k.2.1 == n)).map fun n =>
    (n, if h.others.isEmpty then none else some (h.s.getD n 0#32))

/-- Are the warp's own writes of its trap frame performed? -/
def Cx.frameQuiet (c : Cx) : Bool :=
  !c.wp.queued.any fun e => e.kind.writes && e.place == .scratch && overlap e.addr e.size (c.s.framePa c.core c.l c.wp false) 65536

/-- The return itself (R228): registers from the frame, the threads of MASK as one path at `TRAPPC`, the other paths resume.
The `s` registers of MASK's path are absent (R65); another path keeps its own, as R53 gives each path one set and the frame holds only one
(DESIGN CHOICE, log 38). A handler's write of the frame's MASK word changes nothing: the threads that return are those of MASK at entry
(DESIGN CHOICE, log 39). DEDUCED: log 32. -/
def Cx.return (c : Cx) (h : Handler) (pc : Word) (cl : Option Clause) : State :=
  let mask := h.mask &&& c.wp.live
  let links := c.wp.links
  let linked := fun (a : RegClass × Nat × Nat) => links.any fun k => k.1 == a.1 && k.2.1 == a.2.1
  let keep := fun (cls : RegClass) => (links.filter (·.1 == cls)).map fun k => (k.2.1, k.2.2)
  let s := (((c.issued (c.dropParks c.s)).retire c.b c.w).stalled).endChrun c.b c.w fun i => h.others.any (·.id == i)
  let id := s.serial
  let last := ((s.warp c.b c.w).path c.pid).lastIssue c.l.cycles
  let path := { c.pt with id := id, mask := mask, pc := pc, clause := cl, s := keep .s, sAbsent := c.returnS h, log := h.log,
                          hold := none, park := none, last := last, age := 0, aged := none, waiting := none, fetch := none,
                          tried := false, ready := false, yield := none }
  let s := s.fresh.modWarp c.b c.w fun w =>
    { w with
      lc := [c.frameWord 0x540, c.frameWord 0x544, c.frameWord 0x548], xi := c.frameWord 0x54C
      wstat := c.frameWord 0x550 &&& 0xF1F#32, loops := c.frameLoops h.loops, v := keep .v, p := keep .p
      absent := c.pieces.filter (fun a => !linked a), fromCtx := false, links := [], handler := none, waits := []
      threads := (List.range w.threads.length).map fun l =>
        let t := w.threads.getD l default
        let mr := c.frameWord (0x84 + 16 * l)
        if mask.has l then { t with mr := if mr == 0xFFFFFFFF#32 then none else some mr } else t
      paths := path :: h.others }
  (((s.arrive c.b c.w id).releases c.b c.w).letGoAll c.b c.w .passed).sweep c.core c.actor

/-- `RTE` (R228, R382): it reads the frame after the warp's own writes of it. DEDUCED: log 32. -/
def execRte (s : State) :=
  issue .rte s fun c => do
    match c.wp.handler with
    | none => .error (.trap tcILLOP 1)
    | some h =>
      require c.frameQuiet .stall
      if c.frameLost 0 0x800 then .ok (c.s.stalled.consume c.b) else
      let (pc, cl) ← c.resumeAt
      .ok (c.return h pc cl)

end Sys2Proof.Machine
end

