-- ==== Sys2Proof/Machine/Gmac.lean ====
section
/-! DEFINITION. AES-256 in Galois message authentication mode, which makes the tags of code lines (R283). -/

namespace Sys2Proof.Machine

open Sys2Proof

/-! ### AES-256 -/

/-- Doubling in the byte field. -/
def gfDouble (x : Byte) : Byte := (x <<< 1) ^^^ (if x.getLsbD 7 then 0x1B#8 else 0#8)

/-- Product in the byte field, by the low `n` bits of the second factor. -/
def gfMul : Nat → Byte → Byte → Byte
  | 0, _, _ => 0#8
  | n + 1, x, y => (if y.getLsbD 0 then x else 0#8) ^^^ gfMul n (gfDouble x) (y >>> 1)

/-- The inverse in the byte field, x^254; 0 goes to 0. -/
def gfInv (x : Byte) : Byte :=
  let sq := fun (y : Byte) => gfMul 8 y y
  let x2 := sq x
  let x4 := sq x2
  let x8 := sq x4
  let x16 := sq x8
  let x32 := sq x16
  let x64 := sq x32
  [x4, x8, x16, x32, x64, sq x64].foldl (gfMul 8) x2

/-- The substitution box. -/
def subByte (x : Byte) : Byte :=
  let y := gfInv x
  y ^^^ y.rotateLeft 1 ^^^ y.rotateLeft 2 ^^^ y.rotateLeft 3 ^^^ y.rotateLeft 4 ^^^ 0x63#8

/-- Bytes added one by one. -/
def xorBytes (a b : List Byte) : List Byte := List.zipWith (· ^^^ ·) a b

/-- Schedule words after the first eight, newest first: `n` more, `i` the index of the next. -/
def keyWords : Nat → Nat → Byte → List (List Byte) → List (List Byte)
  | 0, _, _, ws => ws
  | n + 1, i, rcon, ws =>
    let last := ws.getD 0 []
    let t :=
      if i % 8 = 0 then xorBytes (((last.drop 1) ++ last.take 1).map subByte) [rcon, 0, 0, 0]
      else if i % 8 = 4 then last.map subByte else last
    keyWords n (i + 1) (if i % 8 = 0 then gfDouble rcon else rcon) (xorBytes (ws.getD 7 []) t :: ws)

/-- The fifteen round keys of 16 bytes. -/
def roundKeys (key : List Byte) : List (List Byte) :=
  let first := (List.range 8).map fun i => (key.drop (4 * i)).take 4
  let ws := (keyWords 52 8 1#8 first.reverse).reverse
  (List.range 15).map fun r => ((ws.drop (4 * r)).take 4).flatten

/-- Rows shift: byte r of column c comes from column c + r. -/
def shiftRows (s : List Byte) : List Byte :=
  (List.range 16).map fun i => s.getD (4 * ((i / 4 + i % 4) % 4) + i % 4) 0#8

/-- A column mixes. -/
def mixColumn (s : List Byte) (c : Nat) : List Byte :=
  let x := fun (i : Nat) => s.getD (4 * c + i % 4) 0#8
  (List.range 4).map fun i => gfDouble (x i) ^^^ (gfDouble (x (i + 1)) ^^^ x (i + 1)) ^^^ x (i + 2) ^^^ x (i + 3)

/-- Rounds with their keys; the last has no column mix. -/
def aesRounds : List (List Byte) → List Byte → List Byte
  | [], s => s
  | [k], s => xorBytes (shiftRows (s.map subByte)) k
  | k :: ks, s =>
    let t := shiftRows (s.map subByte)
    aesRounds ks (xorBytes ((List.range 4).flatMap (mixColumn t)) k)

/-- Encrypt one block. -/
def aes256 (key block : List Byte) : List Byte :=
  match roundKeys key with
  | k :: ks => aesRounds ks (xorBytes block k)
  | [] => block

/-! ### GHASH and the tag -/

/-- A block as a number, its first byte highest. -/
def blockNum (bs : List Byte) : BitVec 128 := BitVec.ofNat 128 (leNat bs.reverse)

/-- Product in the field of GHASH: `n` bits of x are left, from the top. -/
def ghashMul : Nat → BitVec 128 → BitVec 128 → BitVec 128 → BitVec 128
  | 0, _, _, z => z
  | n + 1, x, v, z =>
    ghashMul n (x <<< 1) ((v >>> 1) ^^^ (if v.getLsbD 0 then 0xE1#128 <<< 120 else 0#128)) (if x.getLsbD 127 then z ^^^ v else z)

/-- GHASH of blocks. -/
def ghash (h : BitVec 128) : List (List Byte) → BitVec 128 → BitVec 128
  | [], y => y
  | b :: bs, y => ghash h bs (ghashMul 128 (y ^^^ blockNum b) h 0#128)

/-- Blocks of 16 bytes, the last padded with zeros. -/
def padBlocks (bs : List Byte) : List (List Byte) :=
  (List.range (ceilDiv bs.length 16)).map fun i =>
    let b := (bs.drop (16 * i)).take 16
    b ++ List.replicate (16 - b.length) 0#8

/-- The 128-bit tag of authenticated data under a 96-bit IV. DEDUCED: log 12. -/
def gmac (key iv data : List Byte) : BitVec 128 :=
  let h := blockNum (aes256 key (List.replicate 16 0#8))
  let len := (leBytes 8 (8 * data.length)).reverse ++ List.replicate 8 0#8
  ghash h (padBlocks data ++ [len]) 0#128 ^^^ blockNum (aes256 key (iv ++ [0, 0, 0, 1]))

/-- TAG of a code line (R283): bits [127:64] of the tag over the line, its header map and four zero bytes. DEDUCED: log 12. -/
def lineTag (key : BitVec 256) (ctx : Word) (va : Nat) (line : List Byte) (map : Word) : BitVec 64 :=
  (gmac (leBytes 32 key.toNat) (leBytes 4 ctx.toNat ++ leBytes 8 va) (line ++ leBytes 4 map.toNat ++ List.replicate 4 0#8)).extractLsb' 64 64

end Sys2Proof.Machine
end

