-- ==== Sys2Proof/Machine/TxnOps.lean ====
section
/-! DEFINITION. Transactions: `TRY`, `ABORT`, `COMMIT` and the commit point (R197 to R209, R298, R316, R399). -/

namespace Sys2Proof.Machine

open Sys2Proof

/-- Threads rolled back under `TRY.L` that wait for the end of the transaction (R209). -/
def Warp.rolledMask (w : Warp) : Mask := w.heldMask .rolled

/-- Threads stopped outside a handler's MASK (R223). -/
def Warp.outside (w : Warp) : Mask :=
  match w.handler with | some h => h.others.foldl (fun m p => m ||| p.mask) 0#64 | none => 0#64

/-- Is the warp converged on the issuing path (R200)? -/
def Cx.converged (c : Cx) : Bool := c.pt.mask == c.wp.live

/-- Does the issuing path hold every thread still in the transaction (R200)? -/
def Cx.holdsAll (c : Cx) : Bool := c.pt.mask == c.wp.live &&& ~~~ c.wp.rolledMask &&& ~~~ c.wp.outside

/-- A register that is still to be filled (R65): a checkpoint holds every register (R198). -/
def Cx.anyAbsent (c : Cx) : Option (RegClass × Nat × Nat) :=
  match c.wp.absent, c.pt.sAbsent with
  | a :: _, _ => some a
  | [], x :: _ => some (.s, x.1, 0)
  | [], [] => none

/-- `TRY` (R197, R199, R206, R399): the outermost opens a transaction, or is refused with DIVERGE. A refused one that closes an open loop body
whose end is the label goes there through the loop-end examination of R130, though R206 keeps every counter (DESIGN CHOICE, log 38). -/
def execTryTx (lane : Bool) (off : BitVec 19) (s : State) :=
  issue (.tryTx lane off) s fun c => do
    let s := c.endWaits c.s
    match c.wp.tx with
    | some t =>
      if t.depth = 4 then .error (.abort 7 0)
      else .ok (c.advance (s.modWarp c.b c.w fun w => { w with tx := some { t with depth := t.depth + 1 } }) 1)
    | none => do
      let label := c.target off
      c.checkTarget label
      if !c.converged then
        .ok (c.leave (s.modWarp c.b c.w fun w => { w with txcode := 8, txarg := 0 }) 1 [(c.pt.mask, label)])
      else match c.anyAbsent with
      | some a => .error (.await (.registerFill c.b c.w a.1 a.2.1 a.2.2))
      | none =>
        .ok (c.advance (s.fresh.modWarp c.b c.w fun w =>
          { w with
            txcode := 0, txarg := 0, txlanes := 0
            tx := some { depth := 1, since := s.serial, label := label, lane := lane, ck := c.checkpoint, writes := [], reads := [],
                         conflict := false, committing := false, laneCause := none } }) 1)

/-- `ABORT` (R298). -/
def execAbort (imm : BitVec 8) (s : State) :=
  issue (.abort imm) s fun c =>
    if c.inTx then .error (.abort 1 imm.toNat) else .ok (c.advance (c.endWaits c.s) 1)

/-- `COMMIT` (R204, R316): the outermost issues here, and completes at its commit point. -/
def execCommit (s : State) :=
  issue .commit s fun c =>
    match c.wp.tx with
    | none => .ok (c.advance (c.endWaits c.s) 1)
    | some t =>
      if 1 < t.depth then
        .ok (c.advance ((c.endWaits c.s).modWarp c.b c.w fun w => { w with tx := some { t with depth := t.depth - 1 } }) 1)
      else if !c.holdsAll then .error (.abort 8 0)
      else
        .ok ((((c.issued (c.endWaits c.s)).stalled).modWarp c.b c.w fun w =>
          { w with tx := some { t with committing := true } }).due (.commitPoint c.b c.w))

/-! ### The commit point (R204) -/

/-- Perform a buffered byte; `direct` passes by the release buffer, where it stays under the transaction's group, and as one of an SO page when
it is one (R186). -/
def State.commitByte (s : State) (b w : Nat) (group : Nat) (direct : Bool) (x : TxByte) : State :=
  if x.space = 3 then s.stackStore b w x.addr [x.val]
  else s.putOut b w (if x.space = 0 then .shared b else .scratch) x.addr [x.val] false group x.so direct

/-- In a CONTAINED launch a transaction that writes both shared memory and scratchpad, in a span of two or more, cannot leave its scratchpad
bytes in the release buffer: the span's other blocks would see a part of its one act (R184). DEDUCED: log 30. -/
def State.commitDirect (s : State) (b : Nat) (t : Tx) : Bool :=
  let l := s.launch (s.block b).launch
  l.contained && !l.det && decide (2 ≤ l.span) && t.writes.any (·.space == 0) && t.writes.any (·.space == 1)

/-- Does the commit point come after the block's release buffer: it passes it by, or writes bytes of shared memory that it holds, or bytes of
scratchpad that it holds of a later warp (R260)? -/
def State.commitFlushes (s : State) (b w : Nat) (t : Tx) : Bool :=
  s.commitDirect b t || t.writes.any fun x =>
    (x.space == 0 && (s.block b).buffers (.shared b) x.addr 1) || (x.space == 1 && (s.block b).crosses w .scratch x.addr 1)

/-- Does a transaction write a byte of a package with no path left (R281)? -/
def State.commitLost (s : State) (b : Nat) (t : Tx) : Bool :=
  t.writes.any fun x => x.space == 1 && s.unreachable (s.block b).core (x.addr / 2 ^ 29)

/-- The rolled-back threads go on at the label as a path of their own (R209). -/
def State.freeRolled (s : State) (b w : Nat) : State :=
  let ids := ((sortPaths (s.warp b w).paths).filter fun p => p.hold == some .rolled).map (·.id)
  match ids with
  | [] => s
  | id :: _ =>
    let s := s.modWarp b w fun x =>
      { x with paths := x.paths.map fun p => if ids.contains p.id then { p with hold := none } else p }
    ((s.joinPaths b w ids false).arrive b w id).releases b w

/-- May a transaction commit now? The warp's earlier accesses are performed (R184), the scoreboard holds no byte that it writes
(R118, R169), nor one of a release buffer that it performs or fills (R260). -/
def State.commitClear (s : State) (b : Nat) (w : Warp) (t : Tx) : Bool :=
  let core := (s.block b).core
  w.queued.isEmpty && t.writes.all (fun x => x.space != 0 || !s.boarded b x.addr 1 false) &&
    (!(s.launch (s.block b).launch).contained || (decide (s.releaseUsed core + t.writes.length ≤ 65536) && !s.commitFlushes b w.idx t) || s.flushClear core)

/-- COMMIT_POINT: a conflict aborts (R203); else every buffered byte is performed as one act, and the warp goes on. In DET
mode the bytes need step lines: without one the transaction takes the translation fault of R246 as R208 says. -/
def execCommitPoint (block warp : Nat) (s : State) : Host.Outcome State Fault Refusal :=
  let wp := s.warp block warp
  match wp.tx, wp.paths.find? fun p => p.hold.isNone && p.park.isNone with
  | some t, some p =>
    if !t.committing || (s.block block).saved then .next s
    else if t.conflict then .next (s.abortTx block warp 2 0)
    else if !s.commitClear block wp t then .next s
    else if s.commitLost block t || t.writes.any (fun x => x.space == 3 && s.stackLost block wp x.addr false) then
      .next (s.consume block)
    else match s.drawLines block ((t.writes.filter fun x => x.space == 1).map fun x => (x.addr, 1)) with
      | .full => .next (s.abortTx block warp 5 tcTRANSLATE)
      | .lost => .next (s.consume block)
      | .ok s =>
        let direct := s.commitDirect block t
        let s := if s.commitFlushes block warp t then s.flushNow block else s
        let s := (t.writes.foldl (fun s x => s.commitByte block warp t.since direct x) s).flushFull (s.block block).core
        let s := s.modWarp block warp fun w =>
          { w with tx := none, txcode := if w.txlanes == 0#64 then 0 else 5,
                   txarg := if w.txlanes == 0#64 then 0 else t.laneCause.getD 0 }
        match s.cxOf block warp p.id with
        | none => .next s
        | some c => .next (((c.runOn s 1).freeRolled block warp).sweep c.core c.actor)
  | _, _ => .next s

end Sys2Proof.Machine
end

