-- ==== Sys2Proof/Machine/SysOps.lean ====
section
/-! DEFINITION. Special registers, features, snapshots, write declarations and lineage tags (R10, R16, R56, R60, R61, R225,
R255, R265, R286, R335, R359, R386). -/

namespace Sys2Proof.Machine

open Sys2Proof

/-! ### GETSR -/

/-- Special-register numbers (R60). -/
def srNumbers : List Nat := [0, 1, 2, 3, 4, 5, 6, 7, 8, 9, 0x10, 0x11, 0x12, 0x13, 0x14, 0x15, 0x20, 0x21, 0x22, 0x30, 0x31, 0x32]

/-- Is a register read as a pair (R60)? -/
def srPair (w n : Nat) : Bool := n == 0x13 || n == 0x14 || n == 0x15 || (n == 0x22 && w == 64)

/-- Registers whose value differs by lane (R335). -/
def srPerLane (n : Nat) : Bool := n == 0 || n == 1 || n == 4 || n == 9

/-- `TXSTATUS` (R207). -/
def Warp.txstatus (w : Warp) : Word :=
  BitVec.ofNat 32 (w.txcode + 16 * (match w.tx with | some t => t.depth | none => 0) + 256 * w.txarg)

/-- The value of a special register in a lane at issue (R16, R56, R60, R225). DESIGN CHOICE: log 11. -/
def Cx.srValue (c : Cx) (n l : Nat) : Dword :=
  let w := c.wp
  let span := max c.l.span 1
  let inHandler := fun (x : Word) => if w.handler.isSome then x.setWidth 64 else 0#64
  let retired : Dword := w.retired
  match n with
  | 0x00 => BitVec.ofNat 64 l
  | 0x01 => BitVec.ofNat 64 (l / 4)
  | 0x02 => BitVec.ofNat 64 c.width
  | 0x03 => BitVec.ofNat 64 w.idx
  | 0x04 => BitVec.ofNat 64 (w.idx * c.width + l)
  | 0x05 => BitVec.ofNat 64 c.blk.num
  | 0x06 => BitVec.ofNat 64 (c.blk.num / span)
  | 0x07 => BitVec.ofNat 64 (c.blk.num % span)
  | 0x08 => BitVec.ofNat 64 w.role
  | 0x09 => if w.helpers.has l then 1#64 else 0#64
  | 0x10 => w.binds.setWidth 64
  | 0x11 => w.keys.setWidth 64
  | 0x12 => w.deaths.setWidth 64
  | 0x13 => if c.l.det then retired else BitVec.ofInt 64 ((c.clock : Int) - w.cycle0)
  | 0x14 => retired
  | 0x15 => c.l.energy
  | 0x20 => w.wstat.setWidth 64
  | 0x21 => w.txstatus.setWidth 64
  | 0x22 => w.txlanes
  | 0x30 => inHandler (c.frameWord 0x00)
  | 0x31 => inHandler (c.frameWord 0x04)
  | 0x32 => inHandler (c.frameWord 0x14)
  | _ => 0#64

/-- Has every earlier VEC, SFU and ARRAY instruction of the warp completed, apart from `MMA` (R335)? DEDUCED: log 33. -/
def Cx.flagsIn (c : Cx) : Bool :=
  !(c.cst.entries.any fun e => e.st == .pending && e.producer.block == c.b && e.producer.warp == c.w && !e.producer.adopted &&
      (match e.insn with
       | some x => let k := engineOf (x.1.fld 24 7).toNat; k == 0 || k == 1 || k == 3
       | none => false)) &&
    !(c.cst.trees.any fun t => t.block == c.b && t.warp == c.w)

/-- Entries that the warp bound and that are not ready (R44). -/
def Cx.boundOpen (c : Cx) : List Entry := c.cst.entries.filter fun e => e.st != .ready && e.bound.any fun x => x.1 == c.b && x.2.1 == c.w

/-- A read or write of `WSTAT` waits until the flags of earlier instructions and binds have arrived (R44, R335, R386). DEDUCED: log 33. -/
def Cx.wstatReady (c : Cx) : Except Stop Unit := do
  require c.flagsIn .stall
  match c.boundOpen with
  | [] => .ok ()
  | e :: es => match (e :: es).find? (·.st == .abandoned) with
    | some x => .error (.waitEntry x.eid)
    | none => .error .stall

/-- `GETSR` as a lane operation: 0 to 2 have full lineage, 3 to 9 are keyed by value (R16, R39). -/
def semGetsr (c : Cx) (d : Opnd) (sr : BitVec 8) (g : Guard) : Sem :=
  let n := sr.toNat
  { dst := dOp d genDst (srPair c.width n), srcs := [], guard := g, words := 2, base := 0x6B, mod := n, lineage := decide (n ≤ 9),
    ident := if 3 ≤ n && n ≤ 9 then some (n, (List.range c.width).map fun l => (c.srValue n l).lo) else none,
    f := fun _ l => { val := c.srValue n l } }

/-- `GETSR` (R335). DEDUCED: log 16. -/
def execGetsr (d : Opnd) (sr : BitVec 8) (g : Guard) (s : State) :=
  issue (.getsr d sr g) s fun c => do
    let n := sr.toNat
    require (srNumbers.contains n) (.trap tcBADOPND 5)
    require (!(srPerLane n && sDest [dOp d])) (.trap tcBADOPND 0)
    c.checkOps [(semGetsr c d sr g).dst]
    c.checkReads [] g
    if n = 0x20 then c.wstatReady
    let framed := decide (0x30 ≤ n) && c.wp.handler.isSome
    require (!framed || c.frameQuiet) .stall
    if framed && c.frameLost 0 0x18 then .ok (c.s.stalled.consume c.b) else
    runLane (.getsr d sr g) (semGetsr c d sr g) c

/-! ### SETSR -/

/-- Bits that a write of 1 clears in `WSTAT` (R61). -/
def wstatBits : Word := 0xF1F#32

/-- A write of a word of the warp's trap frame by the core (R225); the frame's page is mapped. -/
def Cx.frameStore (c : Cx) (s : State) (off : Nat) (x : Word) : State :=
  let a := s.framePa c.core c.l c.wp false + off
  (s.memWrite c.actor .scratch a (wordBytes x)).modBlock c.b fun b => b.dropOver a 4

/-- `SETSR` (R386). -/
def execSetsr (sr : BitVec 8) (f : L2a) (s : State) :=
  issue (.setsr sr f) s fun c => do
    require (sr == 0x20#8 || sr == 0x32#8) (.trap tcBADOPND 5)
    let a := aOp f.a f.pa
    c.checkOps [a]
    c.checkReads [a] f.g
    match (c.acting f.g).lowest with
    | none => .ok (c.advance (c.endWaits c.s) 2)
    | some l =>
      let x := (c.read (c.resolve a) l).lo
      if sr == 0x20#8 then do
        c.wstatReady
        .ok (c.advance ((c.endWaits c.s).modWarp c.b c.w fun w => { w with wstat := w.wstat &&& ~~~ (x &&& wstatBits) }) 2)
      else if c.wp.handler.isNone then .ok (c.advance (c.endWaits c.s) 2)
      else do
        require c.frameQuiet .stall
        if (c.s.frameAt c.core c.l c.wp false).isNone then .ok (c.s.stalled.consume c.b) else
        .ok (c.advance (c.frameStore (c.endWaits c.s) 0x14 x) 2)

/-! ### QFEAT -/

/-- `QFEAT` as a lane operation: the feature word, and FEATVER above it (R285, R286). -/
def semQfeat (c : Cx) (d : Opnd) (g : Guard) : Sem :=
  let x := c.s.ctx c.l.fn c.l.ctx
  { dst := dOp d onlyV true, srcs := [], guard := g, words := 2, base := 0x6E, lineage := false,
    f := fun _ _ => { val := Dword.pair x.feature x.featver } }

/-- `QFEAT` (R286, R374). -/
def execQfeat (d : Opnd) (g : Guard) (s : State) :=
  issue (.qfeat d g) s fun c => runLane (.qfeat d g) (semQfeat c d g) c

/-! ### SNAP (R265, R392) -/

/-- A block's snapshot registers latched now. DESIGN CHOICE: log 21. -/
def Block.latch (b : Block) (step : Nat) : Block :=
  { b with snap := { warps := b.warps.map fun w => (((sortPaths w.paths).head?.map (·.pc)).getD 0#32, w.retired, w.bars), step := step } }

/-- Latch the snapshot registers of the blocks that a test names. -/
def State.latchAll (s : State) (f : Block → Bool) : State :=
  { s with blocks := s.blocks.map fun b => if f b then b.latch (s.launch b.launch).step else b }

/-- `SNAP` triggers every block of the launch. -/
def execSnap (s : State) :=
  issue .snap s fun c => .ok (c.advance ((c.endWaits c.s).latchAll fun b => b.launch == c.blk.launch && !b.ended) 1)

/-! ### DECLW (R255, R321) -/

/-- Does a range overlap a slot of another live block of the launch? -/
def Cx.declared (c : Cx) (a n : Nat) : Bool :=
  c.s.blocks.any fun b => b.launch == c.blk.launch && b.id != c.b && !b.ended && b.declw.any fun d => overlap a n d.2.1 d.2.2

/-- `DECLW`. -/
def execDeclw (slot : Fin 8) (a b : Opnd) (g : Guard) (s : State) :=
  issue (.declw slot a b g) s fun c => do
    let aa : OpSpec := { o := a, field := 1, pair := true, acc := genDst, rt := .w64 }
    let bb := copyOp b 2
    c.checkOps [aa, bb]
    c.checkReads [aa, bb] g
    match c.leader g with
    | none => .ok (c.advance (c.endWaits c.s) 2)
    | some l =>
      if !c.l.owncompat then .ok (c.advance (c.endWaits c.s) 2) else
      let x := (c.read (c.resolve aa) l).toNat
      let n := c.wordAt bb l
      require (x % 4 == 0 && n % 4 == 0) (.trap tcMISALIGN 0)
      require (decide (x + n ≤ 2 ^ 57)) (.trap tcPROTECT 9)
      let put := fun (ds : List (Nat × Nat × Nat)) => .ok (c.advance ((c.endWaits c.s).modBlock c.b fun k => { k with declw := ds }) 2)
      if n = 0 then put (adel slot.val c.blk.declw) else
      require (!c.declared x n) (.trap tcOWNERSHIP 2)
      put (aput slot.val (x, n) c.blk.declw)

/-! ### LTAG (R10, R359) -/

/-- Warps of a core whose registers point to an entry. -/
def State.holders (s : State) (core eid : Nat) : Nat :=
  ((s.blocks.filter fun b => b.core == core && !b.ended && !b.saved).flatMap fun b => b.warps.filter fun w => w.regIds.contains eid).length

/-- The word that `LTAG` writes for an entry (R10). -/
def State.tagWord (s : State) (core eid : Nat) : Word :=
  let c := s.core core
  match c.entry? eid with
  | none => 0#32
  | some e =>
    c.tag eid ||| (if 1 < s.holders core eid then 0x10000#32 else 0#32) ||| (if e.st == .ready then 0#32 else 0x20000#32) |||
      (if c.keys.any fun k => k.results.contains eid then 0x40000#32 else 0#32)

/-- Operand a of `LTAG`; it accepts no `p7`, as it accepts no reserved code. -/
def ltagOp (a : Opnd) : OpSpec := { o := if a == .p 7#3 then .rsvd 0 else a, field := 1, acc := { v := true, s := true, p := true } }

/-- `LTAG` as a lane operation: one word in every lane. -/
def semLtag (c : Cx) (d a : Opnd) (g : Guard) : Sem :=
  let r := ((c.resolve (ltagOp a)).reg?).getD (.v, 0)
  let x := c.s.tagWord c.core (regPtr c.wp c.pt r.1 r.2)
  { dst := dOp d onlyV, srcs := [], guard := g, words := 2, base := 0x72, lineage := false, f := fun _ _ => { val := x.setWidth 64 } }

/-- `LTAG`: an absent register is filled first; a pending entry is not waited for. -/
def execLtag (d a : Opnd) (g : Guard) (s : State) :=
  issue (.ltag d a g) s fun c => do
    c.checkOps [dOp d onlyV, ltagOp a]
    c.checkReads [] g
    let r := ((c.resolve (ltagOp a)).reg?).getD (.v, 0)
    match c.absentOf r.1 r.2 with
    | x :: _ => .error (.await (.registerFill c.b c.w x.1 x.2.1 x.2.2))
    | [] => runLane (.ltag d a g) (semLtag c d a g) c

end Sys2Proof.Machine
end

