-- ==== Sys2Proof/Machine/Probe.lean ====
section
/-! DEFINITION. The words of the issuing path's next instruction (R94, R100, R109, R110), and the instruction tried on a copy of the
state, which says whether it could issue (R18, R24, R45, R99, R219). -/

namespace Sys2Proof.Machine

open Sys2Proof

/-! ### Fetch and decode -/

/-- Base opcodes of the instructions that abort a transaction by their mnemonic (R108, R201). -/
def notxOps : List Nat :=
  [0x35, 0x3F, 0x40, 0x42, 0x43, 0x44, 0x45, 0x46, 0x47, 0x48, 0x4A, 0x4B, 0x4C, 0x4E, 0x50, 0x52, 0x53, 0x54, 0x55, 0x56, 0x57, 0x58,
   0x59, 0x5A, 0x5B, 0x61, 0x63, 0x6A, 0x6C, 0x6F, 0x70, 0x71]

/-- What the front of the issuing path gives: an instruction, or the state when there is none to run. -/
inductive Fetched where
  | run (i : Instr)
  | other (s : State)
  deriving Repr

/-- A word that is no instruction (R109), or has nonzero reserved bits; NOTX comes between the two (R110). -/
def Cx.badWord (c : Cx) (w0 w1 : Word) : DecodeErr → State
  | .illop => c.trapWords w0 w1 tcILLOP 0 false
  | .resbits =>
    if c.inTx && notxOps.contains (w0.fld 24 7).toNat then
      ((c.issued c.s).retire c.b c.w).stalled.abortTx c.b c.w 4 (w0.fld 24 8).toNat
    else c.trapWords w0 w1 tcRESBITS 0 false

/-- The path waits for a code line (R94). -/
def Cx.waitLine (c : Cx) (x : Word) : State :=
  let e := c.fetchOf x
  (c.s.stalled.modPath c.b c.w c.pid fun p => { p with fetch := some (c.l.codeVa x / 128 * 128) }).due e

/-- Decode an instruction's words. -/
def Cx.decoded (c : Cx) (w0 w1 : Word) : Fetched :=
  match decodeWords w0 w1 with
  | .ok i => .run i
  | .error e => .other (c.badWord w0 w1 e)

/-- The next instruction of the issuing path, from its code lines. -/
def State.fetched (s : State) : Fetched :=
  match s.cx with
  | none => .other s.stalled
  | some c =>
    match s.codeWord c.core c.b c.l c.pt.pc with
    | none => .other (c.waitLine c.pt.pc)
    | some w0 =>
      if w0.getLsbD 31 then
        match s.codeWord c.core c.b c.l (c.pt.pc + 4#32) with
        | none => .other (c.waitLine (c.pt.pc + 4#32))
        | some w1 => c.decoded w0 w1
      else c.decoded w0 0#32

/-! ### Trying an instruction -/

/-- What an instruction of a program does: the arms of `exec`, before the events that look ahead at it. An event is not tried. -/
def tryInstr (i : Instr) (s : State) : Host.Outcome State Fault Refusal :=
  match i with
  | .abort imm => Sys2Proof.Machine.execAbort imm s
  | .acopy dir counted d a c g => Sys2Proof.Machine.execAcopy dir counted d a c g s
  | .actv f t ftz => Sys2Proof.Machine.execActv f t ftz s
  | .and f => Sys2Proof.Machine.execAnd f s
  | .andLong f => Sys2Proof.Machine.execAndLong f s
  | .atom op space ty ord d a b c g => Sys2Proof.Machine.execAtom op space ty ord d a b c g s
  | .bar span => Sys2Proof.Machine.execBar span s
  | .bfi f => Sys2Proof.Machine.execBfi f s
  | .bfx f ty => Sys2Proof.Machine.execBfx f ty s
  | .binit a b pa g => Sys2Proof.Machine.execBinit a b pa g s
  | .bkpt imm => Sys2Proof.Machine.execBkpt imm s
  | .bra u f => Sys2Proof.Machine.execBra u f s
  | .brev f => Sys2Proof.Machine.execBrev f s
  | .brevLong f => Sys2Proof.Machine.execBrevLong f s
  | .brx a g => Sys2Proof.Machine.execBrx a g s
  | .call f => Sys2Proof.Machine.execCall f s
  | .chload k f => Sys2Proof.Machine.execChload k f s
  | .chrun f k => Sys2Proof.Machine.execChrun f k s
  | .ckick a b pa g => Sys2Proof.Machine.execCkick a b pa g s
  | .clz f => Sys2Proof.Machine.execClz f s
  | .clzLong f => Sys2Proof.Machine.execClzLong f s
  | .commit => Sys2Proof.Machine.execCommit s
  | .cos f => Sys2Proof.Machine.execCos f s
  | .cosLong f ftz => Sys2Proof.Machine.execCosLong f ftz s
  | .cvt f rnd dt st => Sys2Proof.Machine.execCvt f rnd dt st s
  | .cwait f => Sys2Proof.Machine.execCwait f s
  | .dadd f m => Sys2Proof.Machine.execDadd f m s
  | .declw slot a b g => Sys2Proof.Machine.execDeclw slot a b g s
  | .dfma f m => Sys2Proof.Machine.execDfma f m s
  | .exit g => Sys2Proof.Machine.execExit g s
  | .exp2 f => Sys2Proof.Machine.execExp2 f s
  | .exp2Long f ftz => Sys2Proof.Machine.execExp2Long f ftz s
  | .fadd f => Sys2Proof.Machine.execFadd f s
  | .faddLong f m => Sys2Proof.Machine.execFaddLong f m s
  | .fclass f ty => Sys2Proof.Machine.execFclass f ty s
  | .fcmp f ty cmp => Sys2Proof.Machine.execFcmp f ty cmp s
  | .fence kind scope => Sys2Proof.Machine.execFence kind scope s
  | .ffma f m => Sys2Proof.Machine.execFfma f m s
  | .fmax f => Sys2Proof.Machine.execFmax f s
  | .fmaxLong f ftz => Sys2Proof.Machine.execFmaxLong f ftz s
  | .fmin f => Sys2Proof.Machine.execFmin f s
  | .fminLong f ftz => Sys2Proof.Machine.execFminLong f ftz s
  | .fmul f => Sys2Proof.Machine.execFmul f s
  | .fmulLong f m => Sys2Proof.Machine.execFmulLong f m s
  | .frnd f ty m exact => Sys2Proof.Machine.execFrnd f ty m exact s
  | .fsub f => Sys2Proof.Machine.execFsub f s
  | .fsubLong f m => Sys2Proof.Machine.execFsubLong f m s
  | .getsr d sr g => Sys2Proof.Machine.execGetsr d sr g s
  | .glaze op pair a b g => Sys2Proof.Machine.execGlaze op pair a b g s
  | .halfmad f ty m => Sys2Proof.Machine.execHalfmad f ty m s
  | .iabs f => Sys2Proof.Machine.execIabs f s
  | .iabsLong f ty => Sys2Proof.Machine.execIabsLong f ty s
  | .iadd f => Sys2Proof.Machine.execIadd f s
  | .iaddLong f ty => Sys2Proof.Machine.execIaddLong f ty s
  | .iaddc d a b pa k g => Sys2Proof.Machine.execIaddc d a b pa k g s
  | .icmp f ty cmp => Sys2Proof.Machine.execIcmp f ty cmp s
  | .ifence => Sys2Proof.Machine.execIfence s
  | .imad f ty => Sys2Proof.Machine.execImad f ty s
  | .imadw f cout => Sys2Proof.Machine.execImadw f cout s
  | .imax f => Sys2Proof.Machine.execImax f s
  | .imaxLong f ty => Sys2Proof.Machine.execImaxLong f ty s
  | .imin f => Sys2Proof.Machine.execImin f s
  | .iminLong f ty => Sys2Proof.Machine.execIminLong f ty s
  | .imul f => Sys2Proof.Machine.execImul f s
  | .imulLong f ty => Sys2Proof.Machine.execImulLong f ty s
  | .imulhi f => Sys2Proof.Machine.execImulhi f s
  | .imulhiLong f ty => Sys2Proof.Machine.execImulhiLong f ty s
  | .isub f => Sys2Proof.Machine.execIsub f s
  | .isubLong f ty => Sys2Proof.Machine.execIsubLong f ty s
  | .isubb d a b pa k g => Sys2Proof.Machine.execIsubb d a b pa k g s
  | .kstep => Sys2Proof.Machine.execKstep s
  | .ld f => Sys2Proof.Machine.execLd f s
  | .ldLong space ty acq f off => Sys2Proof.Machine.execLdLong space ty acq f off s
  | .ldact t f => Sys2Proof.Machine.execLdact t f s
  | .lea f ty => Sys2Proof.Machine.execLea f ty s
  | .log2 f => Sys2Proof.Machine.execLog2 f s
  | .log2Long f ftz => Sys2Proof.Machine.execLog2Long f ftz s
  | .logic3 f fn => Sys2Proof.Machine.execLogic3 f fn s
  | .loop n words count => Sys2Proof.Machine.execLoop n words count s
  | .ltag d a g => Sys2Proof.Machine.execLtag d a g s
  | .matchLanes f ty whole => Sys2Proof.Machine.execMatchLanes f ty whole s
  | .mclr t => Sys2Proof.Machine.execMclr t s
  | .meet f => Sys2Proof.Machine.execMeet f s
  | .mma f => Sys2Proof.Machine.execMma f s
  | .mov f => Sys2Proof.Machine.execMov f s
  | .movLong f ty => Sys2Proof.Machine.execMovLong f ty s
  | .movi d imm => Sys2Proof.Machine.execMovi d imm s
  | .mrd f t => Sys2Proof.Machine.execMrd f t s
  | .mwm d t => Sys2Proof.Machine.execMwm d t s
  | .nop => Sys2Proof.Machine.execNop s
  | .or f => Sys2Proof.Machine.execOr f s
  | .orLong f => Sys2Proof.Machine.execOrLong f s
  | .plop d a b lut g => Sys2Proof.Machine.execPlop d a b lut g s
  | .pmov mode f => Sys2Proof.Machine.execPmov mode f s
  | .popc f => Sys2Proof.Machine.execPopc f s
  | .popcLong f => Sys2Proof.Machine.execPopcLong f s
  | .qfeat d g => Sys2Proof.Machine.execQfeat d g s
  | .qswz f ty => Sys2Proof.Machine.execQswz f ty s
  | .rcp f => Sys2Proof.Machine.execRcp f s
  | .rcpLong f ftz => Sys2Proof.Machine.execRcpLong f ftz s
  | .red op space ty rel f => Sys2Proof.Machine.execRed op space ty rel f s
  | .redux f m => Sys2Proof.Machine.execRedux f m s
  | .ret a g => Sys2Proof.Machine.execRet a g s
  | .rng d a g => Sys2Proof.Machine.execRng d a g s
  | .rsq f => Sys2Proof.Machine.execRsq f s
  | .rsqLong f ftz => Sys2Proof.Machine.execRsqLong f ftz s
  | .rte => Sys2Proof.Machine.execRte s
  | .sar f => Sys2Proof.Machine.execSar f s
  | .sarLong f ty => Sys2Proof.Machine.execSarLong f ty s
  | .scan f m excl => Sys2Proof.Machine.execScan f m excl s
  | .sel f ty => Sys2Proof.Machine.execSel f ty s
  | .setsr sr f => Sys2Proof.Machine.execSetsr sr f s
  | .setxi imm => Sys2Proof.Machine.execSetxi imm s
  | .setxiS sreg imm => Sys2Proof.Machine.execSetxiS sreg imm s
  | .shfl f ty isXor => Sys2Proof.Machine.execShfl f ty isXor s
  | .shl f => Sys2Proof.Machine.execShl f s
  | .shlLong f ty => Sys2Proof.Machine.execShlLong f ty s
  | .shr f => Sys2Proof.Machine.execShr f s
  | .shrLong f ty => Sys2Proof.Machine.execShrLong f ty s
  | .sin f => Sys2Proof.Machine.execSin f s
  | .sinLong f ftz => Sys2Proof.Machine.execSinLong f ftz s
  | .snap => Sys2Proof.Machine.execSnap s
  | .sqrt f => Sys2Proof.Machine.execSqrt f s
  | .sqrtLong f ftz => Sys2Proof.Machine.execSqrtLong f ftz s
  | .st f => Sys2Proof.Machine.execSt f s
  | .stLong space ty rel f off => Sys2Proof.Machine.execStLong space ty rel f off s
  | .tanh f => Sys2Proof.Machine.execTanh f s
  | .tanhLong f ftz => Sys2Proof.Machine.execTanhLong f ftz s
  | .tcopy m f => Sys2Proof.Machine.execTcopy m f s
  | .trap imm => Sys2Proof.Machine.execTrap imm s
  | .tryTx lane off => Sys2Proof.Machine.execTryTx lane off s
  | .vote mode d a g => Sys2Proof.Machine.execVote mode d a g s
  | .wadd t signed f => Sys2Proof.Machine.execWadd t signed f s
  | .waitaddr space wide acq f => Sys2Proof.Machine.execWaitaddr space wide acq f s
  | .wake space f => Sys2Proof.Machine.execWake space f s
  | .wcfg t log2count g => Sys2Proof.Machine.execWcfg t log2count g s
  | .wcut t f => Sys2Proof.Machine.execWcut t f s
  | .wfind t f => Sys2Proof.Machine.execWfind t f s
  | .wget t f => Sys2Proof.Machine.execWget t f s
  | .wload t f => Sys2Proof.Machine.execWload t f s
  | .wpre t f => Sys2Proof.Machine.execWpre t f s
  | .wsave t f => Sys2Proof.Machine.execWsave t f s
  | .wset t scale f => Sys2Proof.Machine.execWset t scale f s
  | .wsum t d g => Sys2Proof.Machine.execWsum t d g s
  | .xor f => Sys2Proof.Machine.execXor f s
  | .xorLong f => Sys2Proof.Machine.execXorLong f s
  | .yieldTurn => Sys2Proof.Machine.execYieldTurn s
  | .issueSelect _ _ | .ageingLimit _ _ | .entryReady _ _ | .registerFill _ _ _ _ _ | .trapEntry _ _ | .commitPoint _ _
  | .atomicEngineGrant _ | .translationWalk _ _ _ | .copyPart _ _ | .requestEngineIssue _ | .reservationGrant _ | .matrixChunk _ _
  | .rowFinal _ _ | .tableFlip _ _ _ | .chainSlotFlip _ _ _ | .sumTreeUnitComplete _ | .watchdog _ | .waitaddrContinue _ _ _
  | .spuriousWakeup _ _ _ | .uncorrectableError _ _ | .correctedError _ _ _ | .bucketLeak _ _ _ | .launchPacket _ _ | .launchAccept _ _
  | .blockDispatch _ | .blockRefill _ | .blockEnd _ | .launchComplete _ | .idleTimer _ | .clusterWakeComplete _ | .stepEnd _
  | .coreHalt _ | .contextSaveComplete _ _ | .icacheFill _ _ | .hostWrite _ _ _ | .snapshotPin _ | .tokenArrive _ _ | .tokenReturn _ _
  | .frequencyTimestamp _ _ | .linkDown _ _ | .deviceReset | .firmwareApply _ | .spdmMeasurement _ _ | .evvalWrite _ _
  | .evaddWrite _ _ | .frespRetry _ _ _ | .frespDecline _ _ _ | .registerWrite _ _ _ | .ctxcreate _ | .ctxdestroy _ | .inval _
  | .seal _ | .preempt _ | .resume _ | .linfo _ | .cinfo _ | .grant _ _ _ _ _ | .envelope _ _ | .bucket _ _ _ _ | .idlecount _ _
  | .degrade _ _ _ | .restore _ _ _ | .spare _ _ _ _ | .drain _ _ _ | .drainComplete _ | .testpkg _ _ _ _ | .snapread _ _
  | .energy _ _ _ | .tokinit _ _ | .floor _ | .fwload _ _ | .events _ _ | .tokenSend _ _ _ | .clusterGated _ | .accessPerformed _ _ _
  | .fqheadWrite _ _ _ | .badop _ | .unknownCommand _ _ => .next s

/-- The next instruction of the issuing path, tried. -/
def State.attempt (s : State) : Host.Outcome State Fault Refusal :=
  match s.fetched with
  | .run i => tryInstr i s
  | .other t => .next t

end Sys2Proof.Machine
end

