-- ==== Sys2Proof/Machine/Select.lean ====
section
/-! DEFINITION. Issue selection (R18, R24, R25, R92 to R97, R110, R219), the turns of a DET block (R247 to R250), deliveries
of traps (R230), and adoption (R50, R51). -/

namespace Sys2Proof.Machine

open Sys2Proof

/-! ### The front of a path (R92 to R97, R110) -/

/-- What a path meets next. -/
inductive Front where
  /-- The code line of an address is not there yet. -/
  | line (addr : Word)
  /-- A completion flag or STALL holds the clause back. -/
  | wait
  /-- A trap at a header or at a word run into, with the CLAUSE that its frame names. -/
  | trap (cause info : Nat) (clause : Word)
  /-- A clause starts. -/
  | start (header : Word)
  /-- The next instruction of a clause. -/
  | inside
  deriving DecidableEq, Repr, Inhabited

/-- Engine class of an instruction by its first word; an encoding that is not an instruction has none (R93, R109). -/
def wordClass (w : Word) : Option Nat :=
  match decodeWords w 0#32 with
  | .error .illop => none
  | _ => some (engineOf (w.fld 24 7).toNat)

/-- The instructions of a clause in the I-cache with their words' addresses, or the address of a missing word. A word of the
clause whose header-map bit is set is reported beside them (R94). -/
def Cx.clauseBody (c : Cx) : Nat → Word → Except Word (List Word × Bool)
  | 0, _ => .ok ([], false)
  | n + 1, x =>
    match c.s.codeWord c.core c.b c.l x, c.s.mapBit c.core c.b c.l x with
    | some w, some bit =>
      if w.getLsbD 31 then
        match c.s.mapBit c.core c.b c.l (x + 4#32) with
        | none => .error (x + 4#32)
        | some bit2 => (Cx.clauseBody c n (x + 8#32)).map fun r => (w :: r.1, bit || bit2 || r.2)
      else (Cx.clauseBody c n (x + 4#32)).map fun r => (w :: r.1, bit || r.2)
    | _, _ => .error x

/-- First instruction, counted from 1, that breaks the class mix of R93. -/
def mixBad (eng : Nat) : List Word → Nat → Option Nat
  | [], _ => none
  | [w], i => match wordClass w with
    | some k => if k == eng || k == 5 then none else some i
    | none => none
  | w :: ws, i => match wordClass w with
    | some k => if k == eng && k != 5 then mixBad eng ws (i + 1) else some i
    | none => mixBad eng ws (i + 1)

/-- Are a header's fields legal (R92)? -/
def headerOk (h : Word) : Bool :=
  let eng := (h.fld 25 3).toNat
  let flag := fun (x : Nat) => decide (x < 12) || x == 15
  headerN h != 0 && decide (eng < 6) && flag (h.fld 9 4).toNat && flag (h.fld 5 4).toNat

/-- Is an assignment of a completion flag open (R96)? A store counts until it is performed: one in a release buffer (R260), and one of a
transaction until its commit. -/
def Cx.tokenOpen (c : Cx) (t : Token) : Bool :=
  match t with
  | .entry e => (match c.cst.entry? e with | some x => x.st != .ready | none => false)
  | .access g => c.wp.queued.any (·.group == g) || c.blk.release.any (fun x => x.warp == c.w && x.group == g) || c.wp.tx.any (·.since == g)
  | .park g => (c.wp.paths ++ (match c.wp.handler with | some h => h.others | none => [])).any fun p => p.park.any (·.group == g)
  | .tree i => c.cst.trees.any (·.id == i)
  | .request _ => false

/-- WAIT and STALL in scheduled mode (R95, R96). -/
def Cx.clauseWaits (c : Cx) (h : Word) : Bool :=
  !c.l.interlocked &&
    (c.wp.flags.any (fun f => h.getLsbD (13 + f.1) && c.tokenOpen f.2) ||
      (match c.pt.last with | some l => decide (c.clock < l + 1 + (h.fld 0 5).toNat) | none => false))

/-- The checks at a clause's start (R110). -/
def Cx.clauseFront (c : Cx) (h : Word) : Front :=
  let pc := c.pt.pc
  if !headerOk h then .trap tcBADCLAUSE 1 pc else
  match c.clauseBody (headerN h) (pc + 4#32) with
  | .error x => .line x
  | .ok (ws, bits) =>
    if bits then .trap tcBADCLAUSE 2 pc else
    match mixBad (h.fld 25 3).toNat ws 1 with
    | some i => .trap tcCLASSMIX i pc
    | none => if c.clauseWaits h then .wait else .start h

/-- What a path meets next (R94). DEDUCED: log 17. -/
def Cx.front (c : Cx) : Front :=
  let pc := c.pt.pc
  if pc.toNat % 4 != 0 then .trap tcBADTARGET 0 pc else
  match c.s.codeWord c.core c.b c.l pc, c.s.mapBit c.core c.b c.l pc with
  | some w, some head =>
    match c.pt.clause with
    | some cl =>
      if cl.done < headerN cl.header then .inside
      else if head then c.clauseFront w else .trap tcBADCLAUSE 3 cl.at_
    | none => if head then c.clauseFront w else .trap tcBADTARGET 0 pc
  | _, _ => .line pc

/-- A trap at a clause header or at a word run into (R224); it waits, as every trap, for results on their way (R223). -/
def Cx.headerTrap (c : Cx) (cause info : Nat) (clause : Word) : State :=
  if c.inTx then c.s.abortTx c.b c.w 5 cause
  else if !c.wp.quiet && c.wp.handler.isNone then c.s.modWarp c.b c.w fun x =>
    { x with deliver := { (default : Delivery) with cause := cause, info := BitVec.ofNat 32 info, precise := true, threads := c.pt.mask } :: x.deliver }
  else c.s.takeTrap c.b c.w c.pid
    { cause := cause, info := BitVec.ofNat 32 info, pc := c.pt.pc, clause := clause, index := 0, adopted := false,
      long := false, replay := false, insn0 := (c.s.codeWord c.core c.b c.l c.pt.pc).getD 0#32, insn1 := 0,
      gmask := c.pt.mask, fpc := 0, fva := 0, fmask := 0 }

/-! ### Deliveries (R230) -/

/-- The path that takes a delivered trap: that of the lowest thread, not exited, of those that issued the access, else of
the warp's lowest thread. A held or parked path takes it later. -/
def Warp.taker (w : Warp) (d : Delivery) : Option Nat :=
  let mine := d.threads &&& w.live
  match (if mine == 0#64 then w.live else mine).lowest with
  | none => none
  | some l => (w.paths.find? fun p => p.mask.has l && p.hold.isNone && p.park.isNone && !w.parkedOn p).map (·.id)

/-- The first delivery that a path can take now, with its path. -/
def Warp.delivery (w : Warp) : Option (Delivery × Nat) :=
  w.deliver.findSome? fun d => (w.taker d).map fun p => (d, p)

/-- The frame of a delivered trap: the first instruction that the path has not issued (R224, R230). A failed or declined fetch
is at the clause header. DEDUCED: log 16. -/
def Cx.deliveryInfo (c : Cx) (d : Delivery) : TrapInfo :=
  let fetch := !d.replay && !d.precise && (d.cause == tcTRANSLATE || d.cause == tcPROTECT)
  let inside := match c.pt.clause with | some cl => decide (cl.done < headerN cl.header) | none => false
  let cl := c.pt.clause.getD default
  let pc := if fetch && inside then cl.at_ else c.pt.pc
  let w0 := match d.adopted with
    | some x => x.1 | none => if fetch then 0#32 else (c.s.codeWord c.core c.b c.l pc).getD 0#32
  let long := !fetch && inside && w0.getLsbD 31
  let w1 := match d.adopted with
    | some x => if long then x.2 else 0#32
    | none => if long then (c.s.codeWord c.core c.b c.l (pc + 4#32)).getD 0#32 else 0#32
  let ran := d.precise && d.cause == tcBADCLAUSE && d.info == 3#32
  { cause := d.cause, info := d.info, pc := pc, clause := if inside || ran then cl.at_ else pc,
    index := if inside && !fetch then cl.done + 1 else 0, adopted := d.adopted.isSome, long := long, replay := d.replay, insn0 := w0,
    insn1 := w1, gmask := if inside && !fetch then c.gmask w0 w1 else c.pt.mask, fpc := d.fpc, fva := d.fva, fmask := d.fmask }

/-- TRAP_ENTRY: a warp takes a delivered trap (R223, R230), not on a core that halts (R234, R236). In a transaction it aborts with
FAULT (R208); in the handler's own path it kills the block (R227). DEDUCED: log 29. -/
def execTrapEntry (block warp : Nat) (s : State) : Host.Outcome State Fault Refusal :=
  let wp := s.warp block warp
  match wp.delivery with
  | none => .next s
  | some (d, pid) =>
    let drop := s.modWarp block warp fun x => { x with deliver := x.deliver.erase d }
    let k := s.core (s.block block).core
    if (s.block block).saved || k.halted || k.halting.isSome then .next s
    else if wp.tx.isSome then .next (drop.abortTx block warp 5 d.cause)
    else if !wp.quiet && wp.handler.isNone then .next s
    else match drop.cxOf block warp pid with
      | none => .next drop
      | some c =>
        let t := if drop.framesTrap c d.cause then drop.drained c.core block warp pid else drop
        if !c.intact t then .next t else .next (t.takeTrap block warp pid ((c.at t).deliveryInfo d))

/-! ### Adoption (R50, R51) -/

/-- Warps of a core that wait on an entry: order, slot, block, warp, and a lane of the path that waits. -/
def State.waiters (s : State) (core eid : Nat) : List (Nat × Nat × Nat × Nat × Nat) :=
  (s.blocks.filter fun b => b.core == core && !b.ended && !b.saved).flatMap fun b =>
    b.warps.flatMap fun w => (w.waits.filter (·.1 == eid)).map fun x => (x.2.1, w.slot, b.id, w.idx, x.2.2)

/-- The earliest of the waiters, ties to the lowest slot. -/
def firstWaiter : List (Nat × Nat × Nat × Nat × Nat) → Option (Nat × Nat × Nat × Nat × Nat)
  | [] => none
  | x :: xs => match firstWaiter xs with
    | none => some x
    | some y => if y.1 < x.1 || (y.1 == x.1 && y.2.1 < x.2.1) then some y else some x

/-- A load that an adopter performs (R50): its instruction, the sources that its key record names, its lanes' addresses. -/
def CoreSt.adoptAddr (c : CoreSt) (k : Key) (pa : Perm) (off l : Nat) : Nat :=
  let j := permLane pa k.width l
  let part := fun (i : Nat) => match k.srcs[i]? with
    | some (.entry _ e) => c.laneVal e j
    | some (.code _ v) => v
    | none => 0#32
  ((Dword.pair (part 0) (part 1)).toNat + off) % 2 ^ 64

/-- The values that an adopted scratchpad load reads, or the trap of the first lane that fails. DEDUCED: log 25. -/
def Cx.adoptRead (c : Cx) (k : Key) (ty : MType) (pa : Perm) (off part : Nat) : Except (Nat × Nat) (List Word) :=
  let xs := (List.range k.width).map fun l =>
    c.laneAddr .sp (.load ty) (mtypeSize ty) (c.cst.adoptAddr k pa off l)
  match xs.findSome? (fun x => match x with
      | .bad cause info => some (cause, info)
      | .noMap => some (tcTRANSLATE, AccessKind.ld.code)
      | .ok _ => none) with
  | some e => .error e
  | none => .ok (xs.map fun x => match x with
      | .ok t =>
        let v := loadElem ty t.sx (c.s.seenBytes c.b t.place t.addr (t.span (mtypeSize ty)))
        if part = 0 then v.lo else v.hi
      | _ => 0#32)

/-- The path at the instruction that it waits to issue: at a header whose clause may start, in that clause. -/
def Cx.entered (c : Cx) : State :=
  match c.front with
  | .start h => c.s.modPath c.b c.w c.pid fun p => { p with pc := p.pc + 4#32, clause := some { at_ := p.pc, header := h, done := 0 } }
  | _ => c.s

/-- A waiter adopts an abandoned entry (R50). Every result but a load's was computed before it was abandoned, and its
production completes anew; a load is performed now, and its fault is the adopter's trap (R51). DEDUCED: log 25. -/
def Cx.adopt (c : Cx) (e : Entry) : State :=
  let mine : Producer := { block := c.b, warp := c.w, adopted := true, since := c.s.serial }
  let take := fun (s : State) (v : List Word) =>
    (s.fresh.modCore c.core fun k => k.modEntry e.eid fun x => { x with st := .pending, known := true, due := none, producer := mine, value := v }).due
      (.entryReady c.core e.eid)
  if e.known then take c.s e.value else
  match e.key, e.insn with
  | some k, some (w0, w1) =>
    match decodeWords w0 w1 with
    | .ok (.ldLong .sp ty _ f off) =>
      match c.adoptRead k ty f.pa off.toNat e.part with
      | .ok v => take c.s v
      | .error (cause, info) =>
        let s := c.entered.modWarp c.b c.w fun x => { x with waits := x.waits.filter fun y => !(y.1 == e.eid && c.pt.mask.has y.2.2) }
        (c.at s).trapWords w0 w1 cause (BitVec.ofNat 32 info) true
    | _ => take c.s e.value
  | _, _ => take c.s e.value

/-- The first adoption due on a core. A poisoned entry is never adopted (R54). -/
def State.adoption (s : State) (core : Nat) : Option State :=
  (s.core core).entries.findSome? fun e =>
    if e.st != .abandoned || e.poison then none else
    match firstWaiter (s.waiters core e.eid) with
    | none => none
    | some (_, _, b, w, l) =>
      match (s.warp b w).paths.find? fun p => p.mask.has l && p.hold.isNone && p.park.isNone with
      | none => none
      | some p => (s.cxOf b w p.id).map fun c => c.adopt e

/-! ### Turns of a DET block (R247 to R250) -/

/-- A path waits at a DET `WAITADDR` whose words are unchanged (R248). -/
def Cx.stillWaits (c : Cx) : Bool :=
  match c.pt.waiting with
  | some (wide, ws) => ws.all fun x => c.waitRead c.s wide x == x.want
  | none => false

/-- Paths of a warp that are neither held nor waiting, by lowest thread. -/
def State.turnPaths (s : State) (b w : Nat) : List Path :=
  (sortPaths (s.warp b w).paths).filter fun p =>
    p.hold.isNone && p.park.isNone && !(match s.cxOf b w p.id with | some c => c.stillWaits | none => true)

/-- The path from which a turn issues: the first at or after the path pointer, wrapping (R249). -/
def State.turnPath (s : State) (b w : Nat) : Option Path :=
  let ps := s.turnPaths b w
  match ps.find? fun p => decide ((s.warp b w).pointer ≤ p.low) with
  | some p => some p
  | none => ps.head?

/-- The next warp that has not exited (R247). -/
def Block.nextWarp (b : Block) : Nat :=
  let n := b.warps.length
  (((List.range n).map fun i => (b.cur + 1 + i) % n).find? fun i => !(b.warp i).exited).getD b.cur

/-- Is nothing of a block outstanding, so that only its own warps could go on (R250)? -/
def State.nothingOut (s : State) (b : Block) : Bool :=
  !s.blockBusy b.id && b.warps.all fun w => w.pend.isEmpty && w.replay.all (·.stale) && w.delivery.isNone

/-- Turns that warps have passed at once, one after another and with nothing outstanding, when the current warp's ends (R250): a turn in which the
warp came to a switch point begins the count anew, that of an exited warp is none. DEDUCED: log 28. -/
def State.passes (s : State) (b : Block) : Nat :=
  if (b.warp b.cur).exited then b.passed else if b.turnOver || !s.nothingOut b then 0 else b.passed + 1

/-- A turn passes to the next warp (R247). A block whose warps have all passed in one rotation with nothing outstanding is
killed and logged (R250). -/
def State.passTurn (s : State) (b : Block) : State :=
  let live := (b.warps.filter fun w => !w.exited).length
  if live ≤ s.passes b then (s.logEvent (packageOf b.core) (.noProgress b.id)).kill b.id
  else s.modBlock b.id fun x => { x with cur := x.nextWarp, turnOver := false, passed := s.passes b }

/-- Is nothing of a warp on its way that could still act in its turn: an operation, an access, a parked one, a trap that it can take (R248)? -/
def State.turnDone (s : State) (b : Nat) (w : Warp) : Bool :=
  !s.warpBusy b w.idx && w.pend.isEmpty && w.replay.all (·.stale) && w.delivery.isNone

/-- Does a block's turn pass now? It waits for the warp's operations (R248), an exited warp's too. A warp that is held or waiting passes at
once, unless every warp of the block is held. -/
def State.turnPasses (s : State) (b : Block) : Bool :=
  let w := b.warp b.cur
  let moving := b.warps.any fun w => w.paths.any fun p => p.hold.isNone && p.park.isNone
  (s.launch b.launch).det && !b.ended && !b.saved && !b.arrived && b.warps.any (fun w => !w.exited) && s.turnDone b.id w &&
    (w.exited || b.turnOver || ((s.turnPath b.id b.cur).isNone && moving))

/-- Pass turns of a block until a warp can issue. DEDUCED: log 28. -/
def State.passTurns (id : Nat) : Nat → State → State
  | 0, s => s
  | n + 1, s =>
    match s.block? id with
    | none => s
    | some b => if s.turnPasses b then State.passTurns id n (s.passTurn b) else s

/-! ### Candidates (R24, R25, R219) -/

/-- A path that could issue in this cycle. -/
structure Cand where
  c : Cx
  front : Front
  cls : Nat
  deriving Repr, Inhabited

/-- Lexicographic order of numbers. -/
def lexLt : List Nat → List Nat → Bool
  | x :: xs, y :: ys => if x = y then lexLt xs ys else decide (x < y)
  | _, _ => false

/-- The first least element by a key. -/
def leastBy {α : Type} (key : α → List Nat) : List α → Option α
  | [] => none
  | x :: xs => match leastBy key xs with
    | none => some x
    | some y => if lexLt (key y) (key x) then some y else some x

/-- Could the path be chosen at all in this cycle: not held, parked or waiting for a line, not tried, in its time, of a warp that has no
trap to take first (R220, R223: then none of its paths issues) and no transaction at its commit point? -/
def Cx.free (c : Cx) : Bool :=
  c.pt.hold.isNone && c.pt.park.isNone && !c.wp.parkedOn c.pt && c.pt.fetch.isNone && !c.pt.tried && decide (c.pt.next ≤ c.clock) &&
    !(match c.wp.tx with | some t => t.committing || t.conflict | none => false) && c.wp.delivery.isNone

/-- Paths of a quadrant that are free; of a DET block only its turn's path (R249). -/
def State.freePaths (s : State) (core q : Nat) : List Cx :=
  (s.blocks.filter fun b => b.core == core && !b.ended && !b.saved).flatMap fun b =>
    (b.warps.filter fun w => w.quad == q).flatMap fun w =>
      let ps := if (s.launch b.launch).det then
          (if b.cur == w.idx && !b.turnOver then (s.turnPath b.id w.idx).toList else [])
        else w.paths
      (ps.filterMap fun p => s.cxOf b.id w.idx p.id).filter Cx.free

/-- Class of the path's next instruction. -/
def Cx.nextClass (c : Cx) (f : Front) : Nat :=
  let a := match f with | .start _ => c.pt.pc + 4#32 | _ => c.pt.pc
  match c.s.codeWord c.core c.b c.l a with
  | some w => engineOf (w.fld 24 7).toNat
  | none => 5

/-- Free paths whose next clause or instruction is there and may start, or that trap there. -/
def candidates (cs : List Cx) : List Cand :=
  cs.filterMap fun c => match c.front with
    | .line _ | .wait => none
    | f => some { c := c, front := f, cls := c.nextClass f }

/-- Paths that do not leave the cycle to others (R251): all of them, when there are no others. -/
def unyielded (q : Quad) (xs : List Cand) : List Cand :=
  let ys := xs.filter fun x => x.c.pt.yield != some q.clock
  if ys.isEmpty then xs else ys

/-- The path that each warp would issue (R25), among ready ones. -/
def warpBest (xs : List Cand) : List Cand :=
  xs.filter fun x => !(xs.any fun y => y.c.b == x.c.b && y.c.w == x.c.w && lexLt [256 - y.c.pt.age, y.c.pt.low] [256 - x.c.pt.age, x.c.pt.low])

/-- Choose (R25, R219). A class that the quadrant has not issued since reset counts as older than any that it has, and the current warps of DET
blocks and of other blocks are ordered by class and start across blocks (DESIGN CHOICE, log 39). -/
def choose (q : Quad) (xs : List Cand) : Option Cand :=
  let aged := xs.filter fun x => x.c.pt.aged.isSome && !x.c.det
  match leastBy (fun x => [x.c.pt.aged.getD 0, x.c.wp.start, x.c.wp.slot, x.c.pt.low]) aged with
  | some x => some x
  | none =>
    leastBy (fun x => [match q.lastClass.getD x.cls none with | some n => n + 1 | none => 0, x.c.wp.start, x.c.wp.slot]) (warpBest xs)

/-- Words of the next instruction of a path that does not trap at its front. -/
def Cand.words (x : Cand) : Option (Word × Word) :=
  let a := match x.front with | .start _ => x.c.pt.pc + 4#32 | _ => x.c.pt.pc
  match x.front, x.c.s.codeWord x.c.core x.c.b x.c.l a with
  | .trap .., _ | _, none => none
  | _, some w => if w.getLsbD 31 then (x.c.s.codeWord x.c.core x.c.b x.c.l (a + 4#32)).map fun v => (w, v) else some (w, 0#32)

/-- The warp that packs with a chosen one (R18, R219): 16-wide, of the same launch, with the same words, the oldest such. -/
def packMate (xs : List Cand) (x : Cand) : Option Cand :=
  if x.c.l.physW != 16 || x.c.det || x.words.isNone then none else
  leastBy (fun y => [y.c.wp.start, y.c.wp.slot]) ((warpBest xs).filter fun y =>
    !(y.c.b == x.c.b && y.c.w == x.c.w) && y.c.blk.launch == x.c.blk.launch && y.words == x.words)

/-- A path is chosen: it starts its clause, or goes on in it. -/
def Cand.enter (x : Cand) (s : State) : State :=
  let c := x.c
  let f := fun (p : Path) => match x.front with
    | .start h => { p with pc := p.pc + 4#32, clause := some { at_ := p.pc, header := h, done := 0 } }
    | _ => p
  s.modWarp c.b c.w fun w =>
    { w.modPath c.pid (fun p => f { p with tried := true, waiting := none }) with pointer := if c.det then c.pt.low else w.pointer }

/-- A chosen path as the one that issues. -/
def Cand.issuing (x : Cand) : Issuing := { block := x.c.b, warp := x.c.w, path := x.c.pid }

/-- What a stall leaves: the path has been tried and may wait for a line, an entry's waiter or a request for current is noted, an event may be
due. -/
def Cand.halts (x : Cand) (s t : State) : State :=
  let c := x.c
  let p := ((t.cxOf c.b c.w c.pid).map (·.pt)).getD default
  ({ s with tick := t.tick, serial := t.serial, agenda := t.agenda, cores := t.cores, clusters := t.clusters }.modWarp c.b c.w fun w =>
    { w with waits := (t.warp c.b c.w).waits }).modPath c.b c.w c.pid fun q => { q with tried := true, fetch := p.fetch }

/-- The state in which a path's next instruction stalls (R45, R96, R99, a full queue), or none when it could issue or traps: the instruction
is tried from this state, and it stalls when the path is still where it was, tried, with nothing but that changed. -/
def Cand.stalls (x : Cand) (s : State) : Option State :=
  let c := x.c
  match x.front, ({ x.enter s with issuing := some x.issuing, packed := none }).attempt with
  | .trap .., _ => none
  | _, .next t =>
    match t.cxOf c.b c.w c.pid with
    | some d =>
      let same := d.blk.rollbacks == c.blk.rollbacks && d.wp.deliver.length == c.wp.deliver.length && d.wp.replay.length == c.wp.replay.length
      if d.pt.tried && d.pt.hold.isNone && d.pt.park.isNone && d.pt.waiting.isNone && same then some (x.halts s t) else none
    | none => none
  | _, _ => none

/-- The ready paths (R24) among those that the front of their code lets issue: whose next instruction does not stall. The others have been tried
in this cycle. -/
def readyOf : List Cand → State → List Cand × State
  | [], s => ([], s)
  | x :: xs, s => match x.stalls s with
    | some t => readyOf xs t
    | none => let r := readyOf xs s; (x :: r.1, r.2)

/-- Of a packed pair, the one in the lower slot, which issues first (R18). -/
def Cand.first (x : Cand) (mate : Option Cand) : Cand :=
  match mate with | some y => if x.c.wp.slot ≤ y.c.wp.slot then x else y | none => x
/-- Of a packed pair, the one that issues second. -/
def Cand.second (x : Cand) (mate : Option Cand) : Option Cand :=
  mate.map fun y => if x.c.wp.slot ≤ y.c.wp.slot then y else x

/-- The chosen path issues next, or traps at its front; of a packed pair the warp in the lower slot issues first (R18). DEDUCED: log 17. -/
def Cand.select (x : Cand) (mate : Option Cand) (s : State) : State :=
  match x.front, mate with
  | .trap cause info cl, _ => (x.c.at s).headerTrap cause info cl
  | _, _ =>
    { (mate.elim (x.enter s) fun y => y.enter (x.enter s)) with
      issuing := some (x.first mate).issuing, packed := (x.second mate).map Cand.issuing }

/-! ### ISSUE_SELECT -/

/-- Ask for the lines that paths wait for (R94, R229). -/
def State.askLines (s : State) (cs : List Cx) : State :=
  cs.foldl (fun s c => match c.front with
    | .line x =>
      let e := c.fetchOf x
      (s.modPath c.b c.w c.pid fun p => { p with fetch := some (c.l.codeVa x / 128 * 128) }).due e
    | _ => s) s

/-- VEC results of a quadrant's warps whose time has come become ready (R98). -/
def State.vecReady (s : State) (core q : Nat) : State :=
  let c := s.core core
  let now := (c.quad q).clock
  (c.entries.filter fun e => e.st == .pending && e.known && e.producer.warp % 4 == q &&
    (match e.due with | some d => decide (d ≤ now) | none => false)).foldl (fun s e => s.complete core e.eid) s

/-- What happens on a core before a cycle's choice: rendezvous that have become complete, turns that pass. -/
def State.beforeIssue (s : State) (core : Nat) : State :=
  let ids := (s.blocks.filter fun b => b.core == core && !b.ended && !b.saved).map (·.id)
  let s := ids.foldl (fun s b => s.settle b) s
  ids.foldl (fun s b => State.passTurns b ((s.block b).warps.length + 1) s) s

/-- Warps of a quadrant. -/
def State.quadWarps (s : State) (core q : Nat) : List (Nat × Warp) :=
  (s.blocks.filter fun b => b.core == core && !b.ended && !b.saved).flatMap fun b =>
    (b.warps.filter fun w => w.quad == q).map fun w => (b.id, w)

/-- What comes before a quadrant's choice and takes its place: a block that can never go on is killed and logged (R250, R303), a conflict
aborts a transaction (R203), a delivered trap is due (R230), an abandoned entry is adopted (R50). -/
def State.insteadOfIssue (s : State) (core q : Nat) : Option State :=
  match s.blocks.find? fun b => b.core == core && b.stuck with
  | some b => some ((s.logEvent (packageOf core) (.noProgress b.id)).kill b.id)
  | none =>
    match (s.quadWarps core q).find? fun x => (match x.2.tx with | some t => t.conflict | none => false) with
    | some (b, w) => some (s.abortTx b w.idx 2 0)
    | none =>
      match (s.quadWarps core q).find? fun x => x.2.delivery.isSome && (x.2.quiet || x.2.handler.isSome || x.2.tx.isSome) with
      | some (b, w) => some (s.due (.trapEntry b w.idx))
      | none => s.adoption core

/-- The quadrant's ready paths in this cycle (R24), and the state with the lines asked for that others wait for. -/
def State.survey (s : State) (core q : Nat) : List Cand × State :=
  let t := s.askLines (s.freePaths core q)
  readyOf (candidates (t.freePaths core q)) t

/-- Paths that could issue in this cycle are ready in it (R24). DESIGN CHOICE: log 14. -/
def State.markReady (s : State) (xs : List Cand) : State :=
  xs.foldl (fun s x => s.modPath x.c.b x.c.w x.c.pid fun p => { p with ready := true }) s

/-- A quadrant chooses among its ready paths, and the warp that packs with the chosen one (R18, R219). -/
def State.choosePath (s : State) (core q : Nat) (all : List Cand) (only : Cand → Bool) : Option State :=
  let k := (s.core core).quad q
  if k.clock < k.busy then none else
  let xs := unyielded k all
  (choose k (xs.filter only)).map fun x => x.select (packMate xs x) (s.markReady all)

/-- A cycle of a quadrant passes without an issue of a path; in the second cycle of a 64-wide instruction the ready paths are older
(R17, R24). DESIGN CHOICE: log 14. -/
def State.idleCycle (s : State) (core q : Nat) (all : List Cand) : State :=
  let k := (s.core core).quad q
  let busy := decide (k.clock < k.busy)
  let s := if busy then s.markReady all else s
  (s.cycle core q k.clock busy).modCore core fun c => c.modQuad q fun x => { x with clock := x.clock + 1 }

/-- ISSUE_SELECT (R219): a halted core issues nothing (R234). DESIGN CHOICE: log 14. -/
def execIssueSelect (core q : Nat) (s : State) : Host.Outcome State Fault Refusal :=
  let k := s.core core
  if k.halted || k.halting.isSome || 4 ≤ q then .next s else
  let s := (s.vecReady core q).beforeIssue core
  match s.insteadOfIssue core q with
  | some s => .next s
  | none =>
    let (all, t) := s.survey core q
    .next ((t.choosePath core q all fun _ => true).getD (t.idleCycle core q all))

/-- AGEING_LIMIT (R25): a ready path whose counter has reached 256 issues ahead of the other rules. -/
def execAgeingLimit (core q : Nat) (s : State) : Host.Outcome State Fault Refusal :=
  let k := s.core core
  if k.halted || k.halting.isSome || 4 ≤ q then .next s else
  let s := (s.vecReady core q).beforeIssue core
  match s.insteadOfIssue core q with
  | some s => .next s
  | none =>
    let (all, t) := s.survey core q
    .next ((t.choosePath core q all fun x => x.c.pt.aged.isSome && !x.c.det).getD s)

end Sys2Proof.Machine
end

