-- ==== Sys2Proof/Machine/EngineEvents.lean ====
section
/-! DEFINITION. Events of a core's engines and of memory: completions, fills, performed accesses, replays (R229, R230), code
fetch (R283), current reservations (R267), waits (R194), errors and their counters (R54, R237, R257, R261). -/

namespace Sys2Proof.Machine

open Sys2Proof

/-! ### Completions and fills -/

/-- ENTRY_READY (R37): a computed result without a fixed latency becomes ready; results of the sum-tree unit wait for it. DESIGN CHOICE: log 14. -/
def execEntryReady (core eid : Nat) (s : State) : Host.Outcome State Fault Refusal :=
  let c := s.core core
  match c.entry? eid with
  | none => .next s
  | some e =>
    if e.st == .pending && e.known && e.due.isNone && !(c.trees.any fun t => t.dests.contains eid) then .next (s.complete core eid)
    else .next s

/-- REGISTER_FILL (R65): an absent piece is filled from the save area; an `s` register on each path that lacks it. An unmapped
frame page is an uncorrectable error (R279), and so is a byte of the slot that is marked as poisoned (R261). -/
def execRegisterFill (block warp : Nat) (cls : RegClass) (r piece : Nat) (s : State) : Host.Outcome State Fault Refusal :=
  let w := s.warp block warp
  let lacking := w.paths.filter fun p => cls == .s && (alook r p.sAbsent).isSome
  if (!w.absent.contains (cls, r, piece) && lacking.isEmpty) || (s.block block).saved then .next s
  else if s.slotLost block warp cls r then .next (s.consume block)
  else if cls == .s then .next (lacking.foldl (fun s p => s.fillS block warp p.id r) s)
  else match w.paths.head? with
    | none => .next s
    | some p => .next (s.fillPiece block warp p.id cls r piece)

/-! ### Accesses (R96, R158, R172) -/

/-- ACCESS_PERFORMED: an access that its order and the scoreboard allow is performed. Atomics on scratchpad wait for their
engine (R158). DEDUCED: log 9. -/
def execAccessPerformed (block warp serial : Nat) (s : State) : Host.Outcome State Fault Refusal :=
  match (s.warp block warp).pend.find? (·.serial == serial) with
  | none => .next s
  | some a => .next (if a.engine.isSome || (s.block block).saved then s else s.perform block warp serial)

/-- Requests that wait at the atomic engine of a cluster and may be performed: core, block, warp, serial. -/
def State.engineReqs (s : State) (cluster : Nat) : List (Nat × Nat × Nat × Nat) :=
  (s.blocks.filter fun b => !b.saved).flatMap fun b => b.warps.flatMap fun w =>
    (w.pend.filter fun a => a.engine == some cluster && s.mayPerform b.id w a).map fun a => (b.core, b.id, w.idx, a.serial)

/-- ATOMIC_ENGINE_GRANT (R158): after four local grants in a row the oldest remote request; else the next local core in turn;
else the oldest remote request. -/
def execAtomicEngineGrant (cluster : Nat) (s : State) : Host.Outcome State Fault Refusal :=
  let k := s.cluster cluster
  let all := s.engineReqs cluster
  let near := all.filter fun x => clusterOf x.1 == cluster
  let far := leastBy (fun x => [x.2.2.2]) (all.filter fun x => clusterOf x.1 != cluster)
  let do1 := fun (x : Nat × Nat × Nat × Nat) (k : Cluster) => (s.setCluster cluster k).perform x.2.1 x.2.2.1 x.2.2.2
  let remote := fun (x : Nat × Nat × Nat × Nat) => do1 x { k with locals := 0 }
  match far, leastBy (fun x => [(x.1 % 8 + 7 - k.lastCore) % 8, x.2.2.2]) near with
  | some x, none => .next (remote x)
  | some x, some y =>
    if 4 ≤ k.locals then .next (remote x) else .next (do1 y { k with locals := k.locals + 1, lastCore := y.1 % 8 })
  | none, some y => .next (do1 y { k with locals := k.locals + 1, lastCore := y.1 % 8 })
  | none, none => .next s

/-! ### Replay (R229, R230, R246) -/

/-- The context of a warp without a path. -/
def State.warpCx (s : State) (b w : Nat) : Cx :=
  let blk := s.block b
  let l := s.launch blk.launch
  { s := s, b := b, w := w, pid := 0, blk := blk, wp := blk.warp w, pt := default, l := l, width := l.w, core := blk.core,
    cst := s.core blk.core }

/-- What a parked access's checks are for, and its access size. -/
def Parked.use (r : Parked) (a : Access) : Use × Nat :=
  match a.kind with
  | .load ty _ => (if r.kind == .wait then .wait else .load ty, mtypeSize ty)
  | .wait wide _ _ => (.wait, if wide then 8 else 4)
  | .store ty _ => (.store ty, mtypeSize ty)
  | .atom _ ty .. => (.atom, atomSize ty)
  | .wake | .fence .. | .bound _ _ => (.wake, 4)

/-- Rewrite a warp's parked entry with a tag, or drop it. -/
def State.modParked (s : State) (b w tag : Nat) (f : Parked → Option Parked) : State :=
  s.modWarp b w fun x => { x with replay := x.replay.filterMap fun r => if r.tag = tag then f r else some r }

/-- Kind of a fault record: 1 parked access, 3 step line (R275). -/
def Parked.recordKind (r : Parked) : Nat := if r.line then 3 else 1

/-- Tags of the host have 16 bits (R275). An access that its core's halt has parked has a number above them until it has a record. -/
def tagLimit : Nat := 65536

/-- Post the record of a parked entry, with the address and the lanes that fault now (R230). -/
def State.postParked (s : State) (b w : Nat) (r : Parked) : State :=
  let blk := s.block b
  let l := s.launch blk.launch
  let (s, tag) := if tagLimit ≤ r.tag then s.newTag l.fn l.ctx else (s, r.tag)
  (s.modParked b w r.tag fun x =>
    some { x with tag := tag, va := r.va, mask := r.mask, posted := true, answer := none }).faultRecord l.fn l.ctx r.recordKind r.kind.code tag
      r.va blk.num w 0 0

/-- A warp's pointers to an entry name another one: registers on every path, linked registers, a checkpoint, flags. -/
def Warp.repoint (f : Nat → Nat) (w : Warp) : Warp :=
  let ptrs := fun (xs : List (Nat × Nat)) => xs.map fun x => (x.1, f x.2)
  let path := fun (p : Path) => { p with s := ptrs p.s }
  { w with
    v := ptrs w.v, p := ptrs w.p, paths := w.paths.map path, links := w.links.map fun x => (x.1, x.2.1, f x.2.2)
    flags := w.flags.map fun x => (x.1, match x.2 with | .entry e => .entry (f e) | t => t)
    handler := w.handler.map fun h => { h with others := h.others.map path }
    tx := w.tx.map fun t => { t with ck := { t.ck with v := ptrs t.ck.v, p := ptrs t.ck.p, s := ptrs t.ck.s } } }

/-- A keyed load is declined (R37, R230): its registers in the warp, and in the block's checkpoint of it, name an entry that holds 0, and the
load's own entry is abandoned, with its key record, to its other holders. DEDUCED: log 29. -/
def State.declineEntry (s : State) (b w : Nat) (x : Entry) : State :=
  let blk := s.block b
  let (s, id) := s.alloc blk.core (s.launch blk.launch).physW none
    { (default : Entry) with cls := x.cls, value := x.value.map fun _ => 0#32, st := .pending, known := true, ctx := x.ctx,
                             producer := { block := b, warp := w, adopted := false } }
  let f := fun (e : Nat) => if e = x.eid then id else e
  let s := s.modBlock b fun k =>
    { k with
      warps := k.warps.map fun y => if y.idx = w then y.repoint f else y
      ck := k.ck.map fun c => { c with warps := c.warps.map fun y => if y.idx = w then y.repoint f else y } }
  (s.land blk.core id).abandon blk.core fun e => e.eid == x.eid

/-- The results of a load that is declined hold 0 in its active lanes (R230). -/
def State.declineGroup (s : State) (b w group : Nat) (dests : List Nat) : State :=
  if (s.warp b w).queued.any (·.group == group) then s else
  let core := (s.block b).core
  dests.foldl (fun s e => match (s.core core).entry? e with
    | some x => if x.key.isSome && x.st == .pending then s.declineEntry b w x else s.land core e
    | none => s) s

/-- A parked access ends without being performed, and its warp takes a trap (R230). -/
def State.endParked (s : State) (b w : Nat) (r : Parked) (cause info : Nat) (va : Nat) (mask : Mask) : State :=
  let s := s.modParked b w r.tag fun _ => none
  let s := r.accs.foldl (fun s a => s.declineGroup b w a.group a.dests) s
  s.deliverTrap b w
    { cause := cause, info := BitVec.ofNat 32 info, precise := false,
      threads := if r.accs.isEmpty then r.mask else maskOf (r.accs.map (·.lane)), replay := true, fpc := r.fpc, fva := va,
      fmask := mask, adopted := none }

/-- Accesses ready to be performed: in DET mode at once, when none is parked that comes before them (R229); else with the warp's other
accesses. A DET write without a step line parks again (R246). DEDUCED: log 29. -/
def State.replayGo (s : State) (b w : Nat) (r : Parked) (accs : List Access) : State :=
  let det := (s.launch (s.block b).launch).det
  let ranges := (accs.filter fun a => a.kind.writes && a.place == .scratch).map fun a => (a.addr, a.size)
  if !det then
    (s.modParked b w r.tag fun _ => none).modWarp b w fun x => { x with pend := x.pend ++ accs }
  else if accs.any fun a => ((s.warp b w).unqueue r.tag).blocks a then s
  else if accs.any (s.accessLost b) then s.consume b
  else match s.drawLines b ranges with
    | .lost => s.consume b
    | .ok s =>
      let s := (s.modParked b w r.tag fun _ => none).modWarp b w fun x => { x with pend := x.pend ++ accs }
      s.performList b w accs
    | .full =>
      (s.modParked b w r.tag fun r => some { r with line := true, accs := accs, answer := none, posted := false }).due
        (.translationWalk b w r.tag)

/-- Where an access of a parked instruction goes: one to shared memory, that its core's halt has parked, has its place (R234). -/
def Cx.replayAddr (c : Cx) (r : Parked) (a : Access) : LaneAddr :=
  match a.place with
  | .shared b => .ok { space := 0, place := .shared b, addr := a.addr, ord := a.ord, sx := a.sx, leaf := none, far := a.span }
  | .scratch => c.laneAddr .sp (r.use a).1 (r.use a).2 a.va

/-- The accesses of a parked instruction with their translations: loads and atomics lane by lane, stores by their pieces. -/
def Parked.translated (r : Parked) (xs : List (Access × Target)) : List Access × Bool :=
  let at_ := fun (a : Access) (t : Target) (size : Nat) =>
    { a with place := t.place, addr := t.addr, size := t.span size, ord := t.ord, sx := t.sx,
             engine := (match a.kind with | .atom .. => if t.space = 1 then some (clusterOfPa t.addr) else none | _ => none) }
  match if r.placed then none else xs.head?.map fun (x : Access × Target) => x.1.kind with
  | some (.store ty _) =>
    let val := fun l => ((xs.find? fun (x : Access × Target) => x.1.lane == l).map fun (x : Access × Target) => BitVec.ofNat 64 (leNat x.1.data)).getD 0#64
    let (ps, sat) := storePieces ty (xs.map fun (x : Access × Target) => (x.1.lane, x.2)) val
    (ps.filterMap fun p => (xs.find? fun (x : Access × Target) => x.1.lane == p.lane).map fun (x : Access × Target) =>
      { at_ x.1 p.target (mtypeSize ty) with lanes := p.lanes, addr := p.target.addr, data := p.data, size := p.data.length }, sat)
  | _ => (xs.map fun x => at_ x.1 x.2 (r.use x.1).2, false)

/-- Replay a parked access: every lane is translated again before any performs (R229). A DET `WAITADDR` is issued again once its
address translates (R248). DEDUCED: log 29. -/
def State.replayAccess (s : State) (b w : Nat) (r : Parked) : State :=
  if r.line then s.replayGo b w r r.accs else
  let c := s.warpCx b w
  if r.accs.isEmpty then
    (if s.translate (some c.core) c.l.fn c.l.ctx r.va == .fault then s.postParked b w r else s.modParked b w r.tag fun _ => none) else
  let all := r.accs.map fun a => (a, c.replayAddr r a)
  match all.find? fun x => (match x.2 with | .bad _ _ => true | _ => false) with
  | some (a, .bad cause info) => s.endParked b w r cause info a.va (maskOf ((all.filter fun (x : Access × LaneAddr) => match x.2 with
      | .bad k _ => k == cause | _ => false).map fun (x : Access × LaneAddr) => x.1.lane))
  | _ =>
    match all.filter fun x => x.2 == .noMap with
    | x :: xs => s.postParked b w { r with va := x.1.va, mask := maskOf ((x :: xs).map fun (y : Access × LaneAddr) => y.1.lane) }
    | [] =>
      let xs := all.filterMap fun x => match x.2 with | .ok t => some (x.1, t) | _ => none
      let bad := match r.kind, r.placed with | .st, false => sxBad (xs.map fun (x : Access × Target) => (x.1.lane, x.2)) | _, _ => []
      match bad with
      | l :: _ => s.endParked b w r tcFMTPARTIAL 0 (((xs.find? fun (x : Access × Target) => x.1.lane == l).map fun (x : Access × Target) => x.1.va).getD 0) (maskOf bad)
      | [] =>
        let s := s.cacheLeaves c.core c.l.fn c.l.ctx (all.map fun (x : Access × LaneAddr) => x.2)
        let (accs, sat) := r.translated xs
        (if sat then s.raise b w flFMTSAT else s).replayGo b w r accs

/-- A parked copy goes on (R229): it asks for current again (R267). -/
def State.replayCopy (s : State) (b w : Nat) (r : Parked) (id : Nat) : State :=
  let s := s.modParked b w r.tag fun _ => none
  match s.copies.find? (·.id == id) with
  | none => s
  | some cp => s.askCopy cp

/-- An entry whose host has answered RETRY: the access, copy or fetch is tried again (R229). -/
def State.replayEntry (s : State) (b w : Nat) (r : Parked) : State :=
  if r.kind == .fetch then (s.modParked b w r.tag fun _ => none).due (.icacheFill b (BitVec.ofNat 64 r.va))
  else match r.copy with
    | some id => s.replayCopy b w r id
    | none => s.replayAccess b w r

/-- Does a block's core do nothing for it: saved, halting or halted (R234)? -/
def State.resting (s : State) (b : Nat) : Bool :=
  let k := s.core (s.block b).core
  (s.block b).saved || k.halted || k.halting.isSome

/-- A parked entry of a warp of a context, by its tag. -/
def State.parkedOf (s : State) (fn slot tag : Nat) : Option (Nat × Nat × Parked) :=
  if tagLimit ≤ tag then none else
  s.blocks.findSome? fun b =>
    let l := s.launch b.launch
    if l.fn != fn || l.ctx != slot then none
    else b.warps.findSome? fun w => (w.replay.find? (·.tag == tag)).map fun r => (b.id, w.idx, r)

/-- Clear the paths of a warp that wait for a code line. -/
def State.clearFetch (s : State) (b w va : Nat) : State :=
  s.modWarp b w fun x => { x with paths := x.paths.map fun p => if p.fetch == some va then { p with fetch := none } else p }

/-- A declined access ends (R230); a declined fetch traps at its clause header. DEDUCED: log 29. -/
def State.decline (s : State) (b w : Nat) (r : Parked) : State :=
  match r.kind, r.copy with
  | .fetch, _ =>
    ((s.modParked b w r.tag fun _ => none).clearFetch b w r.va).deliverTrap b w
      { cause := tcTRANSLATE, info := 6, precise := false, threads := r.mask, replay := false, fpc := 0, fva := 0, fmask := 0, adopted := none }
  | _, some id =>
    match s.copies.find? (·.id == id) with
    | some cp => s.failCopy cp tcTRANSLATE AccessKind.copy.code ((r.mask.lowest).getD 0) r.va
    | none => s.modParked b w r.tag fun _ => none
  | k, none => s.endParked b w r tcTRANSLATE k.code r.va r.mask

/-- TRANSLATION_WALK (R229): the walk's fault posts its record; after RETRY the queue replays its answered entries in order. The
record of a cancelled access only keeps its answer (R261). DEDUCED: log 29. -/
def execTranslationWalk (block warp tag : Nat) (s : State) : Host.Outcome State Fault Refusal :=
  match (s.warp block warp).replay.find? (·.tag == tag) with
  | none => .next s
  | some r =>
    if s.resting block || r.stale then .next s
    else if !r.posted then .next (s.postParked block warp r)
    else match r.answer with
      | none => .next s
      | some false => .next (s.decline block warp r)
      | some true =>
        let first := ((s.warp block warp).replay.find? fun x => !x.stale && x.answer == some true).getD r
        .next (s.replayEntry block warp first |> fun t => if first.tag == tag then t else t.due (.translationWalk block warp tag))

/-- FRESP_RETRY: the host answers RETRY; while the context is saved the answer waits for its restore (R275). DEDUCED: log 29. -/
def execFrespRetry (fn slot tag : Nat) (s : State) : Host.Outcome State Fault Refusal :=
  match s.parkedOf fn slot tag with
  | none => .next s
  | some (b, w, _) => .next ((s.modParked b w tag fun r => some { r with posted := true, answer := some true }).due (.translationWalk b w tag))

/-- FRESP_DECLINE: the host answers DECLINE (R230); on a core that halts, and for the record of a cancelled access, the answer is
kept (R236, R261). DEDUCED: log 29. -/
def execFrespDecline (fn slot tag : Nat) (s : State) : Host.Outcome State Fault Refusal :=
  match s.parkedOf fn slot tag with
  | none => .next s
  | some (b, w, r) =>
    if s.resting b || r.stale then .next (s.modParked b w tag fun r => some { r with posted := true, answer := some false })
    else .next (s.decline b w r)

/-! ### Code fetch (R94, R196, R283) -/

/-- Kill a block for a failed authentication; the device logs it (R283). -/
def State.codeAuth (s : State) (b : Nat) : State := (s.logEvent (packageOf (s.block b).core) (.codeAuth b)).kill b

/-- Paths of a block that wait for a line: warp, path. -/
def Block.fetchers (b : Block) (va : Nat) : List (Nat × Path) :=
  b.warps.flatMap fun w => (w.paths.filter fun p => p.fetch == some va).map fun p => (w.idx, p)

/-- A faulting fetch parks, once for a warp, and holds the paths that want its line (R229), while the warp's other paths go on (DESIGN CHOICE,
log 39); in a transaction it aborts with FAULT (R208). A full
queue asks again. DEDUCED: log 17. -/
def State.parkFetch (s : State) (b va : Nat) : State :=
  ((s.block b).fetchers va).foldl (fun s x =>
    let w := s.warp b x.1
    if w.tx.isSome then s.abortTx b x.1 5 tcTRANSLATE
    else if w.replay.any fun r => r.kind == .fetch && r.va == va then s
    else if !w.canPark then s.clearFetch b x.1 va
    else
      let l := s.launch (s.block b).launch
      let (s, tag) := s.newTag l.fn l.ctx
      (s.modWarp b x.1 fun w =>
        { w with replay := w.replay ++ [{ tag := tag, kind := .fetch, va := va, mask := x.2.mask, fpc := x.2.pc, line := false, accs := [],
                                          copy := none, answer := none, posted := false, stale := false }] }).due (.translationWalk b x.1 tag)) s

/-- A fetch that fails its page's checks is a trap at the clause header of each waiting path (R156, R224). -/
def State.fetchTrap (s : State) (b va info : Nat) : State :=
  ((s.block b).fetchers va).foldl (fun s x =>
    (s.clearFetch b x.1 va).deliverTrap b x.1
      { cause := tcPROTECT, info := BitVec.ofNat 32 info, precise := false, threads := x.2.mask, replay := false, fpc := 0, fva := 0, fmask := 0,
        adopted := none }) s

/-- A byte that a block's code fetch reads: memory, or in DET mode the block's view (R196, R242). A release buffer holds no fetch back. -/
def State.codeByte (s : State) (b : Nat) (hbm : Bool) (a : Nat) : Byte :=
  if (s.launch (s.block b).launch).det then s.globalByte b hbm a else s.memGet hbm a

/-- Does a block's code fetch read a byte marked as poisoned (R261)? -/
def State.codeBad (s : State) (b : Nat) (hbm : Bool) (a n : Nat) : Bool :=
  if (s.launch (s.block b).launch).det then s.readsBad b hbm a n else (List.range n).any fun i => s.badBytes.contains (lineAddr hbm (a + i))

/-- The tag record of a code line, when its page can be read (R283, R415), as the block fetches it (R242). -/
def State.tagRecord (s : State) (b : Nat) (l : Launch) (x : Ctx) (va : Nat) : Option (List Byte) :=
  let a := x.tbase.toNat + 16 * ((va - x.cbase.toNat) / 128)
  match s.place (some (s.block b).core) l.fn l.ctx a with
  | some (leaf, pa) => if leaf.attr.rd then some ((List.range 16).map fun i => s.codeByte b leaf.attr.hbm (pa + i)) else none
  | none => none

/-- Does the tag record of a code line hold a byte marked as poisoned (R261)? -/
def State.tagBad (s : State) (b : Nat) (l : Launch) (x : Ctx) (va : Nat) : Bool :=
  match s.place (some (s.block b).core) l.fn l.ctx (x.tbase.toNat + 16 * ((va - x.cbase.toNat) / 128)) with
  | some (leaf, pa) => s.codeBad b leaf.attr.hbm pa 16
  | none => false

/-- Lines of a core's I-cache: 64 KiB (R1). -/
def icacheLines : Nat := 512

/-- A full I-cache evicts a line (R283); which one is a draw of the tick. DESIGN CHOICE: log 7. -/
def State.evictCode (s : State) (core : Nat) : State :=
  let n := (s.core core).icache.length
  if n < icacheLines then s
  else { s with tick := s.tick + 1 }.modCore core fun c => { c with icache := c.icache.eraseIdx (Config.evictLine s.tick % n) }

/-- Every path of a core that waits for a line goes on. -/
def State.lineIn (s : State) (core : Nat) (x : CodeLine) : State :=
  { s with blocks := s.blocks.map fun b =>
      if b.core != core || !x.is (s.launch b.launch) b.id x.va then b else
      { b with warps := b.warps.map fun w =>
          { w with paths := w.paths.map fun p => if p.fetch == some x.va then { p with fetch := none } else p } } }

/-- Keep an authenticated line. -/
def State.keepLine (s : State) (core : Nat) (x : CodeLine) : State :=
  ((s.evictCode core).modCore core fun c => { c with icache := x :: c.icache }).lineIn core x

/-- ICACHE_FILL (R283): a line is read from memory, its tag recomputed and compared with its record. DESIGN CHOICE: log 7. DEDUCED: log 17. -/
def execIcacheFill (block : Nat) (line : BitVec 64) (s : State) : Host.Outcome State Fault Refusal :=
  match s.block? block with
  | none => .next s
  | some b =>
    let l := s.launch b.launch
    let x := s.ctx l.fn l.ctx
    let va := line.toNat / 128 * 128
    if b.ended || b.saved || (b.fetchers va).isEmpty then .next s else
    match (s.core b.core).icache.find? fun k => k.is l block va with
    | some k => .next (s.lineIn b.core k)
    | none =>
      if va < x.cbase.toNat || x.cbase.toNat + x.csize.toNat < va + 128 then .next (s.codeAuth block)
      else if 2 ^ 57 ≤ va then .next (s.fetchTrap block va 9)
      else match s.translate (some b.core) l.fn l.ctx va with
        | .fault => .next (s.parkFetch block va)
        | .bad => .next (s.fetchTrap block va 5)
        | .leaf leaf =>
          if !leaf.attr.fx then .next (s.fetchTrap block va 4) else
          let s := s.cacheLeaf b.core l.fn l.ctx leaf
          if s.codeBad block leaf.attr.hbm (leaf.pa va) 128 || s.tagBad block l x va then .next (s.consume block) else
          let bytes := (List.range 128).map fun i => s.codeByte block leaf.attr.hbm (leaf.pa va + i)
          match s.tagRecord block l x va with
          | none => .next (s.codeAuth block)
          | some r =>
            let map := BitVec.ofNat 32 (leNat ((r.drop 8).take 4))
            let tag := lineTag (Config.codeKey l.ctxid) l.ctxid va bytes map
            if (r.drop 12).any (· != 0#8) || BitVec.ofNat 64 (leNat (r.take 8)) != tag then .next (s.codeAuth block)
            else .next (s.keepLine b.core
              { ctx := l.ctxid, owner := if l.det then some block else none, va := va, words := leWords bytes, map := map })

/-! ### Current reservations (R267) -/

/-- Budget of a cluster's arbiter. -/
def currentBudget : Nat := 112

/-- Does the holder of a request or a reservation still exist? -/
def State.holderLives (s : State) (cls : ReqClass) (core who : Nat) : Bool :=
  match cls with
  | .matrix => (s.core core).matq.any (·.id == who)
  | .copy => s.copies.any (·.id == who)
  | .vector => (s.core core).chrun.any fun x => x.2.2.1 == who

/-- Order of the classes (R267). -/
def ReqClass.order : ReqClass → Nat | .matrix => 0 | .copy => 1 | .vector => 2

/-- The request that the arbiter grants: one passed over by 64 grants, oldest first; else by class and age (R267). -/
def pickReq (rs : List CurReq) : Option CurReq :=
  match leastBy (fun r => [r.serial]) (rs.filter fun r => 64 ≤ r.passed) with
  | some r => some r
  | none => leastBy (fun r => [r.cls.order, r.serial]) rs

/-- A granted request starts its operation. -/
def State.granted (s : State) (r : CurReq) : State :=
  match r.cls with
  | .matrix => s.matStart r.core r.who
  | .copy => s.modCopy r.who fun k => { k with reserved := true }
  | .vector => s.modCore r.core fun c => { c with chrun := c.chrun.map fun x => if x.2.2.1 = r.who then (x.1, x.2.1, x.2.2.1, true) else x }

/-- May a request be granted now? Those of a halted core wait (R234), and those of a matrix operation whose parameter block is held, into
which its start writes (R148, R169). DEDUCED: log 31. -/
def State.grantable (s : State) (r : CurReq) : Bool :=
  !(s.core r.core).halted && !(r.cls == .matrix && (s.core r.core).matq.any fun m => m.id == r.who && s.matHeld r.core m)

/-- RESERVATION_GRANT (R267): operations whose turn has come ask, and one request is granted if the budget has room for it. -/
def execReservationGrant (cluster : Nat) (s : State) : Host.Outcome State Fault Refusal :=
  let s := s.modCluster cluster fun k =>
    { k with reqs := k.reqs.filter (fun r => s.holderLives r.cls r.core r.who),
             held := k.held.filter fun h => s.holderLives h.1 h.2.1 h.2.2.1 }
  let s := ((List.range 8).map fun i => 8 * cluster + i).foldl (fun s c => if (s.core c).halted then s else s.matAsk c) s
  let k := s.cluster cluster
  match pickReq (k.reqs.filter s.grantable) with
  | none => .next s
  | some r =>
    if currentBudget < (k.held.map fun h => h.2.2.2).sum + r.units then .next s
    else .next ((s.setCluster cluster { k with
      reqs := (k.reqs.filter (·.serial != r.serial)).map fun q => { q with passed := q.passed + 1 }
      held := k.held ++ [(r.cls, r.core, r.who, r.units)] }).granted r)

/-! ### Waits (R194, R402) -/

/-- A parked path reads its words again, once the scoreboard lets it (R169), and retires; a reduction that its block's release buffer holds on
one is performed first, as before any read (R182). A word that has no path left to it or is marked as poisoned is an uncorrectable error (R261,
R281). DEDUCED: log 30. -/
def State.continueWait (s : State) (b w pid : Nat) (k : Park) : State :=
  let size := if k.wide then 8 else 4
  match s.cxOf b w pid with
  | none => s
  | some c =>
    let near := k.words.any fun x => c.blk.reduces x.place x.addr size
    if (k.words.any fun x => s.placeBoarded x.place x.addr size true) || (near && !s.flushClear c.core) then s
    else if k.words.any fun x => s.placeLost b x.place x.addr || s.placeBad b x.place x.addr size then s.consume b else
    let s := if near then s.flushNow b else s
    let s := k.words.foldl (fun s x =>
      (s.modCore c.core fun q => q.putLane k.dests x.lane (c.waitRead s k.wide x)).spanRead b x.place x.addr size) s
    let s := s.modWarp b w fun x => (x.modPath pid fun p => { p with park := none }).pass k.group k.lanes
    let s := k.dests.foldl (fun s e => s.land c.core e) s
    (c.at s).runOn s 2

/-- A parked path of a block whose core goes on. -/
def State.parkOf (s : State) (b w pid : Nat) : Option Park := if s.resting b then none else ((s.warp b w).path pid).park

/-- WAITADDR_CONTINUE: a write or `WAKE` of a word has released the path. -/
def execWaitaddrContinue (block warp path : Nat) (s : State) : Host.Outcome State Fault Refusal :=
  match s.parkOf block warp path with
  | some k => .next (if k.released then s.continueWait block warp path k else s)
  | none => .next s

/-- SPURIOUS_WAKEUP: a parked path, or a wait that has retired, continues at any time. -/
def execSpuriousWakeup (block warp path : Nat) (s : State) : Host.Outcome State Fault Refusal :=
  match s.parkOf block warp path with
  | some k => .next (s.continueWait block warp path k)
  | none => .next (s.modWarp block warp fun w => { w with pend := w.pend.map fun a => if a.group = path then a.woken else a })

/-! ### Errors (R54, R237, R257, R261) -/

/-- Blocks of a core that hold a poisoned entry in a register, a pin, a wait or a capture (R54, R119). -/
def State.poisoned (s : State) (core : Nat) : List Nat :=
  let bad := ((s.core core).entries.filter (·.poison)).map (·.eid)
  (s.blocks.filter fun b => b.core == core && (b.ids.any bad.contains ||
    (s.core core).matq.any fun m => m.block == b.id && m.caps.any fun k => bad.contains k.2.2)).map (·.id)

/-- A block recovers from poison: a rollback that leaves it a poisoned entry kills it. DEDUCED: log 32. -/
def State.recover (s : State) (b : Nat) : State :=
  if (s.block? b).isNone then s else
  let s := s.consume b
  if (s.block? b).isSome && (s.poisoned (s.block b).core).contains b then
    (s.modLaunch (s.block b).launch fun l => { l with spanLost := true }).kill b
  else s

/-- Data that carries an error and that nothing has used is logged and marked poisoned (R261): a byte of scratchpad, one of HBM under 2^66 + its
address, one of shared memory under its `sharedAddr`, or a place of another SRAM under a number from 2^70 on. DESIGN CHOICE: log 15. -/
def State.markBad (s : State) (a : Nat) : State :=
  { s.logEvent 0 (.poisoned a) with badBytes := if s.badBytes.contains a then s.badBytes else a :: s.badBytes }

/-- UNCORRECTABLE_ERROR (R54, R261): a block consumes an error, or an entry of its core is found poisoned. What nothing uses is
logged: an entry that no block holds, and data in memory, which the event names with no block. DESIGN CHOICE: log 15. -/
def execUncorrectableError (block : Nat) (entry : Option Nat) (s : State) : Host.Outcome State Fault Refusal :=
  match s.block? block with
  | none => .next (match entry with | some a => s.markBad a | none => s)
  | some b =>
    if b.ended || b.saved then .next s else
    match entry with
    | none => .next (s.consume block)
    | some e =>
      if ((s.core b.core).entry? e).isNone then .next s else
      let s := s.poison b.core e
      let hit := s.poisoned b.core
      .next (if hit.isEmpty then s.logEvent (packageOf b.core) (.poisoned e) else hit.foldl State.recover s)

/-- WATCHDOG (R237): a running matrix operation hangs. Every operation of the queue ends in STATE 5, and the affected blocks
roll back or are killed. It waits while a parameter block is held (R169). DEDUCED: log 29. -/
def execWatchdog (core : Nat) (s : State) : Host.Outcome State Fault Refusal :=
  let c := s.core core
  if !(c.matq.any fun m => m.reserved && m.st == 2) || c.matq.any (fun m => m.owes != 4 && s.matHeld core m) then .next s else
  let hit := (s.blocks.filter fun b => b.core == core && !b.ended && !b.saved &&
    (b.mma || c.matq.any (·.block == b.id))).map (·.id)
  let s := s.logEvent (packageOf core) (.watchdog core)
  let s := hit.foldl (fun s b => if (s.block? b).isNone then s else s.consume b) s
  let left := (s.core core).matq.filter (·.owes != 4)
  let s := left.foldl (fun s m => (s.matState m 5 true).freeCurrent .matrix core m.id) s
  let ids := left.map fun m => m.hold
  .next (s.modCore core fun k => { k with matq := k.matq.filter (·.owes == 4), holds := k.holds.filter fun h => !(ids.contains h.id || (h.id != 0 && ids.contains (h.id - 1))) })

/-- A counter of a package (R257). -/
def Package.bucket (p : Package) (kind : BucketKind) (index : Nat) : Bucket :=
  ((p.buckets.find? fun b => b.1 == kind && b.2.1 == index).map fun b => b.2.2).getD Bucket.init

/-- Replace a counter. -/
def Package.setBucket (p : Package) (kind : BucketKind) (index : Nat) (b : Bucket) : Package :=
  { p with buckets := (kind, index, b) :: p.buckets.filter fun x => !(x.1 == kind && x.2.1 == index) }

/-- A corrected error adds INC, saturating; INC 0 reads as 1. -/
def Bucket.add (b : Bucket) : Bucket :=
  let inc := if b.inc == 0#4 then 1 else b.inc.toNat
  { b with fill := BitVec.ofNat 16 (min 65535 (b.fill.toNat + inc)) }

/-- Does FILL rise from below MARK to it? MARK 0 disables the event. -/
def Bucket.rises (b c : Bucket) : Bool := b.mark != 0#16 && decide (b.fill.toNat < b.mark.toNat) && decide (b.mark.toNat ≤ c.fill.toNat)

/-- CORRECTED_ERROR (R257). -/
def execCorrectedError (pkg : Nat) (kind : BucketKind) (index : Nat) (s : State) : Host.Outcome State Fault Refusal :=
  let b := (s.pkg pkg).bucket kind index
  let s := s.modPkg pkg fun p => p.setBucket kind index b.add
  .next (if b.rises b.add then s.logEvent pkg (.predictive pkg kind index) else s)

/-- BUCKET_LEAK (R257): FILL falls by 1, stopping at 0; LEAK 0 disables it. -/
def execBucketLeak (pkg : Nat) (kind : BucketKind) (index : Nat) (s : State) : Host.Outcome State Fault Refusal :=
  let b := (s.pkg pkg).bucket kind index
  if b.leak == 0#12 || b.fill == 0#16 then .next s
  else .next (s.modPkg pkg fun p => p.setBucket kind index { b with fill := b.fill - 1 })

end Sys2Proof.Machine
end

