-- ==== Sys2Proof/Machine/Power.lean ====
section
/-! DEFINITION. Power: tokens and floors (R269, R270), the frequency steps of a package's rails (R212, R266, R268 to R271), the
voltages that they need (R216, R266). -/

namespace Sys2Proof.Machine

open Sys2Proof

/-- Is a package below its floor (R270)? -/
def Package.belowFloor (p : Package) (pkg : Nat) : Bool := decide (p.tokens < Config.floorTokens pkg)

/-- The frequency step at which a package's draw fits its tokens and its envelope; below its floor, the lowest (R269, R270). -/
def Package.maxFreq (p : Package) (pkg : Nat) : Nat :=
  if p.belowFloor pkg then 0 else Config.freqFor pkg (min (5 * p.tokens) p.envelope)

/-- Running launches with a block on a package. -/
def State.launchesOn (s : State) (pkg : Nat) : List Launch :=
  s.launches.filter fun l => l.phase == .running &&
    s.blocks.any fun b => b.launch == l.id && !b.ended && !b.saved && packageOf b.core == pkg

/-- The step that the launches on a package allow: each keeps its share of the draw within its cap (MAXP, R268), and boost operating
points are for a launch that asks for them (R212). DESIGN CHOICE: log 19. -/
def stepCap (pkg : Nat) (ls : List Launch) : Option Nat :=
  let caps := ls.map fun l => Config.shareFreq pkg l.watts
  (if ls.any Launch.boost then caps else Config.baseStep pkg :: caps).foldl (fun a x => some (match a with | some y => min y x | none => x)) none

/-- A step as a package runs it: at least the highest that its launches require (MINF, R212), and within every cap. -/
def Package.fit (p : Package) (pkg : Nat) (ls : List Launch) (step : Nat) : Nat :=
  let x := min (max step ((ls.map Launch.minf).foldl max 0)) (p.maxFreq pkg)
  match stepCap pkg ls with | some y => min x y | none => x

/-- A package fits its rails to its caps and launches (R269). One of a collective group keeps its frequency until the group's next
timestamp (R271). -/
def Package.refit (p : Package) (pkg : Nat) (ls : List Launch) : Package :=
  { p with freq := if p.group.isEmpty then p.freq.map (p.fit pkg ls) else p.freq }

/-- Rewrite a package, and fit its frequency. -/
def State.modPower (s : State) (pkg : Nat) (f : Package → Package) : State := s.modPkg pkg fun p => (f p).refit pkg (s.launchesOn pkg)

/-- Packages fit their frequencies to the launches that they run now. -/
def State.refitAll (s : State) : State := (List.range s.packages).foldl (fun s p => s.modPower p id) s

/-- Does a package's frequency fit the caps of `q`, the package after a change? -/
def Package.within (p q : Package) (pkg : Nat) : Bool := p.freq.all fun x => decide (x ≤ q.maxFreq pkg)

/-- The voltage that a cluster's curve requires at a frequency step (R216, R266). DESIGN CHOICE: log 19. -/
def State.clusterVolt (s : State) (k step : Nat) : Nat := Config.vf k (s.cluster k).tested step

/-- Voltage of a rail of a package (0 matrix, 1 vector, 2 SRAM, 3 fabric): the highest that the curve of an active cluster requires at
the rail's frequency (R266). -/
def State.railVolt (s : State) (pkg rail : Nat) : Nat :=
  let act := ((List.range 64).map fun i => 64 * pkg + i).filter fun k => (s.cluster k).gate == .active
  (act.map fun k => s.clusterVolt k ((s.pkg pkg).freq.getD rail 0)).foldl max 0

end Sys2Proof.Machine
end

