-- ==== Sys2Proof/Machine/Distribute.lean ====
section
/-! DEFINITION. The queue engine (R210 to R215), the distributor (R30, R32, R216, R217) and the gating of clusters (R218). -/

namespace Sys2Proof.Machine

open Sys2Proof

/-! ### Packets and status records -/

/-- Bytes of the memory that a queue's ring and status array lie in (R415). -/
def State.queueBytes (s : State) (host : Bool) (a n : Nat) : List Byte := if host then s.host.bytes a n else s.hbm.bytes a n

/-- Write a status record: CODE and the blocks lost (R215). -/
def State.setStatus (s : State) (host : Bool) (a code lost : Nat) : State :=
  let bs := leBytes 4 code ++ leBytes 4 lost
  if host then { s with host := s.host.setBytes a bs } else s.hbmWrite a bs

/-- Status code of a malformed packet. -/
def stMALFORMED : Nat := 0x10
/-- GRANT. -/
def stGRANT : Nat := 0x11
/-- ROUTE. -/
def stROUTE : Nat := 0x12
/-- ROLES. -/
def stROLES : Nat := 0x13
/-- FIT. -/
def stFIT : Nat := 0x14

/-- Reserved fields: word, high bit, low bit (R212). -/
def packetReserved : List (Nat × Nat × Nat) :=
  [(4, 15, 11), (4, 31, 27), (5, 11, 11), (5, 15, 14), (5, 31, 24), (6, 15, 11), (6, 31, 27), (7, 15, 11), (7, 31, 27), (8, 7, 7),
   (9, 31, 31), (10, 31, 20), (16, 30, 12), (19, 30, 12), (22, 30, 12), (25, 30, 12), (28, 30, 12), (29, 31, 0), (30, 31, 0), (31, 31, 0)]

/-- A number within bounds. -/
def within (lo hi x : Nat) : Bool := decide (lo ≤ x) && decide (x ≤ hi)

/-- Dimensions, width, span, roles and sizes of a packet (R212). -/
def Launch.shapeOk (l : Launch) : Bool :=
  let role := fun (j : Nat) => (l.role j).1
  within 1 0xFFFFFFFF l.gx && within 1 0xFFFF l.gy && within 1 0xFFFF l.gz && decide (l.blocks < 2 ^ 32) &&
    within 1 1024 (l.fld 4 10 0) && within 1 1024 (l.fld 4 26 16) && within 1 1024 (l.fld 5 10 0) && decide (l.threads ≤ 1024) &&
    l.wcode != 3 && within 1 8 l.span &&
    (List.range 4).all (fun j => decide (role j ≤ 64)) && decide (1 ≤ role 0) &&
    (List.range 3).all (fun j => role j != 0 || role (j + 1) == 0) &&
    decide (l.fld 8 6 0 ≤ 64) && decide (l.leaves ≤ 16384) && decide (l.psize ≤ l.shBytes)

/-- Modes of a packet that may stand together (R212, R239). -/
def Launch.modesOk (l : Launch) : Bool :=
  !(l.saggar && l.wcode == 0) && !(l.det && l.owncompat) && !(l.saggar && l.owncompat) && (!l.det || l.span == 1)

/-- The rectangle lies in the mesh of the domain (R212). -/
def Launch.rectOk (l : Launch) (packages : Nat) : Bool :=
  let (x0, y0, w, h) := l.rect
  decide (1 ≤ w) && decide (1 ≤ h) && decide (x0 + w ≤ 4) && decide (y0 + h ≤ 2 * packages)

/-- Every byte of the parameters is mapped and readable (R212): one address for each page of 64 KiB. -/
def State.paramsOk (s : State) (l : Launch) : Bool :=
  let a := l.paddr
  l.psize == 0 ||
    (a % 8 == 0 && decide (a + l.psize ≤ 2 ^ 57) &&
      (List.range ((a + l.psize - 1) / 65536 - a / 65536 + 1)).all fun i =>
        match s.translate none l.fn l.ctx ((a / 65536 + i) * 65536) with
        | .leaf x => x.attr.rd && x.attr.fmt == 0
        | _ => false)

/-- KADDR is a multiple of 4 on a page with FX set (R212). -/
def State.kernelOk (s : State) (l : Launch) : Bool :=
  decide (l.kaddr < 2 ^ 57) && l.kaddr % 4 == 0 &&
    (match s.translate none l.fn l.ctx l.kaddr with | .leaf x => x.attr.fx | _ => false)

/-- The conditions of R212 and R239 on a packet. -/
def State.packetOk (s : State) (l : Launch) : Bool :=
  packetReserved.all (fun r => l.fld r.1 r.2.1 r.2.2 == 0) && l.shapeOk && l.modesOk && l.rectOk s.packages &&
    decide (l.fld 8 31 23 ≤ (s.ctx l.fn l.ctx).stksize) && s.kernelOk l && s.paramsOk l

/-! ### Room (R30) -/

/-- Does a list of needs stay within a list of limits? -/
def fits (need limit : List Nat) : Bool := (need.zip limit).all fun x => decide (x.1 ≤ x.2)

/-- The most blocks of a launch that an empty core holds (R216). -/
def Launch.perCore (l : Launch) : Nat :=
  let q := (l.needs.zip coreLimits).filterMap fun x => if x.1 = 0 then none else some (x.2 / x.1)
  (leastBy (fun n => [n]) q).getD 0

/-- Sums of needs. -/
def addNeeds (xs : List (List Nat)) : List Nat :=
  xs.foldl (fun a x => (a.zip x).map fun y => y.1 + y.2) [0, 0, 0, 0, 0]

/-- What a block reserves: a block that has ended keeps its shared memory (R32). -/
def State.reserves (s : State) (b : Block) : List Nat :=
  let l := s.launch b.launch
  if b.ended then [0, 0, 0, l.fld 8 6 0, 0] else l.needs

/-- What the resident blocks of a core reserve (R30). -/
def State.usage (s : State) (core : Nat) : List Nat :=
  addNeeds ((s.blocks.filter fun b => b.core == core).map s.reserves)

/-- Warps resident on a core (R216). An exited warp of a block that still runs is none of them (DESIGN CHOICE, log 38). -/
def State.residents (s : State) (core : Nat) : Nat :=
  ((s.blocks.filter fun b => b.core == core && !b.ended).map fun b => (b.warps.filter fun w => !w.exited).length).sum

/-- Can a core take what blocks need? A halting core takes none (R234). -/
def State.canTake (s : State) (core : Nat) (needs : List (List Nat)) : Bool :=
  let c := s.core core
  c.halting.isNone && !c.halted && fits (addNeeds (s.usage core :: needs)) coreLimits

/-- Frame pairs that live warps of a context hold (R279). DESIGN CHOICE: log 10. -/
def State.framesHeld (s : State) (fn slot : Nat) : List Nat :=
  s.blocks.flatMap fun b =>
    let l := s.launch b.launch
    if l.fn != fn || l.ctx != slot || b.ended then [] else (b.warps.filter fun w => !w.exited).map (·.frame)

/-- Are `n` frame pairs of a context free (R279)? -/
def State.framesFree (s : State) (fn slot n : Nat) : Bool :=
  decide ((s.framesHeld fn slot).length + n ≤ (s.ctx fn slot).frcount)

/-! ### Clusters (R216) -/

/-- A cluster's place in the order of efficiency at the rails' present frequencies: the highest of its voltages, die, cluster.
DESIGN CHOICE: log 19. -/
def State.rankKey (s : State) (k : Nat) : List Nat :=
  [((s.pkg (k / 64)).freq.map (s.clusterVolt k)).foldl max 0, dieOf k, k]

/-- Insert a cluster by its rank. -/
def State.rankInsert (s : State) (k : Nat) : List Nat → List Nat
  | [] => [k]
  | j :: js => if lexLt (s.rankKey k) (s.rankKey j) then k :: j :: js else j :: s.rankInsert k js

/-- Clusters in rank order. -/
def State.ranked (s : State) (ks : List Nat) : List Nat := ks.foldr (fun k acc => s.rankInsert k acc) []

/-- Clusters of a launch's rectangle. -/
def Launch.clusters (l : Launch) : List Nat := l.dies.flatMap fun d => (List.range 8).map fun i => 8 * d + i

/-- Not degraded (R216), draining (R280) or offline (R263). -/
def Cluster.healthy (c : Cluster) : Bool := !c.degraded && !c.draining && !c.offline

/-- Is a package below its floor (R270)? -/
def State.belowFloor (s : State) (pkg : Nat) : Bool := (s.pkg pkg).belowFloor pkg

/-- A package below its floor dispatches no block (R270). -/
def State.inService (s : State) (k : Nat) : Bool := (s.cluster k).healthy && !s.belowFloor (k / 64)

/-- Eligible clusters among some (R216). -/
def State.eligibleOf (s : State) (ks : List Nat) : List Nat := ks.filter fun k => (s.cluster k).gate == .active && (s.cluster k).healthy

/-- Eligible clusters among some that take blocks, in rank order (R216, R270). -/
def State.eligible (s : State) (ks : List Nat) : List Nat := s.ranked ((s.eligibleOf ks).filter s.inService)

/-- Cores of a cluster. -/
def coresOf (k : Nat) : List Nat := (List.range 8).map fun i => 8 * k + i

/-- Has a cluster no resident block? -/
def State.emptyCluster (s : State) (k : Nat) : Bool := !(s.blocks.any fun b => clusterOf b.core == k)

/-- Places on a cluster's cores for blocks with given needs, after those in `done`: the first core that can take a block, or
the one with the fewest resident warps (R216). -/
def State.spread (s : State) (warps : Nat) (balanced : Bool) (k : Nat) : List (List Nat) → List (Nat × List Nat) → Option (List Nat)
  | [], done => some (done.map (·.1))
  | x :: xs, done =>
    let on := fun (c : Nat) => done.filter (·.1 == c)
    let able := (coresOf k).filter fun c => s.canTake c (x :: (on c).map (·.2))
    let pick := if balanced then leastBy (fun c => [s.residents c + (on c).length * warps]) able else able.head?
    match pick with
    | none => none
    | some c => s.spread warps balanced k xs (done ++ [(c, x)])

/-- The case of light load (R216), with the spans not yet placed. -/
def State.lightLoad (s : State) (l : Launch) (spans : Nat) (ks : List Nat) : Bool :=
  decide (ceilDiv spans (8 * l.perCore / l.span) ≤ (ks.filter s.emptyCluster).length)

/-- Cores for the blocks of a span among eligible clusters in rank order (R216). -/
def State.place216 (s : State) (l : Launch) (light : Bool) (ks : List Nat) (needs : List (List Nat)) : Option (List Nat) :=
  if light then ks.findSome? fun k => s.spread l.warps false k needs []
  else
    let able := ks.filterMap fun k => (s.spread l.warps true k needs []).map fun cs => (k, cs)
    (leastBy (fun x => [((coresOf x.1).map s.residents).sum]) able).map (·.2)

/-- Cores for the next span of a launch: under R216, or in a refill on the first cluster in rank order that can take it
(R217). -/
def State.placeSpan (s : State) (l : Launch) (ks : List Nat) : Option (List Nat) :=
  let n := min l.span (l.blocks - l.next)
  let ks := s.eligible ks
  if !s.framesFree l.fn l.ctx (n * l.warps) then none
  else s.place216 l (l.refill || s.lightLoad l (ceilDiv l.blocks l.span - l.next / l.span) ks) ks (List.replicate n l.needs)

/-! ### Starting a block -/

/-- The lowest number that is not used. -/
def firstFree (used : List Nat) : Nat := ((List.range (used.length + 1)).find? fun i => !used.contains i).getD 0

/-- Slots that a warp holds (R17). -/
def Warp.slots (w : Warp) : List Nat := w.slot :: w.slot2.toList

/-- Warp slots in use on a core. -/
def State.slotsUsed (s : State) (core : Nat) : List Nat :=
  (s.blocks.filter fun b => b.core == core && !b.ended).flatMap fun b => b.warps.flatMap Warp.slots

/-- Slots of a 64-wide warp: two neighbours where there are any, else the two lowest free ones. -/
def slotPair (used : List Nat) : Nat × Nat :=
  let fr := (List.range 48).filter fun i => !used.contains i
  match fr.find? fun i => fr.contains (i + 1) with
  | some i => (i, i + 1)
  | none => (fr.getD 0 0, fr.getD 1 0)

/-- Slots for warps, the lowest free ones: which of them a block's warps take is not said (DESIGN CHOICE, log 37). -/
def Launch.takeSlots (l : Launch) : Nat → List Nat → List (Nat × Option Nat)
  | 0, _ => []
  | n + 1, used =>
    if l.physW = 64 then
      let (a, b) := slotPair used
      (a, some b) :: l.takeSlots n (a :: b :: used)
    else
      let a := firstFree used
      (a, none) :: l.takeSlots n (a :: used)

/-- Insert a number into a rising list. -/
def insertNat (x : Nat) : List Nat → List Nat
  | [] => [x]
  | y :: ys => if x ≤ y then x :: y :: ys else y :: insertNat x ys

/-- The number that is free with `n` free ones below it; the used ones rise. -/
def nthFree (n : Nat) (used : List Nat) : Nat := used.foldl (fun k u => if u ≤ k then k + 1 else k) n

/-- Frame pairs for warps among the free ones (R279); which is a free value (DESIGN CHOICE, log 10). -/
def takeFrames (count tick : Nat) : Nat → List Nat → List Nat
  | 0, _ => []
  | n + 1, used =>
    let f := nthFree (Config.framePick tick % (count - used.length)) used
    f :: takeFrames count (tick + 1) n (insertNat f used)

/-- A thread at its start: it exists, is a helper of a partly filled quad, or does not exist (R15, R27). -/
def threadAt (total tid lane : Nat) : Thread :=
  let live := decide (tid < total)
  let helper := !live && decide (tid / 4 * 4 < total)
  { mr := none, exited := false, absent := !live && !helper && decide (lane < 64), helper := helper, pc := 0 }

/-- A warp at its start (R19, R36, R38). -/
def Launch.newWarp (l : Launch) (i : Nat) (slot : Nat × Option Nat) (frame : Nat) (clock id : Nat) : Warp :=
  let (role, grant) := l.warpRole i
  let threads := (List.range l.w).map fun k => threadAt l.threads (i * l.w + k) k
  let mask := Mask.ofFn l.w fun k => !(threads.getD k default).absent
  let path : Path :=
    { id := id, mask := mask, pc := 0, clause := none, hold := none, park := none, age := 0, aged := none, last := none, next := 0,
      s := [], sAbsent := [], log := [], waiting := none, fetch := none, tried := false, ready := false, yield := none }
  { idx := i, role := role, grant := grant, slot := slot.1, slot2 := slot.2, start := clock, threads := threads, paths := [path], v := [], p := [], xi := 0,
    lc := [0, 0, 0], loops := [], wstat := 0, binds := 0, keys := 0, deaths := 0, retired := 0, cycle0 := clock, tx := none,
    txcode := 0, txarg := 0, txlanes := 0, frame := frame, handler := none, absent := [], fromCtx := false, links := [], flags := [],
    pend := [], replay := [], deliver := [], stack := [], bars := 0, spans := 0, pointer := 0, waits := [] }

/-- A block at its start on a core: its shared memory zeroed, its warps at the kernel's first clause (R11, R157). DESIGN CHOICE: log 6. -/
def State.newBlock (s : State) (l : Launch) (num core : Nat) : Block :=
  let id := s.serial
  let c := s.core core
  let slots := l.takeSlots l.warps (s.slotsUsed core)
  let frames := takeFrames (s.ctx l.fn l.ctx).frcount s.tick l.warps ((s.framesHeld l.fn l.ctx).foldr insertNat [])
  let warps := (List.range l.warps).map fun i =>
    l.newWarp i (slots.getD i (0, none)) (frames.getD i 0) (c.quad (i % 4)).clock (id + 1 + i)
  { id := id, launch := l.id, num := num, core := core,
    slot := firstFree ((s.blocks.filter fun b => b.core == core).map (·.slot)), home := core, shared := [], warps := warps,
    trees := [], tiles := [], marks := [], stamps := 0, glaze := [], declw := [], ck := none, undoLog := [], rollbacks := 0,
    eligible := true, release := [], snap := { warps := List.replicate l.warps (0#32, 0#64, 0), step := 0 }, cur := 0, passed := 0, turnOver := false, arrived := false, view := [], written := [],
    atoms := [], stepCopies := [], lines := [], mma := false, saved := false, ended := false }

/-- The parameter bytes of a launch as the device reads them when a block starts (R11, R212). -/
def State.paramBytes (s : State) (l : Launch) : Option (List Byte) :=
  if s.paramsOk l then s.vread none l.fn l.ctx l.paddr l.psize else none

/-- Start a block with zeroed shared memory (R48, R157): load keys of its slot's former shared memory go. -/
def State.startBlock (s : State) (l : Launch) (num core : Nat) : State :=
  let b := s.newBlock l num core
  let s := s.dropKeys core (fun k => match k.key.mem with | some m => m.space == .sh && m.owner == b.slot | none => false) none
  { s with serial := b.id + 1 + l.warps, tick := s.tick + l.warps, blocks := s.blocks ++ [b] }

/-- Start blocks of a launch on given cores, in block order. -/
def State.startBlocks (s : State) (l : Launch) : Nat → List Nat → State
  | _, [] => s
  | num, core :: cores => State.startBlocks (s.startBlock l num core) l (num + 1) cores

/-- Write the parameters of a started span at the bottom of each block's shared memory (R11). Blocks whose parameters meet no
readable mapping are killed and lost (R212); a parameter that carries an error is one of its blocks (R261). -/
def State.giveParams (s : State) (l : Launch) (first n : Nat) : State :=
  let ids := (s.blocks.filter fun b => b.launch == l.id && decide (first ≤ b.num) && decide (b.num < first + n)).map (·.id)
  match s.paramBytes l with
  | some bs => ids.foldl (fun s b => s.modBlock b fun x => { x with shared := x.shared.setBytes 0 bs }) s
  | none => ids.foldl (fun s b => if (s.block? b).isNone then s else if s.paramsOk l then s.consume b else s.kill b) s

/-! ### The distributor -/

/-- May the distributor place blocks of a launch? Its context is Active and is not being saved (R276). -/
def State.dispatchable (s : State) (l : Launch) : Bool :=
  let x := s.ctx l.fn l.ctx
  l.phase == .running && decide (l.next < l.blocks) && x.st == .active && x.saving.isEmpty

/-- Place a launch's next span; `none` when it does not fit. -/
def State.dispatchSpan (s : State) (id : Nat) : Option State :=
  let l := s.launch id
  if !s.dispatchable l then none else
  (s.placeSpan l l.clusters).map fun cores =>
    ((s.modLaunch id fun x => { x with next := l.next + cores.length }).startBlocks l l.next cores).giveParams l l.next cores.length

/-- Place every block of a DET launch, or none (R239). -/
def State.dispatchAll (id : Nat) : Nat → State → Option State
  | 0, s => some s
  | n + 1, s =>
    let l := s.launch id
    if l.blocks ≤ l.next then some s else
    match s.dispatchSpan id with
    | none => none
    | some s => State.dispatchAll id n s

/-- Place what can be placed of a launch at once: a span, or the whole grid in DET mode. -/
def State.dispatch (s : State) (id : Nat) : Option State :=
  let l := s.launch id
  if l.det then
    if s.dispatchable l then (s.dispatchAll id (l.blocks - l.next)).map fun s => s.modLaunch id fun x => { x with base := [] } else none
  else s.dispatchSpan id

/-- Launches with blocks to place, in the order of R211: highest priority first, then accepted earliest. DEDUCED: log 35. -/
def State.queueOrder (s : State) : List Nat :=
  let ls := s.launches.filter s.dispatchable
  let put := fun (l : Launch) (acc : List Launch) =>
    let before := fun (x : Launch) => lexLt [3 - x.prio, x.accepted] [3 - l.prio, l.accepted]
    acc.takeWhile before ++ l :: acc.dropWhile before
  (ls.foldr put []).map (·.id)

/-- Wake the best-ranked gated cluster of a rectangle (R217), unless one of its clusters is waking already (DESIGN CHOICE, log 38). -/
def State.wakeCluster (s : State) (ks : List Nat) : State :=
  if ks.any fun k => (s.cluster k).gate == .waking then s else
  match s.ranked (ks.filter fun k => (s.cluster k).gate == .gated && s.inService k) with
  | [] => s
  | k :: _ => (s.modCluster k fun c => { c with gate := .waking }).due (.clusterWakeComplete k)

/-- One act of the distributor: the first launch in order whose blocks can be placed gets them, and the packages fit their frequencies to it (R212). The named launch ends its first
pass when its next span does not fit, and wakes a cluster when nothing can be placed (R211, R217). A DET launch is placed whole under
R216 (R239). DEDUCED: log 35. -/
def State.distribute (s : State) (id : Nat) : State :=
  let waits := s.dispatchable (s.launch id) && (s.dispatch id).isNone
  let s := if waits && !(s.launch id).det then s.modLaunch id fun l => { l with refill := true } else s
  match s.queueOrder.findSome? fun k => (s.dispatch k).map fun t => (k, t) with
  | some (k, t) =>
    let t := t.refitAll
    let t := if k = id then t else t.due (.blockRefill id)
    if (t.launch k).next < (t.launch k).blocks then t.due (.blockRefill k) else t
  | none => if waits then s.wakeCluster (s.launch id).clusters else s

/-! ### Events -/

/-- A launch waits in the queue of a function (R211). -/
def State.waitingIn (s : State) (fn q : Nat) : Option Launch :=
  s.launches.find? fun l => l.fn == fn && l.queue == q && l.phase == .waiting

/-- The code that rejects a packet (R214), in the order of its table up to row 4. DEDUCED: log 35. -/
def State.rejects (s : State) (l : Launch) : Option Nat :=
  let x := s.ctx l.fn l.ctx
  if x.st == .empty || !s.packetOk l then some stMALFORMED
  else if (l.roles.map (·.1)).sum != l.warps then some stROLES
  else if !fits l.needs coreLimits || (l.det && decide (8 * (s.eligibleOf l.clusters).length * l.perCore < l.blocks)) then some stFIT
  else if decide (x.watts < l.maxp) || decide (x.minStep < l.minf) || (l.boost && !x.boost) then some stGRANT
  else none

/-- LAUNCH_PACKET (R210, R211, R214): the queue engine reads and checks the slot at the head. The launch keeps the priority and the status
address that the queue has at this read, whatever is written into QPRIO or QSTAT later (DESIGN CHOICE, log 39). -/
def execLaunchPacket (fn q : Nat) (s : State) : Host.Outcome State Fault Refusal :=
  let f := s.fn fn
  let k := (alook q f.queues).getD Queue.init
  let n := 2 ^ k.size
  if !k.en || !within 4 16 k.size || k.head.toNat % n == k.door.toNat % n || (s.waitingIn fn q).isSome then .next s else
  let slot := k.head.toNat % n
  let id := s.serial
  let stat := k.stat.toNat + 8 * slot
  let l : Launch :=
    { id := id, fn := fn, queue := q, slot := slot, ctx := k.ctx, ctxid := (s.ctx fn k.ctx).id, prio := k.prio,
      words := leWords (s.queueBytes k.loc (k.base.toNat + 128 * slot) 128), phase := .waiting, accepted := 0, next := 0, refill := false,
      ended := 0, lost := 0, spanLost := false, step := 0, held := [], watts := 0, statAddr := stat, statLoc := k.loc,
      energy := 0, base := [] }
  let s := s.fresh.setFn fn { f with queues := aput q { k with head := BitVec.ofNat 16 ((slot + 1) % n) } f.queues }
  match s.rejects l with
  | some code => .next (s.setStatus k.loc stat code 0)
  | none =>
    let old := fun (x : Launch) => x.fn == fn && x.queue == q && x.slot == slot && x.phase == .complete
    .next ({ s with launches := s.launches.filter (fun x => !old x) ++ [l] }.due (.launchAccept fn q))

/-- Are a launch's event waits satisfied (R211, R212)? -/
def State.waitsHold (s : State) (l : Launch) : Bool :=
  (List.range 4).all fun j =>
    let (on, i, v) := l.wait j
    !on || decide (v ≤ ((alook i (s.ctx l.fn l.ctx).counters).getD 0#64).toNat)

/-- Drop a waiting launch with a status code. -/
def State.reject (s : State) (l : Launch) (code : Nat) : State :=
  { s with launches := s.launches.filter (·.id != l.id) }.setStatus l.statLoc l.statAddr code 0

/-- LAUNCH_ACCEPT (R211): the waits hold, the grant and the routing tables are checked, and the launch is accepted. A packet
waits while its context is Saved (R276). DEDUCED: log 35. -/
def execLaunchAccept (fn q : Nat) (s : State) : Host.Outcome State Fault Refusal :=
  match s.waitingIn fn q with
  | none => .next s
  | some l =>
    let x := s.ctx fn l.ctx
    if x.st == .empty then .next (s.reject l stMALFORMED)
    else if x.st == .saved || !x.saving.isEmpty || !s.waitsHold l then .next s
    else if decide (x.watts < l.maxp) || decide (x.minStep < l.minf) || (l.boost && !x.boost) then .next (s.reject l stGRANT)
    else
      let t := s.tick
      let s := { s with tick := t + 1 }
      if !Config.routeOk t then .next (s.reject l stROUTE) else
      let n := s.serial
      let s := s.fresh.modLaunch l.id fun y =>
        { y with phase := .running, accepted := n, ctxid := x.id, watts := if l.maxp = 0 then x.watts else l.maxp }
      let s := s.modCtx fn l.ctx fun y => { y with st := .active }
      .next ((s.setStatus l.statLoc l.statAddr 1 0).due (.blockDispatch l.id))

/-- BLOCK_DISPATCH (R216). -/
def execBlockDispatch (launch : Nat) (s : State) : Host.Outcome State Fault Refusal := .next (s.distribute launch)

/-- BLOCK_REFILL (R217). -/
def execBlockRefill (launch : Nat) (s : State) : Host.Outcome State Fault Refusal := .next (s.distribute launch)

/-- IDLE_TIMER (R218): a cluster with no resident block, the worst-ranked of the idle ones of its package, begins gating. A package
below its floor gates every idle cluster (R270). DESIGN CHOICE: log 19. -/
def execIdleTimer (cluster : Nat) (s : State) : Host.Outcome State Fault Refusal :=
  let idle := ((List.range 64).map fun i => 64 * (cluster / 64) + i).filter fun k => (s.cluster k).gate == .active && s.emptyCluster k
  if (s.ranked idle).getLast? == some cluster || (s.belowFloor (cluster / 64) && idle.contains cluster) then
    .next ((s.modCluster cluster fun c => { c with gate := .gating }).due (.clusterGated cluster))
  else .next s

/-- CLUSTER_GATED (R218). -/
def execClusterGated (cluster : Nat) (s : State) : Host.Outcome State Fault Refusal :=
  .next (if (s.cluster cluster).gate == .gating then s.modCluster cluster fun c => { c with gate := .gated } else s)

/-- CLUSTER_WAKE_COMPLETE (R217): the cluster is eligible, and waiting blocks can be placed. -/
def execClusterWakeComplete (cluster : Nat) (s : State) : Host.Outcome State Fault Refusal :=
  if (s.cluster cluster).gate != .waking then .next s else
  let s := s.modCluster cluster fun c => { c with gate := .active }
  .next (match s.queueOrder with | id :: _ => s.due (.blockRefill id) | [] => s)

end Sys2Proof.Machine
end

