-- ==== Sys2Proof/Machine/Steps.lean ====
section
/-! DEFINITION. Host writes into device memory (R47, R242), the end of blocks and launches (R213, R323, R416), and the merge of a
kiln step (R240 to R245). -/

namespace Sys2Proof.Machine

open Sys2Proof

/-! ### Mappings of a physical address -/

/-- The leaf of a context that maps a physical byte. -/
def State.mapping (s : State) (c : Ctx) (hbm : Bool) (a : Nat) : Option Leaf :=
  (s.leavesOf c).find? fun l => l.attr.hbm == hbm && decide (l.frame ≤ a) && decide (a < l.frame + l.bytes)

/-- Virtual address of a physical byte on a leaf. -/
def Leaf.vaOf (l : Leaf) (a : Nat) : Nat :=
  l.base + (if l.attr.fmt = 0 then a - l.frame else (a - l.frame) / sxSize l.attr.fmt * 64)

/-! ### Host writes -/

/-- Perform a host write (R172, R203, R226); one to HBM may make mappings valid (R157). -/
def State.hostPerform (s : State) (kind : MemKind) (a : Nat) (bs : List Byte) : State :=
  match kind with
  | .scratch => s.memWrite none .scratch a bs
  | .hbm => (s.hbmWrite a bs).mapNew
  | .host => { s with host := s.host.setBytes a bs }

/-- Running launches that map a byte of device memory, with the leaf. -/
def State.mappers (s : State) (hbm : Bool) (a : Nat) : List (Launch × Leaf) :=
  (s.launches.filter fun l => l.phase == .running).filterMap fun l => (s.mapping (s.ctx l.fn l.ctx) hbm a).map fun x => (l, x)

/-- A byte of device memory as the host reads it: a page that a DET launch maps reads as its latest merge left it (R242). -/
def State.hostByte (s : State) (hbm : Bool) (a : Nat) : Byte :=
  match (s.mappers hbm a).find? fun x => x.1.det with
  | some (l, _) => s.priorByte l hbm a
  | none => s.memGet hbm a

/-- HOST_WRITE (R47, R242): to an LRO page of a running launch it is discarded and logged; to a page that a DET launch maps it is
held to the next merge. The write lies within one page. DEDUCED: log 27. -/
def execHostWrite (kind : MemKind) (addr : Nat) (bytes : List Byte) (s : State) : Host.Outcome State Fault Refusal :=
  if kind == .host then .next (s.hostPerform kind addr bytes) else
  let ms := s.mappers (kind == .hbm) addr
  if ms.any fun x => x.2.attr.lro then
    .next (s.logEvent (packageOfPa (kind == .hbm) addr) (.hostWrite addr))
  else match ms.find? fun x => x.1.det with
    | some (l, _) => .next (s.modLaunch l.id fun y => { y with held := y.held ++ [(kind, addr, bytes)] })
    | none => .next (s.hostPerform kind addr bytes)

/-! ### Ends -/

/-- Can a block end (R323)? Its warps have exited; its accesses, copies, matrix operations and sum-tree instructions have completed. -/
def State.canEnd (s : State) (b : Block) : Bool :=
  !b.ended && !b.saved && b.warps.all Warp.exited && !s.blockBusy b.id && b.warps.all fun w => w.pend.isEmpty && w.replay.all (·.stale)

/-- Give up the shared memory of spans whose blocks have all ended (R32). DEDUCED: log 35. -/
def State.dropSpan (s : State) (b : Block) : State :=
  let n := max (s.launch b.launch).span 1
  let mate := fun (x : Block) => x.launch == b.launch && x.num / n == b.num / n
  if (s.blocks.filter mate).all (·.ended) then { s with blocks := s.blocks.filter fun x => !mate x } else s

/-- Results that a block's warps have computed become ready: a producer's exit abandons none (R52). -/
def State.drainBlock (s : State) (b : Block) : State := b.warps.foldl (fun s w => s.drain b.core b.id w.idx) s

/-- BLOCK_END (R323). A block of a DET launch keeps its step writes for the merge (R240). A result whose comparison fails loses the
block, or rolls it back, in place of its end (R258). -/
def execBlockEnd (block : Nat) (s : State) : Host.Outcome State Fault Refusal :=
  match s.block? block with
  | none => .next s
  | some b =>
    if !s.canEnd b then .next s else
    let s := s.drainBlock b
    if (s.block? block).map (·.rollbacks) != some b.rollbacks then .next s else
    if !s.releaseFree (s.block block) then .next s else
    let s := (s.flushRelease block).releaseBlock block
    let s := (s.modLaunch b.launch fun l => { l with ended := l.ended + 1 }).sweep b.core none
    let l := s.launch b.launch
    if l.det then .next (s.due (.stepEnd l.id)) else
    let s := s.dropSpan b
    .next (if l.blocks ≤ l.ended then s.due (.launchComplete l.id) else s.due (.blockRefill l.id))

/-- The final status code (R416). -/
def Launch.finalCode (l : Launch) : Nat := if l.spanLost then 4 else if l.lost ≠ 0 then 3 else 2

/-- Add to an event counter (R213, R278). -/
def Ctx.addCounter (c : Ctx) (i : Nat) (n : Dword) : Ctx :=
  { c with counters := aput i ((alook i c.counters).getD 0#64 + n) c.counters }

/-- The watch units remove every `.sp` load key of a launch (R47). -/
def State.dropLaunchKeys (s : State) (id : Nat) : State :=
  (s.cores.map (·.1)).foldl (fun s c => s.dropKeys c
    (fun k => match k.key.mem with | some m => m.space == .sp && m.owner == id | none => false) none) s

/-- LAUNCH_COMPLETE (R213, R276): the status record, the signal, and an Active context becomes Idle after its last launch. One that is
Saved, or being saved, becomes so as RESUME makes it Active. -/
def execLaunchComplete (launch : Nat) (s : State) : Host.Outcome State Fault Refusal :=
  let l := s.launch launch
  if l.phase != .running || l.ended < l.blocks || s.blocks.any (fun b => b.launch == launch) then .next s else
  let s := (s.setStatus l.statLoc l.statAddr l.finalCode l.lost).dropLaunchKeys launch
  let (on, i) := l.signal
  let s := if on then s.modCtx l.fn l.ctx fun c => c.addCounter i 1#64 else s
  let s := s.modLaunch launch fun x => { x with phase := .complete }
  let more := s.launches.any fun x => x.fn == l.fn && x.ctx == l.ctx && x.phase == .running
  .next (if more then s else s.modCtx l.fn l.ctx fun c =>
    { c with st := if c.st == .active && c.saving.isEmpty then .idle else c.st })

/-! ### The merge of a kiln step (R243) -/

/-- A word of scratchpad or HBM: memory and aligned address. -/
abbrev MergeWord := Bool × Nat

/-- Words that a block wrote by `ST`, a copy or an `ACOPY` in the step. -/
def Block.stored (b : Block) : List MergeWord :=
  (b.written.map fun a => (false, a / 4 * 4)) ++ b.stepCopies.map fun x => (true, x.1 / 4 * 4)

/-- Words of an atomic. -/
def StepAtom.words (x : StepAtom) : List MergeWord := (List.range (atomSize x.ty / 4)).map fun i => (false, x.addr + 4 * i)

/-- Words that a block's atomics of the step touched. -/
def Block.atomic (b : Block) : List MergeWord := b.atoms.flatMap StepAtom.words

/-- Words, each once, in rising order. -/
def putWord (w : MergeWord) : List MergeWord → List MergeWord
  | [] => [w]
  | v :: vs =>
    let key := fun (x : MergeWord) => [if x.1 then 1 else 0, x.2]
    if v = w then v :: vs else if lexLt (key w) (key v) then w :: v :: vs else v :: putWord w vs

/-- A block's view of a word: its own bytes over what the merge before left. -/
def State.viewOf (s : State) (b : Block) (w : MergeWord) : List Byte :=
  (List.range 4).map fun i =>
    let a := w.2 + i
    (alook a (if w.1 then b.stepCopies else b.view)).getD (s.priorByte (s.launch b.launch) w.1 a)

/-- Blocks of a launch by block ID. -/
def State.gridBlocks (s : State) (launch : Nat) : List Block :=
  let put := fun (b : Block) (acc : List Block) => acc.takeWhile (fun x => decide (x.num < b.num)) ++ b :: acc.dropWhile fun x => decide (x.num < b.num)
  (s.blocks.filter (·.launch == launch)).foldr put []

/-- Apply atomics in order to the 8 bytes that hold a word. DEDUCED: log 28. -/
def applyAtoms (base : Nat) : List StepAtom → List Byte → List Byte
  | [], bs => bs
  | x :: xs, bs =>
    let n := atomSize x.ty
    let k := x.addr - base
    let old := BitVec.ofNat 64 (leNat ((bs.drop k).take n))
    applyAtoms base xs (bs.take k ++ leBytes n (atomNew x.op x.ty old x.b x.c).toNat ++ bs.drop (k + n))

/-- The value of a word that only atomics touched. -/
def State.atomValue (s : State) (l : Launch) (bs : List Block) (w : MergeWord) : List Byte :=
  let base := w.2 / 8 * 8
  let xs := bs.flatMap fun b => b.atoms.filter fun x => x.addr / 8 * 8 == base
  let out := applyAtoms base xs ((List.range 8).map fun i => s.priorByte l w.1 (base + i))
  (out.drop (w.2 - base)).take 4

/-- Outcome of a word: its value, and on a conflict the blocks involved. -/
structure Merged where
  word : MergeWord
  value : List Byte
  conflict : List Block
  deriving DecidableEq, Repr, Inhabited

/-- Merge one word (R243). DEDUCED: log 28. -/
def State.mergeWord (s : State) (l : Launch) (bs : List Block) (w : MergeWord) : Merged :=
  let st := bs.filter fun b => b.stored.contains w
  let at_ := bs.filter fun b => b.atomic.contains w
  match st with
  | [] => { word := w, value := s.atomValue l bs w, conflict := [] }
  | b :: rest =>
    if rest.isEmpty && at_.all (·.id == b.id) then { word := w, value := s.viewOf b w, conflict := [] }
    else
      let all := bs.filter fun x => x.stored.contains w || x.atomic.contains w
      { word := w, value := s.viewOf (all.headD b) w, conflict := all }

/-- Perform a merged word. -/
def State.mergeWrite (s : State) (m : Merged) : State :=
  if m.word.1 then s.hbmWrite m.word.2 m.value else s.memWrite none .scratch m.word.2 m.value

/-- Virtual address of a word of a launch's context. -/
def State.wordVa (s : State) (l : Launch) (w : MergeWord) : Nat :=
  match s.mapping (s.ctx l.fn l.ctx) w.1 w.2 with
  | some x => x.vaOf w.2
  | none => w.2

/-- The fault record of a conflicting word (R244, R275). -/
def State.conflictRecord (s : State) (l : Launch) (m : Merged) : State :=
  let nth := fun (i : Nat) => ((m.conflict[i]?).map (·.num)).getD 0
  s.faultRecord l.fn l.ctx 2 0 0 (s.wordVa l m.word) (nth 0) 0 l.step (nth 1)

/-- STEPCONFLICT of a block for its lowest conflicting word (R244): to its lowest warp that has not exited; a block without one
counts as lost. DEDUCED: log 28. -/
def State.stepConflict (s : State) (l : Launch) (b : Block) (low : Nat) : State :=
  match b.warps.find? fun w => !w.exited with
  | some w => s.modWarp b.id w.idx fun x =>
      { x with deliver := x.deliver ++ [{ (default : Delivery) with cause := 0x12, info := BitVec.ofNat 32 low, threads := x.live }] }
  | none => s.modLaunch l.id fun x => { x with lost := x.lost + 1 }

/-- Every block takes its trap of the step. -/
def State.stepConflicts (s : State) (l : Launch) (bs : List Block) (cs : List (Nat × Merged)) : State :=
  bs.foldl (fun s b =>
    let mine := cs.filter fun c => (c.2.conflict.drop 1).any (·.id == b.id)
    match leastBy (fun c => [c.1]) mine with
    | some c => s.stepConflict l b ((c.2.conflict.head?.map (·.num)).getD 0)
    | none => s) s

/-- A block goes on after a step: its step writes are gone, and its held threads continue (R240). The checkpoint of its arrival
is taken anew, since the merge has been performed. -/
def State.nextStep (s : State) (b : Nat) : State :=
  let s := s.modBlock b fun x =>
    { x with arrived := false, view := [], written := [], atoms := [], stepCopies := [], lines := [], passed := 0 }
  let s := (s.block b).warps.foldl (fun s w => s.letGoAll b w.idx .kstep) s
  s.takeCk b

/-- Has every block of the grid arrived at the step's boundary or ended (R240)? -/
def State.stepReady (s : State) (l : Launch) : Bool :=
  l.det && l.phase == .running && decide (l.blocks ≤ l.next) &&
    (s.gridBlocks l.id).all fun b => !b.saved && (b.arrived || b.ended)

/-- STEP_END (R240 to R244): blocks with step writes for a package that they have no path to consume an error first (R281); the merge, which may make mappings valid (R157), the host's held writes, the next step. DEDUCED: log 28. -/
def execStepEnd (launch : Nat) (s : State) : Host.Outcome State Fault Refusal :=
  let l := s.launch launch
  if !s.stepReady l then .next s else
  let lost := (s.gridBlocks launch).filter s.writesLost
  if !lost.isEmpty then .next (lost.foldl (fun s b => if (s.block? b.id).isSome then s.consume b.id else s) s) else
  let bs := s.gridBlocks launch
  let words := (bs.flatMap fun b => b.stored ++ b.atomic).foldr putWord []
  let ms := words.map (s.mergeWord l bs)
  let cs := (ms.filter fun m => !m.conflict.isEmpty).map fun m => (s.wordVa l m.word, m)
  let s := (ms.foldl State.mergeWrite s).mapNew
  let s := cs.foldl (fun s c => s.conflictRecord l c.2) s
  let s := s.stepConflicts l bs cs
  let s := l.held.foldl (fun s h => s.hostPerform h.1 h.2.1 h.2.2) s
  let s := s.modLaunch launch fun x => { x with step := x.step + 1, held := [], base := [] }
  let s := { s with blocks := s.blocks.filter fun b => !(b.launch == launch && b.ended) }
  let s := ((s.gridBlocks launch).map (·.id)).foldl State.nextStep s
  .next (if (s.gridBlocks launch).isEmpty then s.due (.launchComplete launch) else s)

end Sys2Proof.Machine
end

