-- ==== Sys2Proof/Machine/Preempt.lean ====
section
/-! DEFINITION. Pre-emption (R126, R151, R208, R234), the context save (R235), and restore and migration (R192, R236). -/

namespace Sys2Proof.Machine

open Sys2Proof

/-- Blocks of a context on a core. -/
def State.blocksOf (s : State) (core ctx : Nat) : List Block :=
  s.blocks.filter fun b => b.core == core && (s.ctxidOf b.id).toNat == ctx

/-! ### The halt (R234) -/

/-- Every row of an operation is final: STATE 4, or while it may not be written (R169, R189, R397) the operation gives its reservation back and
owes it. -/
def State.matEnd (s : State) (core : Nat) (m : MatOp) : State :=
  if s.endHeld core m then
    (s.freeCurrent .matrix core m.id).modMat core m.id fun x => { x with reserved := false, rows := 16, owes := 4 }
  else s.matDone core m

/-- Rows of an operation whose chunks are all in become final (R126). -/
def State.matFinish (core : Nat) : Nat → MatOp → State → State
  | 0, m, s => s.matEnd core m
  | n + 1, m, s => State.matFinish core n m (s.matRow core m (15 - n))

/-- An operation of the engine stops at a chunk boundary, finishes, or stays queued (R126). Writes of PROGRESS and STATE that are held (R169)
are owed. DEDUCED: log 31. -/
def State.matPark (s : State) (core : Nat) (m : MatOp) : State :=
  if m.owes = 4 then s
  else if m.reserved && decide (m.chunks ≤ m.progress) then State.matFinish core (16 - m.rows) m s
  else
    let held := s.matHeld core m
    let s := (s.freeCurrent .matrix core m.id).modMat core m.id fun x =>
      { x with reserved := false, requested := false, st := if m.reserved then 3 else m.st, owes := if m.reserved && held then 3 else m.owes }
    if m.reserved && !held then (s.matProgress m).matState m 3 false else s

/-- A copy parks at a part boundary, its record kept (R171, R234). -/
def State.copyPark (s : State) (cp : Copy) : State :=
  (s.modCopy cp.id fun k => { k with reserved := false }).freeCurrent .copy cp.core cp.id

/-- The engines of a core park what they have under way (R126, R151, R234). -/
def State.parkEngines (s : State) (core : Nat) : State :=
  let c := s.core core
  let s := c.matq.foldl (fun s m => s.matPark core m) s
  let s := match c.trees.head? with
    | some m => if m.hold.isNone then s.treeDone core m else s
    | none => s
  let s := (s.copies.filter fun k => k.core == core).foldl State.copyPark s
  let s := c.chrun.foldl (fun s x => s.freeCurrent .vector core x.2.2.1) s
  s.modCore core fun c => { c with chrun := [] }

/-- Open transactions of a core's blocks abort with PREEMPT; those of a DET block are saved (R208, R253). -/
def State.preemptTx (s : State) (bs : List Block) : State :=
  bs.foldl (fun s b => if (s.launch b.launch).det then s else b.warps.foldl (fun s w => s.abortTx b.id w.idx 6 0) s) s

/-- What a parked access is, for its record. -/
def AccKind.parkKind : AccKind → AccessKind
  | .store _ _ => .st | .atom .. => .atom | .wake | .wait .. => .wait | .load _ _ | .fence .. | .bound _ _ => .ld

/-- The entry of one instruction's accesses that park because the core halts: it replays without an answer of the host. -/
def parkGroup (group : Nat) (as : List Access) : Parked :=
  let a := as.headD default
  { tag := tagLimit + group, kind := a.kind.parkKind, va := a.va, mask := as.foldl (fun m a => m ||| a.lanes) 0#64, fpc := a.pc, line := false, accs := as,
    copy := none, answer := some true, posted := true, stale := false, placed := true }

/-- A warp's accesses that are not performed park (R234). A fence keeps its place, and so does a load that waits for an entry. -/
def Warp.parkPend (w : Warp) : Warp :=
  let stays := fun (a : Access) => a.kind.fence?.isSome || a.kind.bound?.isSome
  let go := w.pend.filter fun a => !stays a
  let groups := go.foldl (fun acc a => if acc.contains a.group then acc else acc ++ [a.group]) []
  { w with pend := w.pend.filter stays, replay := w.replay ++ groups.map fun g => parkGroup g (go.filter (·.group == g)) }

/-- The accesses of a core's blocks park. -/
def State.parkAccesses (s : State) (core : Nat) : State :=
  { s with blocks := s.blocks.map fun b => if b.core = core then { b with warps := b.warps.map Warp.parkPend } else b }

/-- Issued VEC and SFU operations complete (R234). -/
def State.finishLanes (s : State) (core : Nat) : State :=
  let c := s.core core
  (c.entries.filter fun e => e.st == .pending && e.known && !(c.trees.any fun t => t.dests.contains e.eid)).foldl
    (fun s e => s.complete core e.eid) s

/-- CORE_HALT (R234): after a pre-emption request the core halts, whichever contexts its blocks are of. DEDUCED: log 26. -/
def execCoreHalt (core : Nat) (s : State) : Host.Outcome State Fault Refusal :=
  match (s.core core).halting with
  | none => .next s
  | some ctx =>
    if (s.core core).halted then .next s else
    let s := s.finishLanes core
    let s := ((s.preemptTx (s.blocks.filter (·.core == core))).parkAccesses core).parkEngines core
    .next ((s.modCore core fun c => { c with halted := true }).due (.contextSaveComplete core ctx))

/-! ### The save (R235) -/

/-- A path as a context save keeps it. -/
def Path.saved (p : Path) : Path :=
  { p with next := 0, last := none, age := 0, aged := none, fetch := none, tried := false, ready := false, yield := none }

/-- Save a warp by its first path: its absent pieces are filled, its context frame is written with CAUSE PREEMPT, and every
register without a pending entry becomes absent (R65, R235, R236). The frame holds the `s` registers of the first path; the
other paths keep theirs. DEDUCED: log 26. -/
def State.saveWarp (s : State) (b w : Nat) : State :=
  match (sortPaths (s.warp b w).paths).head? with
  | none => s
  | some p =>
    let s := s.fillAll b w p.id
    match s.cxOf b w p.id with
    | none => s
    | some c =>
      let keep := c.linksNow
      let old := c.wp.links
      let c := c.at (s.modWarp b w fun x => { x with links := keep })
      let s := c.writeFrame (c.deliveryInfo { (default : Delivery) with cause := 0x17 }) true
      let linked := fun (a : RegClass × Nat × Nat) => keep.any fun k => k.1 == a.1 && k.2.1 == a.2.1
      let only := fun (cls : RegClass) => (keep.filter (·.1 == cls)).map fun k => (k.2.1, k.2.2)
      s.modWarp b w fun x =>
        { x with
          links := old, v := only .v, p := only .p, absent := c.pieces.filter (fun a => !linked a), fromCtx := true
          cycle0 := x.cycle0 - (c.clock : Int)
          paths := x.paths.map fun q => if q.id = p.id then { q.saved with s := only .s } else q.saved
          handler := x.handler.map fun h => { h with others := h.others.map Path.saved } }

/-- Entries that a save keeps: some entries and the sources of those that are not ready. -/
def CoreSt.needed (c : CoreSt) : Nat → List Nat → List Nat
  | 0, ids => ids
  | n + 1, ids =>
    let more := (c.entries.filter fun e => e.st != .ready && ids.contains e.eid).flatMap fun e => match e.key with
      | some k => k.ids.filter fun i => !ids.contains i
      | none => []
    if more.isEmpty then ids else c.needed n (ids ++ more)

/-- A block's images on their way into the tables of a context, with the tables (R134). -/
def tablesOf (ctx : Word) (b : Nat) (xs : List (Word × List Buffer)) : List (Word × List Buffer) :=
  (xs.filter (·.1 == ctx)).map fun x => (x.1, x.2.map fun k => { k with incoming := k.incoming.filter (·.1 == b) })

/-- Can a block not be saved: a frame page of a warp is unmapped (R279), or a register that it lacks cannot be filled (R261)? -/
def State.saveLost (s : State) (core : Nat) (b : Block) : Bool :=
  let l := s.launch b.launch
  b.warps.any fun w => !w.exited &&
    ((s.frameAt core l w true).isNone || (w.handler.isSome && (s.frameAt core l w false).isNone) ||
      s.fillsLost b.id w.idx)

/-- Save a block (R235): its warps, and the state that engines hold for it. DEDUCED: log 26. -/
def State.saveBlock (s : State) (b : Nat) : State :=
  let blk := s.block b
  let core := blk.core
  let l := s.launch blk.launch
  if (s.block? b).isNone then s
  else
    let s := blk.warps.foldl (fun s w => s.saveWarp b w.idx) s
    let c := s.core core
    let mats := c.matq.filter (·.block == b)
    let flags := (s.block b).warps.flatMap fun w => w.flags.filterMap fun f => match f.2 with | .entry e => some e | _ => none
    let ids := c.needed (c.entries.length + 1) ((s.block b).ids ++ flags ++ mats.flatMap fun m => m.caps.map (·.2.2))
    let area : CoreSt :=
      { CoreSt.init with
        entries := c.entries.filter (fun e => ids.contains e.eid), matq := mats, trees := c.trees.filter (·.block == b),
        holds := c.holds.filter (·.block == b), kicks := c.kicks.filter (·.block == b), acts := tablesOf l.ctxid b c.acts,
        chains := tablesOf l.ctxid b c.chains }
    let s := (s.setCore (saveArea b) area).modCore core fun c =>
      { c with matq := c.matq.filter (·.block != b), trees := c.trees.filter (·.block != b), holds := c.holds.filter (·.block != b),
               kicks := c.kicks.filter (·.block != b), stackCache := c.stackCache.filter (·.1 != b) }
    let s := { s with copies := s.copies.map fun (k : Copy) => if k.block = b then { k with core := saveArea b } else k }
    s.modBlock b fun x => { x with core := saveArea b, home := core, saved := true }

/-- What a core holds for a context goes: entries, keys, tables, chain slots (R55, R235). -/
def CoreSt.dropCtx (c : CoreSt) (ctx : Word) : CoreSt :=
  { c with entries := c.entries.filter (·.ctx != ctx), keys := c.keys.filter (·.key.ctx != ctx),
           acts := c.acts.filter (·.1 != ctx), chains := c.chains.filter (·.1 != ctx) }

/-- The function and slot of a context ID. -/
def State.findCtx (s : State) (id : Word) : Option (Nat × Nat) :=
  s.fns.findSome? fun f => (f.2.ctxs.find? fun c => c.2.st != .empty && c.2.id == id).map fun c => (f.1, c.1)

/-- Write a command's words and then its status, and go on to the next command (R277). -/
def State.finishCmd (s : State) (fn : Nat) (code : Nat) (words : List (Nat × Word) := []) : State :=
  let f := s.fn fn
  let n := 2 ^ f.cmdsize
  let a := f.cmdbase.toNat + 64 * (f.cmdhead.toNat % n)
  let m := words.foldl (fun m x => Memory.setWord m (a + 4 * x.1) x.2) s.host
  { s with host := Memory.setBytes m (a + 56) (leBytes 1 code) }.setFn fn
    { f with cmdhead := BitVec.ofNat 12 ((f.cmdhead.toNat + 1) % n), running := none }

/-- Would a parked entry that the host has not answered park again: an address has no translation still, or the step-line pool has no place for
its lines (R229, R246)? -/
def State.recurs (s : State) (b w : Nat) (r : Parked) : Bool :=
  let c := s.warpCx b w
  if r.line then (match s.drawLines b ((r.accs.filter fun a => a.kind.writes && a.place == .scratch).map fun a => (a.addr, a.size)) with
    | .full => true | _ => false)
  else if r.accs.isEmpty then s.translate (some c.core) c.l.fn c.l.ctx r.va == .fault
  else r.accs.any fun a => c.replayAddr r a == .noMap

/-- Events due in a warp whose core goes on: waits that go on, and the replay queue in its order (R230, R236, R275): entries that have been
answered, and of the others those whose fault does not recur; a fault that does leaves the entry parked under its record. The answer to the
record of a cancelled access is kept (R261). DEDUCED: log 29. -/
def State.restoreDue (s : State) (b w : Nat) : State :=
  let x := s.warp b w
  let s := x.paths.foldl (fun s p => if p.park.isSome then s.due (.waitaddrContinue b w p.id) else s) s
  (x.replay.filter fun r => !r.stale).foldl (fun s r => match r.answer with
    | some true => s.due (.translationWalk b w r.tag)
    | some false => if (s.block? b).isNone then s else s.decline b w r
    | none =>
      if !r.posted then s.due (.translationWalk b w r.tag)
      else if s.recurs b w r then s
      else (s.modParked b w r.tag fun k => some { k with answer := some true }).due (.translationWalk b w r.tag)) s

/-- Copies of a block whose core goes on ask for current again, unless they wait for an answer (R236, R267). -/
def State.restoreCopies (s : State) (b core : Nat) : State :=
  (s.copies.filter (·.block == b)).foldl (fun s k =>
    let parked := !k.acopy && (s.warp b k.warp).replay.any (·.copy == some k.id)
    let s := s.modCopy k.id fun x => { x with core := core }
    if parked then s else s.askCopy { k with core := core }) s

/-- A block goes on as its core does: its parked copies and accesses resume. -/
def State.goOnBlock (s : State) (b core : Nat) : State :=
  (s.block b).warps.foldl (fun s w => s.restoreDue b w.idx) (s.restoreCopies b core)

/-- The last core of a PREEMPT has been saved: the context is Saved, and the command completes (R276, R277). -/
def State.finishPreempt (s : State) (fn slot pkg : Nat) : State :=
  (s.modCtx fn slot fun c => { c with st := .saved, pkg := pkg, saving := [] }).finishCmd fn 1

/-- CONTEXT_SAVE_COMPLETE (R235): the save of a halted core completes, and the core goes on with what it keeps. A block that cannot be saved
consumes an uncorrectable error (R261, R279); one that is rolled back is tried again. DEDUCED: log 26. -/
def execContextSaveComplete (core ctx : Nat) (s : State) : Host.Outcome State Fault Refusal :=
  let c := s.core core
  if !c.halted || c.halting != some ctx then .next s else
  let id := BitVec.ofNat 32 ctx
  let lost := fun (s : State) => ((s.blocksOf core ctx).filter (s.saveLost core)).map (·.id)
  let s := (lost s).foldl (fun s b => if (s.block? b).isNone then s else s.consume b) s
  if !(lost s).isEmpty then .next (s.due (.contextSaveComplete core ctx)) else
  let s := (s.blocksOf core ctx).foldl (fun s b => s.saveBlock b.id) s
  let s := (s.modCore core fun c => { c.dropCtx id with halting := none, halted := false }).sweep core none
  let s := (s.blocks.filter (·.core == core)).foldl (fun s b => s.goOnBlock b.id core) s
  match s.findCtx id with
  | none => .next s
  | some (fn, slot) =>
    let s := s.modCtx fn slot fun x => { x with saving := x.saving.filter (· != core) }
    .next (if (s.ctx fn slot).saving.isEmpty then s.finishPreempt fn slot (packageOf core) else s)

/-! ### Restore (R236) -/

/-- Put a saved entry on a core under its identity, in fresh storage; an entry that the core holds already stays. -/
def State.putEntry (s : State) (core w : Nat) (e : Entry) : State :=
  if ((s.core core).entry? e.eid).isSome then s else
  let (s, id) := s.alloc core w none e
  s.modCore core fun c => c.modEntry id fun x => { x with eid := e.eid }

/-- Tables that come with a block join a core's: tables that the core holds already stay, images on their way are added. -/
def mergeTables (mine theirs : List (Word × List Buffer)) : List (Word × List Buffer) :=
  theirs.foldl (fun acc x => match acc.find? (·.1 == x.1) with
    | none => x :: acc
    | some y => (x.1, (y.2.zip x.2).map fun (a : Buffer × Buffer) => { a.1 with incoming := a.1.incoming ++ a.2.incoming }) ::
        acc.filter (·.1 != x.1)) mine

/-- The `s` registers of a restored warp's first path are absent until they are filled from the context frame (R65). -/
def State.restoreS (s : State) (b w : Nat) : State :=
  match sortPaths (s.warp b w).paths with
  | [] => s
  | p :: _ =>
    let lacks := (List.range 32).filter fun n => !(p.s.any (·.1 == n))
    s.modPath b w p.id fun x => { x with sAbsent := lacks.map fun n => (n, none) }

/-- Does the instance of a scope that holds one core's threads hold another core's (R174)? That of a warp, a block or a span holds those of one
core or cluster only, and no two cores' between which a block moves. -/
def scopeCores (sc : Scope) (a b : Nat) : Bool :=
  match sc with
  | .warp | .block | .span => a == b
  | .die => dieOfCore a == dieOfCore b
  | .package => packageOf a == packageOf b
  | .domain | .sys => true

/-- The narrowest scope whose instance contains both cores of a move (R174, R192). -/
def moveScope (a b : Nat) : Scope := ([Scope.die, .package].find? fun k => scopeCores k a b).getD .domain

/-- A restored warp on its new core (R61, R192, R194, R236): its slot and start, `MIGRATED`, the fence of a move, which its own accesses and what
its block's release buffer holds come before, waits that go on spuriously; its waits for entries begin anew. -/
def Warp.moved (x : Warp) (slot : Nat × Option Nat) (clock serial old new : Nat) (buffered : Bool) : Warp :=
  let moved := new != old
  let wake := fun (p : Path) => { p with park := p.park.map fun k => { k with released := true } }
  let fence : Access := { (default : Access) with serial := serial, group := serial, lanes := fullMask x.threads.length, kind := .fence .ar (moveScope old new), place := .scratch }
  { x with
    slot := slot.1, slot2 := slot.2, start := clock, cycle0 := x.cycle0 + (clock : Int), wstat := if moved then x.wstat ||| 0x800#32 else x.wstat
    waits := []
    pend := if moved && (buffered || !x.queued.isEmpty) then x.pend ++ [fence] else x.pend
    replay := x.replay.map fun r => { r with accs := r.accs.map Access.woken }
    paths := x.paths.map wake
    handler := x.handler.map fun h => { h with others := h.others.map wake } }

/-- Registers each with an entry of its own (R55): the pointers whose entry stands in `seen`, an earlier register's or that of a block restored
before on the core, take private entries with the entry's value, or that receive it when it is ready. -/
def State.ownPtrs (core w : Nat) : List (Nat × Nat) → State → List Nat → State × List (Nat × Nat) × List Nat
  | [], s, seen => (s, [], seen)
  | (r, e) :: xs, s, seen =>
    let (s, id) := match seen.contains e, (s.core core).entry? e with
      | true, some x =>
        s.alloc core w none { x with bound := [], dead := false, copyOf := if x.st == .pending then some e else none } seen
      | _, _ => (s, e)
    let (s, ys, seen) := State.ownPtrs core w xs s (id :: seen)
    (s, (r, id) :: ys, seen)

/-- The `s` registers of paths, each with an entry of its own. -/
def State.ownPaths (core w : Nat) : List Path → State → List Nat → State × List Path × List Nat
  | [], s, seen => (s, [], seen)
  | p :: ps, s, seen =>
    let (s, x, seen) := State.ownPtrs core w p.s s seen
    let (s, qs, seen) := State.ownPaths core w ps s seen
    (s, { p with s := x } :: qs, seen)

/-- The registers of a block's warps, each with an entry of its own. -/
def State.ownWarps (b core w : Nat) : List Warp → State → List Nat → State
  | [], s, _ => s
  | x :: xs, s, seen =>
    let (s, v, seen) := State.ownPtrs core w x.v s seen
    let (s, p, seen) := State.ownPtrs core w x.p s seen
    let (s, ps, seen) := State.ownPaths core w x.paths s seen
    let (s, hs, seen) := State.ownPaths core w (match x.handler with | some h => h.others | none => []) s seen
    State.ownWarps b core w xs
      (s.modWarp b x.idx fun y => { y with v := v, p := p, paths := ps, handler := y.handler.map fun h => { h with others := hs } }) seen

/-- Restore a saved block on a core (R236). One that holds a write for a package that it has no path to from there consumes an uncorrectable
error (R281). What R65 restores at once (PC, meeting registers, `lc0` to `lc2`, `xi`, `WSTAT`) comes from the warp's
own record, as it was saved: a change of those words of the context frame while the context is Saved is not seen. Its matrix operations join
the core's queue behind those there, which may make them more than four (R120). DESIGN CHOICE: log 38. DEDUCED: log 26. -/
def State.restoreBlock (s : State) (b core : Nat) : State :=
  let blk := s.block b
  let l := s.launch blk.launch
  let area := s.core (saveArea b)
  let slots := l.takeSlots l.warps (s.slotsUsed core)
  let bslot := firstFree ((s.blocks.filter fun x => x.core == core).map (·.slot))
  let n := s.serial
  let s := { s with serial := n + l.warps, cores := adel (saveArea b) s.cores }
  let s := s.dropKeys core (fun k => match k.key.mem with | some m => m.space == .sh && m.owner == bslot | none => false) none
  let c := s.core core
  let held := (area.entries.filter fun e => (c.entry? e.eid).isSome).map (·.eid)
  let s := s.modBlock b fun x =>
    { x with core := core, slot := bslot, saved := false,
             warps := x.warps.map fun w => w.moved (slots.getD w.idx (0, none)) (c.quad w.quad).clock (n + w.idx) blk.home core !blk.release.isEmpty }
  let s := (area.entries.filter (·.st != .ready) ++ area.entries.filter (·.st == .ready)).foldl (fun s e => s.putEntry core l.physW e) s
  let s := s.modCore core fun c =>
    { c with matq := c.matq ++ area.matq, trees := c.trees ++ area.trees, holds := c.holds ++ area.holds, kicks := c.kicks ++ area.kicks,
             acts := mergeTables c.acts area.acts, chains := mergeTables c.chains area.chains }
  let s := State.ownWarps b core l.physW (s.block b).warps s held
  let s := (blk.warps.foldl (fun s w => s.restoreS b w.idx) s).goOnBlock b core
  if s.writesLost (s.block b) then s.consume b else
  if blk.warps.all Warp.exited && !blk.ended then s.due (.blockEnd b) else s

/-- Saved spans of a context, each with its blocks in order. -/
def State.savedSpans (s : State) (fn slot : Nat) : List (List Block) :=
  let bs := s.blocks.filter fun b => b.saved && (s.launch b.launch).fn == fn && (s.launch b.launch).ctx == slot
  let key := fun (b : Block) => (b.launch, b.num / max (s.launch b.launch).span 1)
  let keys := bs.foldl (fun acc b => if acc.contains (key b) then acc else acc ++ [key b]) []
  keys.map fun k => bs.filter fun b => key b == k

/-- Place saved spans on eligible cores of a package (R216, R277); `none` when one does not fit. -/
def State.placeSaved (pkg : Nat) : List (List Block) → State → Option State
  | [], s => some s
  | bs :: rest, s =>
    let l := s.launch ((bs.head?.map (·.launch)).getD 0)
    let ks := s.eligible ((List.range 64).map fun i => 64 * pkg + i)
    match s.place216 l (s.lightLoad l (rest.length + 1) ks) ks (bs.map s.reserves) with
    | none => none
    | some cores => State.placeSaved pkg rest ((bs.zip cores).foldl (fun s x => s.restoreBlock x.1.id x.2) s)

end Sys2Proof.Machine
end

