-- ==== Sys2Proof/Machine/HostCommands.lean ====
section
/-! DEFINITION. The host interface: BAR0 registers (R274 to R276), event counters (R278), the command ring (R277), SEAL (R284),
the snapshot pin (R265). -/

namespace Sys2Proof.Machine

open Sys2Proof

/-! ### Registers (R274) -/

/-- A 64-bit register with one word replaced; the low bits that its alignment fixes stay 0. -/
def putHalf (x : Dword) (high : Bool) (v : Word) (align : Nat) : Dword :=
  let y := if high then Dword.pair x.lo v else Dword.pair v x.hi
  BitVec.ofNat 64 (y.toNat / align * align)

/-- Write a word of a queue's registers. QBASE, QSIZE, QLOC and QCTX are written only while QEN is 0. -/
def Queue.write (k : Queue) (r : Nat) (v : Word) : Queue :=
  let x := v.toNat
  if r = 0 then (if k.en then k else { k with base := putHalf k.base false v 128 })
  else if r = 4 then (if k.en then k else { k with base := putHalf k.base true v 128 })
  else if r = 8 then
    { k with size := if k.en then k.size else bitsOf x 4 0, prio := bitsOf x 6 5, loc := if k.en then k.loc else bitsOf x 7 7 = 1,
             en := bitsOf x 8 8 = 1 }
  else if r = 0x0C then { k with door := v.setWidth 16 }
  else if r = 0x10 then { k with stat := putHalf k.stat false v 8 }
  else if r = 0x14 then { k with stat := putHalf k.stat true v 8 }
  else if r = 0x1C then (if k.en then k else { k with ctx := bitsOf x 5 0 })
  else k

/-- Write a word of a context window's fields that are written while the slot is Idle. DEDUCED: log 27. -/
def Ctx.writeIdle (c : Ctx) (r : Nat) (v : Word) : Ctx :=
  let x := v.toNat
  if r = 0x00 then { c with root := putHalf c.root false v 262144 }
  else if r = 0x04 then { c with root := putHalf c.root true v 262144 }
  else if r = 0x08 then { c with vecbase := putHalf c.vecbase false v 128 }
  else if r = 0x0C then { c with vecbase := putHalf c.vecbase true v 128 }
  else if r = 0x10 then { c with fqbase := putHalf c.fqbase false v 32 }
  else if r = 0x14 then { c with fqbase := putHalf c.fqbase true v 32 }
  else if r = 0x18 then { c with fqsize := bitsOf x 3 0 }
  else if r = 0x28 then { c with cbase := putHalf c.cbase false v 128 }
  else if r = 0x2C then { c with cbase := putHalf c.cbase true v 128 }
  else if r = 0x30 then { c with csize := putHalf c.csize false v 128 }
  else if r = 0x34 then { c with csize := putHalf c.csize true v 128 }
  else if r = 0x38 then { c with tbase := putHalf c.tbase false v 16 }
  else if r = 0x3C then { c with tbase := putHalf c.tbase true v 16 }
  else if r = 0x40 then { c with frbase := putHalf c.frbase false v 131072 }
  else if r = 0x44 then { c with frbase := putHalf c.frbase true v 131072 }
  else if r = 0x48 then { c with frcount := bitsOf x 23 0 }
  else if r = 0x4C then { c with stksize := bitsOf x 8 0 }
  else if r = 0x50 then { c with stkbase := putHalf c.stkbase false v 65536 }
  else if r = 0x54 then { c with stkbase := putHalf c.stkbase true v 65536 }
  else if r = 0x58 then { c with stepbase := putHalf c.stepbase false v 65536 }
  else if r = 0x5C then { c with stepbase := putHalf c.stepbase true v 65536 }
  else c

/-- STEPSIZE with a word written: any value while Idle, a higher one in any state (R276). -/
def Ctx.writeStep (c : Ctx) (high : Bool) (v : Word) : Ctx :=
  let n := putHalf c.stepsize high v 65536
  if c.st == .idle || decide (c.stepsize.toNat ≤ n.toNat) then { c with stepsize := n } else c

/-- Write FQHEAD, and the records that wait for room (R275, R276). -/
def State.writeFqhead (s : State) (fn slot : Nat) (v : BitVec 12) : State :=
  let s := s.modCtx fn slot fun c => { c with fqhead := v }
  State.postRecords (s.ctx fn slot).records.length s fn slot

/-- Write a word of a context window (R274, R276): FQHEAD in any state, STEPSIZE upwards in any state, the rest while it is Idle. A new
root may make mappings valid (R157). -/
def State.writeWindow (s : State) (fn slot r : Nat) (v : Word) : State :=
  let c := s.ctx fn slot
  if r = 0x20 then s.writeFqhead fn slot (v.setWidth 12)
  else if r = 0x60 || r = 0x64 then s.modCtx fn slot fun c => c.writeStep (r == 0x64) v
  else if c.st == .idle then
    let s := s.modCtx fn slot fun c => c.writeIdle r v
    if r = 0x00 || r = 0x04 then s.mapNew else s
  else s

/-- Event counter that EVSEL selects: slot and index (R274, R278). -/
def Fn.selected (f : Fn) : Nat × Nat := (bitsOf f.evsel.toNat 5 0, bitsOf f.evsel.toNat 17 6)

/-- Rewrite the selected counter; an Empty slot's is ignored (R278). -/
def State.modCounter (s : State) (fn : Nat) (g : Dword → Dword) : State :=
  let (slot, i) := (s.fn fn).selected
  if (s.ctx fn slot).st == .empty then s
  else s.modCtx fn slot fun c => { c with counters := aput i (g ((alook i c.counters).getD 0#64)) c.counters }

/-- A write of EVVAL word 1. -/
def State.writeEvval (s : State) (fn : Nat) (high : Word) : State := s.modCounter fn fun _ => Dword.pair (s.fn fn).evvalLo high
/-- A write of EVADD word 1. -/
def State.writeEvadd (s : State) (fn : Nat) (high : Word) : State := s.modCounter fn fun x => x + Dword.pair (s.fn fn).evaddLo high

/-- Write a register of a function outside its queues and windows. -/
def State.writeFn (s : State) (fn off : Nat) (v : Word) : State :=
  let f := s.fn fn
  if off = 0x2000 then s.setFn fn { f with cmdbase := putHalf f.cmdbase false v 64 }
  else if off = 0x2004 then s.setFn fn { f with cmdbase := putHalf f.cmdbase true v 64 }
  else if off = 0x2008 then s.setFn fn { f with cmdsize := bitsOf v.toNat 3 0 }
  else if off = 0x200C then s.setFn fn { f with cmddoor := v.setWidth 12 }
  else if off = 0x2020 then s.setFn fn { f with evsel := v &&& 0x3FFFF#32 }
  else if off = 0x2028 then s.setFn fn { f with evvalLo := v }
  else if off = 0x202C then s.writeEvval fn v
  else if off = 0x2030 then s.setFn fn { f with evaddLo := v }
  else if off = 0x2034 then s.writeEvadd fn v
  else s

/-! ### Register reads (R5, R6, R274) -/

/-- A word of a 64-bit register. -/
def half (x : Dword) (high : Bool) : Word := if high then x.hi else x.lo

/-- Read a word of a queue's registers; reserved bits read 0. -/
def Queue.read (k : Queue) (r : Nat) : Word :=
  if r = 0 || r = 4 then half k.base (r == 4)
  else if r = 8 then BitVec.ofNat 32 (k.size % 32 + 32 * (k.prio % 4) + (if k.loc then 128 else 0) + if k.en then 256 else 0)
  else if r = 0x0C then k.door.setWidth 32
  else if r = 0x10 || r = 0x14 then half k.stat (r == 0x14)
  else if r = 0x18 then k.head.setWidth 32
  else if r = 0x1C then BitVec.ofNat 32 (k.ctx % 64)
  else 0#32

/-- Number of a context state (R274). -/
def CtxState.code : CtxState → Nat | .empty => 0 | .idle => 1 | .active => 2 | .saved => 3

/-- The 64-bit registers of a context window, by offset of word 0. -/
def Ctx.wide (c : Ctx) : List (Nat × Dword) :=
  [(0x00, c.root), (0x08, c.vecbase), (0x10, c.fqbase), (0x28, c.cbase), (0x30, c.csize), (0x38, c.tbase), (0x40, c.frbase),
   (0x50, c.stkbase), (0x58, c.stepbase), (0x60, c.stepsize)]

/-- Read a word of a context window; FRESP, which is only written, and reserved bits read 0. -/
def Ctx.read (c : Ctx) (r : Nat) : Word :=
  match alook (r / 8 * 8) c.wide with
  | some x => half x (r % 8 == 4)
  | none =>
    if r = 0x18 then BitVec.ofNat 32 (c.fqsize % 16)
    else if r = 0x1C then c.fqtail.setWidth 32
    else if r = 0x20 then c.fqhead.setWidth 32
    else if r = 0x48 then BitVec.ofNat 32 (c.frcount % 2 ^ 24)
    else if r = 0x4C then BitVec.ofNat 32 (c.stksize % 512)
    else if r = 0x68 then (if c.st == .empty then 0#32 else c.id)
    else if r = 0x6C then BitVec.ofNat 32 c.st.code
    else 0#32

/-- The event counter that EVSEL selects; one of an Empty slot reads 0 (R278). -/
def State.counter (s : State) (fn : Nat) : Dword :=
  let (slot, i) := (s.fn fn).selected
  if (s.ctx fn slot).st == .empty then 0#64 else (alook i (s.ctx fn slot).counters).getD 0#64

/-- What the host reads at an offset of a function's BAR0 (R5, R6, R274). EVADD, which is only written, and offsets without a register
read 0. DESIGN CHOICE: log 18. -/
def State.readRegister (s : State) (fn off : Nat) : Word :=
  let f := s.fn fn
  if 65 ≤ fn || off % 4 != 0 then 0#32
  else if off < 0x2000 then ((alook (off / 32) f.queues).getD Queue.init).read (off % 32)
  else if 0x4000 ≤ off && off < 0x8000 then (s.ctx fn ((off - 0x4000) / 256)).read (off % 256)
  else if off = 0x2000 || off = 0x2004 then half f.cmdbase (off == 0x2004)
  else if off = 0x2008 then BitVec.ofNat 32 (f.cmdsize % 16)
  else if off = 0x200C then f.cmddoor.setWidth 32
  else if off = 0x2010 then f.cmdhead.setWidth 32
  else if off = 0x2020 then f.evsel
  else if off = 0x2028 then (s.counter fn).lo
  else if off = 0x202C then f.evvalHi
  else 0#32

/-- A read by the host: its value, and the device after it. A read of EVVAL word 0 takes the whole counter, and word 1 then gives the
high half of that value (R278); other reads leave the device as it is. -/
def State.hostRead (s : State) (fn off : Nat) : Word × State :=
  (s.readRegister fn off, if off = 0x2028 && fn < 65 then s.setFn fn { s.fn fn with evvalHi := (s.counter fn).hi } else s)

/-- REGISTER_WRITE (R274, R276): read-only and unknown offsets are ignored. The offset of FRESP has its own events. DEDUCED: log 27. -/
def execRegisterWrite (fn offset : Nat) (value : Word) (s : State) : Host.Outcome State Fault Refusal :=
  if 65 ≤ fn || offset % 4 != 0 then .next s
  else if offset < 0x2000 then
    let q := offset / 32
    let f := s.fn fn
    let k := (alook q f.queues).getD Queue.init
    let s := s.setFn fn { f with queues := aput q (k.write (offset % 32) value) f.queues }
    .next (if offset % 32 = 0x0C then s.due (.launchPacket fn q) else s)
  else if offset < 0x4000 then .next (s.writeFn fn offset value)
  else if offset < 0x8000 then .next (s.writeWindow fn ((offset - 0x4000) / 256) (offset % 256) value)
  else .next s

/-- EVVAL_WRITE (R278): the word 0 last written, with this word 1. -/
def execEvvalWrite (fn : Nat) (high : Word) (s : State) : Host.Outcome State Fault Refusal := .next (s.writeEvval fn high)

/-- EVADD_WRITE (R278): addition modulo 2^64. -/
def execEvaddWrite (fn : Nat) (high : Word) (s : State) : Host.Outcome State Fault Refusal := .next (s.writeEvadd fn high)

/-- FQHEAD_WRITE (R275, R276): in any state. -/
def execFqheadWrite (fn slot : Nat) (value : BitVec 12) (s : State) : Host.Outcome State Fault Refusal :=
  .next (s.writeFqhead fn slot value)

/-- SNAPSHOT_PIN (R265): every block on the package. -/
def execSnapshotPin (pkg : Nat) (s : State) : Host.Outcome State Fault Refusal :=
  .next (s.latchAll fun b => packageOf b.core == pkg && !b.ended && !b.saved)

/-! ### The command ring (R277) -/

/-- The next command of a function: its words. A function runs one command at a time. -/
def State.nextCmd (s : State) (fn : Nat) : Option (List Word) :=
  let f := s.fn fn
  let n := 2 ^ f.cmdsize
  if !within 4 12 f.cmdsize || f.running.isSome || f.cmdhead.toNat % n == f.cmddoor.toNat % n then none
  else some (leWords (s.host.bytes (f.cmdbase.toNat + 64 * (f.cmdhead.toNat % n)) 64))

/-- A command's OP. -/
def cmdOp (ws : List Word) : Nat := bitsOf (ws.getD 0 0#32).toNat 7 0
/-- A command's context slot. -/
def cmdSlot (ws : List Word) : Nat := bitsOf (ws.getD 0 0#32).toNat 13 8
/-- Are a command's reserved fields zero? -/
def cmdPlain (ws : List Word) : Bool := bitsOf (ws.getD 0 0#32).toNat 31 14 == 0 && ws.getD 15 0#32 == 0#32
/-- A 64-bit argument. -/
def cmdArg (ws : List Word) (i : Nat) : Nat := (ws.getD i 0#32).toNat + 2 ^ 32 * (ws.getD (i + 1) 0#32).toNat

/-- Status codes. -/
def ccDONE : Nat := 0x01
/-- BADOP. -/
def ccBADOP : Nat := 0x10
/-- BADSLOT. -/
def ccBADSLOT : Nat := 0x11
/-- BUSY. -/
def ccBUSY : Nat := 0x12
/-- BADARG. -/
def ccBADARG : Nat := 0x13
/-- FEATURE. -/
def ccFEATURE : Nat := 0x14

/-- Run the next command of a function when it is the one that the event names; `f` has its slot and words. -/
def State.command (s : State) (fn op : Nat) (f : Nat → List Word → State) : Host.Outcome State Fault Refusal :=
  match s.nextCmd fn with
  | none => .next s
  | some ws => .next (if cmdOp ws = op && cmdPlain ws then f (cmdSlot ws) ws else s)

/-- BADOP (R277). -/
def execBadop (fn : Nat) (s : State) : Host.Outcome State Fault Refusal :=
  match s.nextCmd fn with
  | none => .next s
  | some ws => .next (if within 1 8 (cmdOp ws) && cmdPlain ws then s else s.finishCmd fn ccBADOP)

/-- A fresh context (R276): its grant is the module envelope. DESIGN CHOICE: log 36. -/
def State.newCtx (s : State) (slot fn id : Nat) : State :=
  { s with ctxids := id :: s.ctxids, tick := s.tick + 1 }.modCtx fn slot fun _ =>
    { Ctx.init with st := .idle, id := BitVec.ofNat 32 id, watts := (s.pkg 0).envelope, feature := (s.pkg 0).feature }

/-- Before a further context is created, what the ones that exist map is taken note of (R157). -/
def State.noteAll (s : State) : State :=
  s.liveCtxs.foldl (fun s o => s.modCtx o.1 o.2 fun c => { c with pages := (s.framesOf c) }) s

/-- CTXCREATE (R276). DEDUCED: log 27. -/
def execCtxcreate (fn : Nat) (s : State) : Host.Outcome State Fault Refusal :=
  s.command fn 0x01 fun slot _ =>
    if (s.ctx fn slot).st != .empty then s.finishCmd fn ccBADSLOT
    else match unused (Config.idPick s.tick) (2 ^ 32 - 1) s.ctxids with
      | some id => (s.noteAll.newCtx slot fn id).finishCmd fn ccDONE
      | none => s.finishCmd fn ccBUSY

/-- Zero what a context has used and no other one has (R157). DEDUCED: log 27. -/
def State.zeroPages (s : State) (fn slot : Nat) : State :=
  let others := (s.liveCtxs.filter (· != (fn, slot))).flatMap fun o => s.framesOf (s.ctx o.1 o.2)
  (others.foldl (fun xs o => xs.flatMap (cutFrame o)) (s.framesOf (s.ctx fn slot))).foldl State.zeroFrame s

/-- CTXDESTROY (R157, R276): what the device holds for the context goes. -/
def execCtxdestroy (fn : Nat) (s : State) : Host.Outcome State Fault Refusal :=
  s.command fn 0x02 fun slot _ =>
    let c := s.ctx fn slot
    if c.st == .empty then s.finishCmd fn ccBADSLOT
    else if c.st != .idle then s.finishCmd fn ccBUSY
    else
      let s := s.zeroPages fn slot
      let s := { s with cores := s.cores.map fun (k : Nat × CoreSt) => (k.1, { k.2.dropCtx c.id with icache := k.2.icache.filter (·.ctx != c.id) }) }
      (s.modCtx fn slot fun _ => Ctx.init).finishCmd fn ccDONE

/-- INVAL (R233, R277). -/
def execInval (fn : Nat) (s : State) : Host.Outcome State Fault Refusal :=
  s.command fn 0x03 fun slot ws =>
    let a := cmdArg ws 1
    let n := cmdArg ws 3
    if (s.ctx fn slot).st == .empty then s.finishCmd fn ccBADSLOT
    else if n != 0 && decide (2 ^ 57 < a + n) then s.finishCmd fn ccBADARG
    else
      let hit := fun (e : TlbEntry) => n == 0 || overlap e.base e.size a n
      (s.modCtx fn slot fun c => { c with tlb := c.tlb.filter fun e => !hit e }).finishCmd fn ccDONE

/-- Place of a tag record for SEAL: its page need not have WR set (R415). -/
def State.recordPlace (s : State) (fn slot : Nat) (c : Ctx) (va : Nat) : Option (Leaf × Nat) :=
  s.place none fn slot (c.tbase.toNat + 16 * ((va - c.cbase.toNat) / 128))

/-- Write the record of a code line under the context's key (R283, R284). DEDUCED: log 12. -/
def State.sealLine (s : State) (fn slot : Nat) (c : Ctx) (va : Nat) : State :=
  match s.recordPlace fn slot c va, s.vread none fn slot va 128 with
  | some (leaf, a), some bytes =>
    let map := BitVec.ofNat 32 (leNat ((List.range 4).map fun i => s.memGet leaf.attr.hbm (a + 8 + i)))
    let r := leBytes 8 (lineTag (Config.codeKey c.id) c.id va bytes map).toNat ++ wordBytes map ++ leBytes 4 0
    s.hostPerform (if leaf.attr.hbm then .hbm else .scratch) a r
  | _, _ => s

/-- SEAL (R284, R415): a range outside the code region, or with a line or record that is not mapped, writes nothing. DEDUCED: log 27. -/
def execSeal (fn : Nat) (s : State) : Host.Outcome State Fault Refusal :=
  s.command fn 0x04 fun slot ws =>
    let c := s.ctx fn slot
    let a := cmdArg ws 1
    let n := (ws.getD 3 0#32).toNat
    let lines := (List.range n).map fun i => a + 128 * i
    if c.st == .empty then s.finishCmd fn ccBADSLOT
    else if a % 128 != 0 || decide (a < c.cbase.toNat) || decide (c.cbase.toNat + c.csize.toNat < a + 128 * n) ||
        !(lines.all fun v => (s.recordPlace fn slot c v).isSome && (s.place none fn slot v).isSome) then s.finishCmd fn ccBADARG
    else (lines.foldl (fun s v => s.sealLine fn slot c v) s).finishCmd fn ccDONE

/-- Cores with blocks of a context to save. -/
def State.coresWith (s : State) (id : Word) : List Nat :=
  (s.blocks.filter fun b => !b.saved && s.ctxidOf b.id == id).foldl (fun acc b => if acc.contains b.core then acc else acc ++ [b.core]) []

/-- PREEMPT (R234, R277): it waits while a core of the context halts for another one. DEDUCED: log 26. -/
def execPreempt (fn : Nat) (s : State) : Host.Outcome State Fault Refusal :=
  s.command fn 0x05 fun slot _ =>
    let c := s.ctx fn slot
    if c.st == .empty then s.finishCmd fn ccBADSLOT
    else if c.st != .active then s.finishCmd fn ccBUSY
    else match s.coresWith c.id with
      | [] => s.finishPreempt fn slot 0
      | cores =>
        if cores.any fun k => (s.core k).halting.isSome then s else
        let s := s.setFn fn { s.fn fn with running := some (s.fn fn).cmdhead.toNat }
        let s := s.modCtx fn slot fun x => { x with saving := cores }
        cores.foldl (fun s k => (s.modCore k fun y => { y with halting := some c.id.toNat }).due (.coreHalt k)) s

/-- May a context that ran with one feature word go on under another (R286)? -/
def featureOk (old new : Word) : Bool := (old &&& 0xF#32) == (new &&& 0xF#32) && (old &&& ~~~ new &&& 0xFFFFFFF0#32) == 0#32

/-- RESUME (R236, R277, R285, R286): it waits until every saved block can be placed. FEATVER rises where a block moves to another package. A
context without an open launch becomes Idle at once (R276). DEDUCED: log 26. -/
def execResume (fn : Nat) (s : State) : Host.Outcome State Fault Refusal :=
  s.command fn 0x06 fun slot ws =>
    let c := s.ctx fn slot
    let t := bitsOf (ws.getD 1 0#32).toNat 7 0
    let pkg := if t = 0xFF then c.pkg else t
    if c.st == .empty then s.finishCmd fn ccBADSLOT
    else if c.st != .saved then s.finishCmd fn ccBUSY
    else if s.packages ≤ pkg then s.finishCmd fn ccBADARG
    else if !featureOk c.feature (s.pkg pkg).feature then s.finishCmd fn ccFEATURE
    else match State.placeSaved pkg (s.savedSpans fn slot) s with
      | none => s.wakeCluster ((List.range 64).map fun i => 64 * pkg + i)
      | some t =>
        let away := (s.savedSpans fn slot).any fun bs => bs.any fun b => packageOf b.home != pkg
        let opens := s.launches.any fun l => l.fn == fn && l.ctx == slot && l.phase == .running
        let s := t.modCtx fn slot fun x =>
          { x with st := if opens then .active else .idle, pkg := pkg, feature := (t.pkg pkg).feature
                   featver := if away then x.featver + 1 else x.featver }
        let s := match s.queueOrder with | id :: _ => s.due (.blockRefill id) | [] => s
        s.finishCmd fn ccDONE

/-- The launch of a queue slot whose status record holds CODE 1 to 4 (R277). -/
def State.slotLaunch (s : State) (fn q slot : Nat) : Bool :=
  let k := (alook q (s.fn fn).queues).getD Queue.init
  decide (q < 256) && within 4 16 k.size && decide (slot < 2 ^ k.size) &&
    within 1 4 (leNat (s.queueBytes k.loc (k.stat.toNat + 8 * slot) 1))

/-- The energy counter of the launch read from a queue slot, where its status record names one (R272, R277). -/
def State.launchEnergy (s : State) (fn q slot : Nat) : Option Dword :=
  if s.slotLaunch fn q slot then
    some (((s.launches.find? fun l => l.fn == fn && l.queue == q && l.slot == slot && l.phase != .waiting).map (·.energy)).getD 0#64)
  else none

/-- LINFO (R272, R277): the count so far of a running launch, the final count of a complete one. -/
def execLinfo (fn : Nat) (s : State) : Host.Outcome State Fault Refusal :=
  s.command fn 0x07 fun slot ws =>
    if (s.ctx fn slot).st == .empty then s.finishCmd fn ccBADSLOT else
    match s.launchEnergy fn (ws.getD 1 0#32).toNat (ws.getD 2 0#32).toNat with
    | some x => s.finishCmd fn ccDONE [(3, x.lo), (4, x.hi)]
    | none => s.finishCmd fn ccBADARG

/-- CINFO (R272, R277). -/
def execCinfo (fn : Nat) (s : State) : Host.Outcome State Fault Refusal :=
  s.command fn 0x08 fun slot _ =>
    let c := s.ctx fn slot
    if c.st == .empty then s.finishCmd fn ccBADSLOT
    else s.finishCmd fn ccDONE [(3, c.energy.lo), (4, c.energy.hi), (5, c.id)]

end Sys2Proof.Machine
end

