-- ==== Sys2Proof/Machine/Management.lean ====
section
/-! DEFINITION. Operator management (R280), counters and spares (R257), in-field test (R263), power tokens and frequencies
(R268 to R271), links (R281), reset, firmware and attestation (R282, R285). -/

namespace Sys2Proof.Machine

open Sys2Proof

/-! ### Answers -/

/-- Answer a command: completion code (R280: 0 done, 1 unknown command, 2 bad argument, 3 refused) and words.
DESIGN CHOICE: log 20, where R280 does not say which code. -/
def State.answer (s : State) (pkg code : Nat) (words : List Nat := []) : State :=
  s.modPkg pkg fun p => { p with answers := p.answers ++ [{ code := code, words := words }] }

/-- The same answer to a number of commands. -/
def State.answers (s : State) (pkg code n : Nat) : State := (List.range n).foldl (fun s _ => s.answer pkg code) s

/-- An event of a package that exists. -/
def State.onPkg (s : State) (pkg : Nat) (f : State → State) : Host.Outcome State Fault Refusal :=
  .next (if pkg < s.packages then f s else s)

/-- A cluster of a package by die and cluster: 0 done, 1 unknown command, 2 bad argument, 3 refused are the completion codes. -/
def State.onCluster (s : State) (pkg die cluster : Nat) (f : Nat → State) : Host.Outcome State Fault Refusal :=
  s.onPkg pkg fun s => if 8 ≤ die || 8 ≤ cluster then s.answer pkg 2 else f (64 * pkg + 8 * die + cluster)

/-! ### Power (R268 to R271) -/

/-- GRANT (R268, R280). -/
def execGrant (fn slot watts minStep : Nat) (boost : Bool) (s : State) : Host.Outcome State Fault Refusal :=
  s.onPkg 0 fun s =>
    if 65 ≤ fn || 64 ≤ slot || 4096 ≤ watts || 256 ≤ minStep then s.answer 0 2
    else if (s.ctx fn slot).st == .empty then s.answer 0 3
    else (s.modCtx fn slot fun c => { c with watts := watts, minStep := minStep, boost := boost }).answer 0 0

/-- ENVELOPE (R269, R280). -/
def execEnvelope (pkg watts : Nat) (s : State) : Host.Outcome State Fault Refusal :=
  s.onPkg pkg fun s =>
    if !within 1600 2800 watts then s.answer pkg 2
    else (s.modPower pkg fun p => { p with envelope := watts }).answer pkg 0

/-- TOKINIT (R270): once after reset. A token that has arrived before stays counted (R269). -/
def execTokinit (pkg count : Nat) (s : State) : Host.Outcome State Fault Refusal :=
  s.onPkg pkg fun s =>
    if (s.pkg pkg).tokinit then s.answer pkg 3
    else (s.modPower pkg fun p => { p with tokens := p.tokens + count, tokinit := true }).answer pkg 0

/-- FLOOR (R270). -/
def execFloor (pkg : Nat) (s : State) : Host.Outcome State Fault Refusal :=
  s.onPkg pkg fun s => s.answer pkg 0 [Config.floorTokens pkg]

/-- TOKEN_SEND (R269, R270): the sender's count falls, and its frequency, before the token is on the link. A package of a collective
group, whose frequency stands until the group's timestamp (R271), sends none that its frequency does not allow. -/
def execTokenSend (pkg dest : Nat) (link : Fin 16) (s : State) : Host.Outcome State Fault Refusal :=
  s.onPkg pkg fun s =>
    let p := s.pkg pkg
    if !p.tokinit || p.tokens < Config.floorTokens pkg + 1 || p.zhobor.contains link || s.packages ≤ dest || dest == pkg ||
        (!p.group.isEmpty && !p.within { p with tokens := p.tokens - 1 } pkg) then s
    else
      let n := s.serial
      s.fresh.modPower pkg fun p => { p with tokens := p.tokens - 1, flight := p.flight ++ [(n, dest, link.val)] }

/-- TOKEN_ARRIVE (R269): a token sent to a package joins its count. -/
def execTokenArrive (pkg serial : Nat) (s : State) : Host.Outcome State Fault Refusal :=
  match s.pkgs.find? fun p => p.2.flight.any fun t => t.1 == serial && t.2.1 == pkg with
  | none => .next s
  | some (from_, _) =>
    .next ((s.modPkg from_ fun p => { p with flight := p.flight.filter (·.1 != serial) }).modPkg pkg fun p => { p with tokens := p.tokens + 1 })

/-- TOKEN_RETURN (R269): a token on a failed link returns to its sender. -/
def execTokenReturn (pkg serial : Nat) (s : State) : Host.Outcome State Fault Refusal :=
  let p := s.pkg pkg
  let lost := fun (t : Nat × Nat × Nat) => t.1 == serial && p.zhobor.any fun k => k.val == t.2.2
  if p.flight.any lost then
    .next (s.modPkg pkg fun p => { p with flight := p.flight.filter (·.1 != serial), tokens := p.tokens + 1 })
  else .next s

/-- FREQUENCY_TIMESTAMP (R271): the packages of a group take a new frequency together, within their caps; they are a group until
another timestamp names them. DESIGN CHOICE: log 19. -/
def execFrequencyTimestamp (group : List Nat) (step : Nat) (s : State) : Host.Outcome State Fault Refusal :=
  let ps := group.filter fun p => decide (p < s.packages)
  .next (ps.foldl (fun s p => s.modPkg p fun x =>
    { x with freq := x.freq.map fun _ => x.fit p (s.launchesOn p) step, group := if 1 < ps.length then ps else [] }) s)

/-! ### Counters, clusters, banks -/

/-- The words of a counter (R257). DESIGN CHOICE: log 34. -/
def Bucket.words (b : Bucket) : List Nat :=
  [b.fill.toNat + 2 ^ 16 * b.leak.toNat + 2 ^ 28 * (if b.inc == 0#4 then 1 else b.inc.toNat), b.mark.toNat]

/-- Counters of a package (R257): the banks of its 512 cores, 16 lane groups of eight lanes a core, 64 clusters. -/
def counterCount : BucketKind → Nat | .bank => 512 * Config.banks | .laneGroup => 8192 | .cluster => 64

/-- BUCKET (R257, R280): the counter is read, then the given fields are written. -/
def execBucket (pkg : Nat) (kind : BucketKind) (index : Nat) (set : BucketSet) (s : State) : Host.Outcome State Fault Refusal :=
  s.onPkg pkg fun s =>
    if counterCount kind ≤ index then s.answer pkg 2 else
    let b := (s.pkg pkg).bucket kind index
    let b' : Bucket := { b with leak := set.leak.getD b.leak, inc := set.inc.getD b.inc, mark := set.mark.getD b.mark }
    (s.modPkg pkg fun p => p.setBucket kind index b').answer pkg 0 b.words

/-- IDLECOUNT (R218, R280). -/
def execIdlecount (pkg count : Nat) (s : State) : Host.Outcome State Fault Refusal :=
  s.onPkg pkg fun s =>
    if !within 1 0xFFFFFFFF count then s.answer pkg 2
    else (s.modPkg pkg fun p => { p with idleCount := count }).answer pkg 0

/-- DEGRADE (R257, R280). -/
def execDegrade (pkg die cluster : Nat) (s : State) : Host.Outcome State Fault Refusal :=
  s.onCluster pkg die cluster fun k => (s.modCluster k fun c => { c with degraded := true }).answer pkg 0

/-- RESTORE (R263, R280): a DRAIN that has not completed is refused, as it cannot any more. DESIGN CHOICE: log 20. -/
def execRestore (pkg die cluster : Nat) (s : State) : Host.Outcome State Fault Refusal :=
  s.onCluster pkg die cluster fun k =>
    (((s.answers pkg 3 (s.cluster k).drains).modCluster k fun c =>
      { c with degraded := false, draining := false, drained := false, drains := 0, offline := false })).answer pkg 0

/-- SPARE (R257, R280): the spare takes the bank's contents, and the bank is retired; a retired bank is refused. -/
def execSpare (pkg die core bank : Nat) (s : State) : Host.Outcome State Fault Refusal :=
  s.onPkg pkg fun s =>
    if 8 ≤ die || 64 ≤ core || Config.banks ≤ bank then s.answer pkg 2
    else if (s.pkg pkg).spared.contains (die, core, bank) then s.answer pkg 3
    else (s.modPkg pkg fun p => { p with spared := p.spared ++ [(die, core, bank)] }).answer pkg 0

/-- DRAIN (R280): it is answered when it completes. DESIGN CHOICE: log 20. -/
def execDrain (pkg die cluster : Nat) (s : State) : Host.Outcome State Fault Refusal :=
  s.onCluster pkg die cluster fun k => (s.modCluster k fun c => { c with draining := true, drained := false, drains := c.drains + 1 }).due (.drainComplete k)

/-- DRAIN_COMPLETE (R280): the cluster holds no block, and every DRAIN of it is answered. DESIGN CHOICE: log 20. -/
def execDrainComplete (cluster : Nat) (s : State) : Host.Outcome State Fault Refusal :=
  let c := s.cluster cluster
  if c.draining && !c.drained && s.emptyCluster cluster then
    .next ((s.modCluster cluster fun c => { c with drained := true, drains := 0 }).answers (cluster / 64) 0 c.drains)
  else .next s

/-- TESTPKG (R263, R280): an image that fails a signature is discarded and logged; a cluster that is not drained refuses. DESIGN CHOICE: log 13, 34. -/
def execTestpkg (pkg die cluster : Nat) (image : List Byte) (s : State) : Host.Outcome State Fault Refusal :=
  s.onCluster pkg die cluster fun k =>
    if !Config.signed image then (s.logEvent pkg (.rejected pkg)).answer pkg 2
    else if !(s.cluster k).drained || !s.emptyCluster k then s.answer pkg 3
    else
      let t := s.tick
      ({ s with tick := t + 1 }.modCluster k fun c => { c with offline := true, tested := c.tested + 1 }).answer pkg 0 (Config.testResult t)

/-! ### Reads -/

/-- Words of a block's latched snapshot: block ID, step, then PC, `RETIRED` and BAR count of each warp (R265). DESIGN CHOICE: log 21, 34. -/
def Block.snapWords (b : Block) : List Nat :=
  [b.num, b.snap.step] ++ b.snap.warps.flatMap fun w => [w.1.toNat, w.2.1.toNat, w.2.2]

/-- The package that a block is on, or was saved from. -/
def Block.package (b : Block) : Nat := packageOf (if b.saved then b.home else b.core)

/-- SNAPREAD (R265, R280). DESIGN CHOICE: log 34. -/
def execSnapread (pkg : Nat) (target : SnapTarget) (s : State) : Host.Outcome State Fault Refusal :=
  s.onPkg pkg fun s =>
    match target with
    | .launch id => if (s.launch? id).isNone then s.answer pkg 2 else s.answer pkg 0 ((s.blocks.filter (·.launch == id)).flatMap Block.snapWords)
    | .package p =>
      if s.packages ≤ p then s.answer pkg 2
      else s.answer pkg 0 ((s.blocks.filter fun b => b.package == p).flatMap Block.snapWords)

/-- ENERGY (R272, R280). DESIGN CHOICE: log 20. -/
def execEnergy (pkg fn : Nat) (target : EnergyTarget) (s : State) : Host.Outcome State Fault Refusal :=
  s.onPkg pkg fun s =>
    let x : Option Dword := match target with
      | .context slot => if (s.ctx fn slot).st == .empty then none else some (s.ctx fn slot).energy
      | .launch q slot => s.launchEnergy fn q slot
    match x with
    | some e => s.answer pkg 0 [e.lo.toNat, e.hi.toNat]
    | none => s.answer pkg 2

/-- Numbers of the kinds of counters (R280). DESIGN CHOICE: log 34. -/
def kindCode : BucketKind → Nat | .bank => 0 | .laneGroup => 1 | .cluster => 2

/-- Words of a record of the event log. DESIGN CHOICE: log 34. -/
def LogEvent.words : LogEvent → List Nat
  | .predictive p k i => [1, p, kindCode k, i]
  | .watchdog c => [2, c, 0, 0]
  | .codeAuth b => [3, b, 0, 0]
  | .noProgress b => [4, b, 0, 0]
  | .hostWrite a => [5, a, 0, 0]
  | .rejected p => [6, p, 0, 0]
  | .poisoned a => [7, a, 0, 0]
  | .halted b w => [8, b, w, 0]

/-- EVENTS (R280): the records from a start index on. DESIGN CHOICE: log 34. -/
def execEvents (pkg start : Nat) (s : State) : Host.Outcome State Fault Refusal :=
  s.onPkg pkg fun s => s.answer pkg 0 (((s.pkg pkg).log.drop start).flatMap LogEvent.words)

/-- UNKNOWN_COMMAND (R280). -/
def execUnknownCommand (pkg _code : Nat) (s : State) : Host.Outcome State Fault Refusal :=
  s.onPkg pkg fun s => s.answer pkg 1

/-! ### Links, reset, firmware -/

/-- Package of an access of a block to scratchpad. -/
def Access.package (a : Access) : Option Nat := match a.place with | .scratch => some (a.addr / 2 ^ 29) | .shared _ => none

/-- Package behind the next bytes of a copy. -/
def State.copyPackage (s : State) (k : Copy) : List Nat :=
  let l := s.launch (s.block k.block).launch
  k.parts.filterMap fun p => match p.g with
    | none => none
    | some va => match s.translate (some k.core) l.fn l.ctx va with
      | .leaf x => some (packageOfPa x.attr.hbm (x.pa va))
      | _ => none

/-- Does a block have an access, a copy part, a buffered write or a step write addressed to a package that it cannot reach (R281)? An ended one
may have step writes still; a saved one is asked when it is restored. -/
def State.strands (s : State) (b : Block) (pkg : Nat) : Bool :=
  let here := packageOf b.core
  let gone := fun (p : Nat) => p != here && (p == pkg || here == pkg)
  !b.saved && (b.outPackages.any gone || b.warps.any (fun w => w.pend.any fun a => (match a.package with | some p => gone p | none => false)) ||
    s.copies.any fun k => k.block == b.id && (s.copyPackage k).any gone)

/-- Waiters on words of a package that is cut off go on spuriously (R194, R281). -/
def State.wakeRemote (s : State) (pkg : Nat) : State :=
  { s with blocks := s.blocks.map fun b =>
      let gone := fun (p : Place) (a : Nat) => p == .scratch && packageOfPa false a != b.package && (packageOfPa false a == pkg || b.package == pkg)
      { b with warps := b.warps.map (Warp.wake (fun k => k.words.any fun x => gone x.place x.addr) fun e => gone e.place e.addr) } }

/-- LINK_DOWN (R264, R273, R281). DEDUCED: log 27. -/
def execLinkDown (pkg : Nat) (link : LinkId) (s : State) : Host.Outcome State Fault Refusal :=
  s.onPkg pkg fun s =>
    match link with
    | .pcie n => s.modPkg pkg fun p => { p with pcie := if p.pcie.contains n then p.pcie else p.pcie ++ [n] }
    | .zhobor n =>
      let s := s.modPkg pkg fun p => { p with zhobor := if p.zhobor.contains n then p.zhobor else p.zhobor ++ [n] }
      if !s.cutOff pkg then s else
      let hit := (s.blocks.filter fun b => s.strands b pkg).map (·.id)
      let s := hit.foldl (fun s b => if (s.block? b).isSome then s.consume b else s) s
      s.wakeRemote pkg

/-- DEVICE_RESET (R270): every piece of state takes its value at reset. What is not the device's, and what it keeps without
power, stays: host memory, the applied firmware, the measured curves. DESIGN CHOICE: log 20. -/
def execDeviceReset (s : State) : Host.Outcome State Fault Refusal :=
  .next { State.reset with
    tick := s.tick, serial := s.serial, packages := s.packages, host := s.host
    pkgs := s.pkgs.map fun p => (p.1, { Package.init with firmware := p.2.firmware, feature := p.2.feature })
    clusters := s.clusters.map fun c => (c.1, { Cluster.init with tested := c.2.tested }) }

/-- FWLOAD (R282): an image that fails a signature is discarded and logged. DESIGN CHOICE: log 13. -/
def execFwload (pkg : Nat) (image : List Byte) (s : State) : Host.Outcome State Fault Refusal :=
  s.onPkg pkg fun s =>
    if Config.signed image then (s.modPkg pkg fun p => { p with image := some image }).answer pkg 0
    else (s.logEvent pkg (.rejected pkg)).answer pkg 2

/-- Is no context resident on a package (R282, R286)? -/
def State.noneResident (s : State) (pkg : Nat) : Bool :=
  !(s.blocks.any fun b => !b.saved && packageOf b.core == pkg) && !(s.fns.any fun f => f.2.ctxs.any fun c => c.2.st == .active)

/-- FIRMWARE_APPLY (R282, R285): FEATVER of every context rises; the feature word is the same under every firmware. A saved warp will
read the new pair, and finds MIGRATED set (R286). DEDUCED: log 27. -/
def execFirmwareApply (pkg : Nat) (s : State) : Host.Outcome State Fault Refusal :=
  s.onPkg pkg fun s =>
    if (s.pkg pkg).image.isNone || !s.noneResident pkg then s else
    let s := s.modPkg pkg fun p => { p with firmware := p.firmware + 1, image := none }
    let warn := fun (w : Warp) => { w with wstat := w.wstat ||| 0x800#32 }
    { s with blocks := s.blocks.map (fun b => if b.saved then { b with warps := b.warps.map warn } else b), fns := s.fns.map fun f => (f.1, { f.2 with ctxs := f.2.ctxs.map fun c =>
        (c.1, if c.2.st == .empty then c.2 else { c.2 with featver := c.2.featver + 1 }) }) }

/-- SPDM_MEASUREMENT (R282): the signed answer and its companion message carry one measurement. DESIGN CHOICE: log 13. -/
def execSpdmMeasurement (pkg : Nat) (request : BitVec 64) (s : State) : Host.Outcome State Fault Refusal :=
  s.onPkg pkg fun s =>
    s.modPkg pkg fun p => { p with spdm := p.spdm ++ [(request, Config.measurement p.firmware request.toNat)] }

end Sys2Proof.Machine
end

