-- ==== Sys2Proof/Machine/Dispatch.lean ====
section
/-! DEFINITION. One arm for each row of the opcode table: a direct call of its meaning. -/

namespace Sys2Proof.Machine

open Sys2Proof

def exec (i : Instr) (s : State) : Host.Outcome State Fault Refusal :=
  match i with
  | .abort imm => Sys2Proof.Machine.execAbort imm s
  | .acopy dir counted d a c g => Sys2Proof.Machine.execAcopy dir counted d a c g s
  | .actv f t ftz => Sys2Proof.Machine.execActv f t ftz s
  | .and f => Sys2Proof.Machine.execAnd f s
  | .andLong f => Sys2Proof.Machine.execAndLong f s
  | .atom op space ty ord d a b c g => Sys2Proof.Machine.execAtom op space ty ord d a b c g s
  | .bar span => Sys2Proof.Machine.execBar span s
  | .bfi f => Sys2Proof.Machine.execBfi f s
  | .bfx f ty => Sys2Proof.Machine.execBfx f ty s
  | .binit a b pa g => Sys2Proof.Machine.execBinit a b pa g s
  | .bkpt imm => Sys2Proof.Machine.execBkpt imm s
  | .bra u f => Sys2Proof.Machine.execBra u f s
  | .brev f => Sys2Proof.Machine.execBrev f s
  | .brevLong f => Sys2Proof.Machine.execBrevLong f s
  | .brx a g => Sys2Proof.Machine.execBrx a g s
  | .call f => Sys2Proof.Machine.execCall f s
  | .chload k f => Sys2Proof.Machine.execChload k f s
  | .chrun f k => Sys2Proof.Machine.execChrun f k s
  | .ckick a b pa g => Sys2Proof.Machine.execCkick a b pa g s
  | .clz f => Sys2Proof.Machine.execClz f s
  | .clzLong f => Sys2Proof.Machine.execClzLong f s
  | .commit => Sys2Proof.Machine.execCommit s
  | .cos f => Sys2Proof.Machine.execCos f s
  | .cosLong f ftz => Sys2Proof.Machine.execCosLong f ftz s
  | .cvt f rnd dt st => Sys2Proof.Machine.execCvt f rnd dt st s
  | .cwait f => Sys2Proof.Machine.execCwait f s
  | .dadd f m => Sys2Proof.Machine.execDadd f m s
  | .declw slot a b g => Sys2Proof.Machine.execDeclw slot a b g s
  | .dfma f m => Sys2Proof.Machine.execDfma f m s
  | .exit g => Sys2Proof.Machine.execExit g s
  | .exp2 f => Sys2Proof.Machine.execExp2 f s
  | .exp2Long f ftz => Sys2Proof.Machine.execExp2Long f ftz s
  | .fadd f => Sys2Proof.Machine.execFadd f s
  | .faddLong f m => Sys2Proof.Machine.execFaddLong f m s
  | .fclass f ty => Sys2Proof.Machine.execFclass f ty s
  | .fcmp f ty cmp => Sys2Proof.Machine.execFcmp f ty cmp s
  | .fence kind scope => Sys2Proof.Machine.execFence kind scope s
  | .ffma f m => Sys2Proof.Machine.execFfma f m s
  | .fmax f => Sys2Proof.Machine.execFmax f s
  | .fmaxLong f ftz => Sys2Proof.Machine.execFmaxLong f ftz s
  | .fmin f => Sys2Proof.Machine.execFmin f s
  | .fminLong f ftz => Sys2Proof.Machine.execFminLong f ftz s
  | .fmul f => Sys2Proof.Machine.execFmul f s
  | .fmulLong f m => Sys2Proof.Machine.execFmulLong f m s
  | .frnd f ty m exact => Sys2Proof.Machine.execFrnd f ty m exact s
  | .fsub f => Sys2Proof.Machine.execFsub f s
  | .fsubLong f m => Sys2Proof.Machine.execFsubLong f m s
  | .getsr d sr g => Sys2Proof.Machine.execGetsr d sr g s
  | .glaze op pair a b g => Sys2Proof.Machine.execGlaze op pair a b g s
  | .halfmad f ty m => Sys2Proof.Machine.execHalfmad f ty m s
  | .iabs f => Sys2Proof.Machine.execIabs f s
  | .iabsLong f ty => Sys2Proof.Machine.execIabsLong f ty s
  | .iadd f => Sys2Proof.Machine.execIadd f s
  | .iaddLong f ty => Sys2Proof.Machine.execIaddLong f ty s
  | .iaddc d a b pa k g => Sys2Proof.Machine.execIaddc d a b pa k g s
  | .icmp f ty cmp => Sys2Proof.Machine.execIcmp f ty cmp s
  | .ifence => Sys2Proof.Machine.execIfence s
  | .imad f ty => Sys2Proof.Machine.execImad f ty s
  | .imadw f cout => Sys2Proof.Machine.execImadw f cout s
  | .imax f => Sys2Proof.Machine.execImax f s
  | .imaxLong f ty => Sys2Proof.Machine.execImaxLong f ty s
  | .imin f => Sys2Proof.Machine.execImin f s
  | .iminLong f ty => Sys2Proof.Machine.execIminLong f ty s
  | .imul f => Sys2Proof.Machine.execImul f s
  | .imulLong f ty => Sys2Proof.Machine.execImulLong f ty s
  | .imulhi f => Sys2Proof.Machine.execImulhi f s
  | .imulhiLong f ty => Sys2Proof.Machine.execImulhiLong f ty s
  | .isub f => Sys2Proof.Machine.execIsub f s
  | .isubLong f ty => Sys2Proof.Machine.execIsubLong f ty s
  | .isubb d a b pa k g => Sys2Proof.Machine.execIsubb d a b pa k g s
  | .kstep => Sys2Proof.Machine.execKstep s
  | .ld f => Sys2Proof.Machine.execLd f s
  | .ldLong space ty acq f off => Sys2Proof.Machine.execLdLong space ty acq f off s
  | .ldact t f => Sys2Proof.Machine.execLdact t f s
  | .lea f ty => Sys2Proof.Machine.execLea f ty s
  | .log2 f => Sys2Proof.Machine.execLog2 f s
  | .log2Long f ftz => Sys2Proof.Machine.execLog2Long f ftz s
  | .logic3 f fn => Sys2Proof.Machine.execLogic3 f fn s
  | .loop n words count => Sys2Proof.Machine.execLoop n words count s
  | .ltag d a g => Sys2Proof.Machine.execLtag d a g s
  | .matchLanes f ty whole => Sys2Proof.Machine.execMatchLanes f ty whole s
  | .mclr t => Sys2Proof.Machine.execMclr t s
  | .meet f => Sys2Proof.Machine.execMeet f s
  | .mma f => Sys2Proof.Machine.execMma f s
  | .mov f => Sys2Proof.Machine.execMov f s
  | .movLong f ty => Sys2Proof.Machine.execMovLong f ty s
  | .movi d imm => Sys2Proof.Machine.execMovi d imm s
  | .mrd f t => Sys2Proof.Machine.execMrd f t s
  | .mwm d t => Sys2Proof.Machine.execMwm d t s
  | .nop => Sys2Proof.Machine.execNop s
  | .or f => Sys2Proof.Machine.execOr f s
  | .orLong f => Sys2Proof.Machine.execOrLong f s
  | .plop d a b lut g => Sys2Proof.Machine.execPlop d a b lut g s
  | .pmov mode f => Sys2Proof.Machine.execPmov mode f s
  | .popc f => Sys2Proof.Machine.execPopc f s
  | .popcLong f => Sys2Proof.Machine.execPopcLong f s
  | .qfeat d g => Sys2Proof.Machine.execQfeat d g s
  | .qswz f ty => Sys2Proof.Machine.execQswz f ty s
  | .rcp f => Sys2Proof.Machine.execRcp f s
  | .rcpLong f ftz => Sys2Proof.Machine.execRcpLong f ftz s
  | .red op space ty rel f => Sys2Proof.Machine.execRed op space ty rel f s
  | .redux f m => Sys2Proof.Machine.execRedux f m s
  | .ret a g => Sys2Proof.Machine.execRet a g s
  | .rng d a g => Sys2Proof.Machine.execRng d a g s
  | .rsq f => Sys2Proof.Machine.execRsq f s
  | .rsqLong f ftz => Sys2Proof.Machine.execRsqLong f ftz s
  | .rte => Sys2Proof.Machine.execRte s
  | .sar f => Sys2Proof.Machine.execSar f s
  | .sarLong f ty => Sys2Proof.Machine.execSarLong f ty s
  | .scan f m excl => Sys2Proof.Machine.execScan f m excl s
  | .sel f ty => Sys2Proof.Machine.execSel f ty s
  | .setsr sr f => Sys2Proof.Machine.execSetsr sr f s
  | .setxi imm => Sys2Proof.Machine.execSetxi imm s
  | .setxiS sreg imm => Sys2Proof.Machine.execSetxiS sreg imm s
  | .shfl f ty isXor => Sys2Proof.Machine.execShfl f ty isXor s
  | .shl f => Sys2Proof.Machine.execShl f s
  | .shlLong f ty => Sys2Proof.Machine.execShlLong f ty s
  | .shr f => Sys2Proof.Machine.execShr f s
  | .shrLong f ty => Sys2Proof.Machine.execShrLong f ty s
  | .sin f => Sys2Proof.Machine.execSin f s
  | .sinLong f ftz => Sys2Proof.Machine.execSinLong f ftz s
  | .snap => Sys2Proof.Machine.execSnap s
  | .sqrt f => Sys2Proof.Machine.execSqrt f s
  | .sqrtLong f ftz => Sys2Proof.Machine.execSqrtLong f ftz s
  | .st f => Sys2Proof.Machine.execSt f s
  | .stLong space ty rel f off => Sys2Proof.Machine.execStLong space ty rel f off s
  | .tanh f => Sys2Proof.Machine.execTanh f s
  | .tanhLong f ftz => Sys2Proof.Machine.execTanhLong f ftz s
  | .tcopy m f => Sys2Proof.Machine.execTcopy m f s
  | .trap imm => Sys2Proof.Machine.execTrap imm s
  | .tryTx lane off => Sys2Proof.Machine.execTryTx lane off s
  | .vote mode d a g => Sys2Proof.Machine.execVote mode d a g s
  | .wadd t signed f => Sys2Proof.Machine.execWadd t signed f s
  | .waitaddr space wide acq f => Sys2Proof.Machine.execWaitaddr space wide acq f s
  | .wake space f => Sys2Proof.Machine.execWake space f s
  | .wcfg t log2count g => Sys2Proof.Machine.execWcfg t log2count g s
  | .wcut t f => Sys2Proof.Machine.execWcut t f s
  | .wfind t f => Sys2Proof.Machine.execWfind t f s
  | .wget t f => Sys2Proof.Machine.execWget t f s
  | .wload t f => Sys2Proof.Machine.execWload t f s
  | .wpre t f => Sys2Proof.Machine.execWpre t f s
  | .wsave t f => Sys2Proof.Machine.execWsave t f s
  | .wset t scale f => Sys2Proof.Machine.execWset t scale f s
  | .wsum t d g => Sys2Proof.Machine.execWsum t d g s
  | .xor f => Sys2Proof.Machine.execXor f s
  | .xorLong f => Sys2Proof.Machine.execXorLong f s
  | .yieldTurn => Sys2Proof.Machine.execYieldTurn s
  | .issueSelect core q => Sys2Proof.Machine.execIssueSelect core q s
  | .ageingLimit core q => Sys2Proof.Machine.execAgeingLimit core q s
  | .entryReady core eid => Sys2Proof.Machine.execEntryReady core eid s
  | .registerFill block warp cls r piece => Sys2Proof.Machine.execRegisterFill block warp cls r piece s
  | .trapEntry block warp => Sys2Proof.Machine.execTrapEntry block warp s
  | .commitPoint block warp => Sys2Proof.Machine.execCommitPoint block warp s
  | .atomicEngineGrant cluster => Sys2Proof.Machine.execAtomicEngineGrant cluster s
  | .translationWalk block warp tag => Sys2Proof.Machine.execTranslationWalk block warp tag s
  | .copyPart copy part => Sys2Proof.Machine.execCopyPart copy part s
  | .requestEngineIssue core => Sys2Proof.Machine.execRequestEngineIssue core s
  | .reservationGrant cluster => Sys2Proof.Machine.execReservationGrant cluster s
  | .matrixChunk core op => Sys2Proof.Machine.execMatrixChunk core op s
  | .rowFinal core op => Sys2Proof.Machine.execRowFinal core op s
  | .tableFlip core ctx t => Sys2Proof.Machine.execTableFlip core ctx t s
  | .chainSlotFlip core ctx k => Sys2Proof.Machine.execChainSlotFlip core ctx k s
  | .sumTreeUnitComplete core => Sys2Proof.Machine.execSumTreeUnitComplete core s
  | .watchdog core => Sys2Proof.Machine.execWatchdog core s
  | .waitaddrContinue block warp path => Sys2Proof.Machine.execWaitaddrContinue block warp path s
  | .spuriousWakeup block warp path => Sys2Proof.Machine.execSpuriousWakeup block warp path s
  | .uncorrectableError block entry => Sys2Proof.Machine.execUncorrectableError block entry s
  | .correctedError pkg kind index => Sys2Proof.Machine.execCorrectedError pkg kind index s
  | .bucketLeak pkg kind index => Sys2Proof.Machine.execBucketLeak pkg kind index s
  | .launchPacket fn q => Sys2Proof.Machine.execLaunchPacket fn q s
  | .launchAccept fn q => Sys2Proof.Machine.execLaunchAccept fn q s
  | .blockDispatch launch => Sys2Proof.Machine.execBlockDispatch launch s
  | .blockRefill launch => Sys2Proof.Machine.execBlockRefill launch s
  | .blockEnd block => Sys2Proof.Machine.execBlockEnd block s
  | .launchComplete launch => Sys2Proof.Machine.execLaunchComplete launch s
  | .idleTimer cluster => Sys2Proof.Machine.execIdleTimer cluster s
  | .clusterWakeComplete cluster => Sys2Proof.Machine.execClusterWakeComplete cluster s
  | .stepEnd launch => Sys2Proof.Machine.execStepEnd launch s
  | .coreHalt core => Sys2Proof.Machine.execCoreHalt core s
  | .contextSaveComplete core ctx => Sys2Proof.Machine.execContextSaveComplete core ctx s
  | .icacheFill block line => Sys2Proof.Machine.execIcacheFill block line s
  | .hostWrite kind addr bytes => Sys2Proof.Machine.execHostWrite kind addr bytes s
  | .snapshotPin pkg => Sys2Proof.Machine.execSnapshotPin pkg s
  | .tokenArrive pkg serial => Sys2Proof.Machine.execTokenArrive pkg serial s
  | .tokenReturn pkg serial => Sys2Proof.Machine.execTokenReturn pkg serial s
  | .frequencyTimestamp group step => Sys2Proof.Machine.execFrequencyTimestamp group step s
  | .linkDown pkg link => Sys2Proof.Machine.execLinkDown pkg link s
  | .deviceReset => Sys2Proof.Machine.execDeviceReset s
  | .firmwareApply pkg => Sys2Proof.Machine.execFirmwareApply pkg s
  | .spdmMeasurement pkg request => Sys2Proof.Machine.execSpdmMeasurement pkg request s
  | .evvalWrite fn high => Sys2Proof.Machine.execEvvalWrite fn high s
  | .evaddWrite fn high => Sys2Proof.Machine.execEvaddWrite fn high s
  | .frespRetry fn slot tag => Sys2Proof.Machine.execFrespRetry fn slot tag s
  | .frespDecline fn slot tag => Sys2Proof.Machine.execFrespDecline fn slot tag s
  | .registerWrite fn offset value => Sys2Proof.Machine.execRegisterWrite fn offset value s
  | .ctxcreate fn => Sys2Proof.Machine.execCtxcreate fn s
  | .ctxdestroy fn => Sys2Proof.Machine.execCtxdestroy fn s
  | .inval fn => Sys2Proof.Machine.execInval fn s
  | .seal fn => Sys2Proof.Machine.execSeal fn s
  | .preempt fn => Sys2Proof.Machine.execPreempt fn s
  | .resume fn => Sys2Proof.Machine.execResume fn s
  | .linfo fn => Sys2Proof.Machine.execLinfo fn s
  | .cinfo fn => Sys2Proof.Machine.execCinfo fn s
  | .grant fn slot watts minStep boost => Sys2Proof.Machine.execGrant fn slot watts minStep boost s
  | .envelope pkg watts => Sys2Proof.Machine.execEnvelope pkg watts s
  | .bucket pkg kind index set => Sys2Proof.Machine.execBucket pkg kind index set s
  | .idlecount pkg count => Sys2Proof.Machine.execIdlecount pkg count s
  | .degrade pkg die cluster => Sys2Proof.Machine.execDegrade pkg die cluster s
  | .restore pkg die cluster => Sys2Proof.Machine.execRestore pkg die cluster s
  | .spare pkg die core bank => Sys2Proof.Machine.execSpare pkg die core bank s
  | .drain pkg die cluster => Sys2Proof.Machine.execDrain pkg die cluster s
  | .drainComplete cluster => Sys2Proof.Machine.execDrainComplete cluster s
  | .testpkg pkg die cluster image => Sys2Proof.Machine.execTestpkg pkg die cluster image s
  | .snapread pkg target => Sys2Proof.Machine.execSnapread pkg target s
  | .energy pkg fn target => Sys2Proof.Machine.execEnergy pkg fn target s
  | .tokinit pkg count => Sys2Proof.Machine.execTokinit pkg count s
  | .floor pkg => Sys2Proof.Machine.execFloor pkg s
  | .fwload pkg image => Sys2Proof.Machine.execFwload pkg image s
  | .events pkg start => Sys2Proof.Machine.execEvents pkg start s
  | .tokenSend pkg dest link => Sys2Proof.Machine.execTokenSend pkg dest link s
  | .clusterGated cluster => Sys2Proof.Machine.execClusterGated cluster s
  | .accessPerformed block warp serial => Sys2Proof.Machine.execAccessPerformed block warp serial s
  | .fqheadWrite fn slot value => Sys2Proof.Machine.execFqheadWrite fn slot value s
  | .badop fn => Sys2Proof.Machine.execBadop fn s
  | .unknownCommand pkg code => Sys2Proof.Machine.execUnknownCommand pkg code s

end Sys2Proof.Machine
end

