-- ==== Sys2Proof/Machine/Fetch.lean ====
section
/-! DEFINITION. The second of a packed pair (R18), which events a step may choose, and the placing of one instruction where the next step
fetches it. -/

namespace Sys2Proof.Machine

open Sys2Proof

/-- The other path of a packed pair issues after the first, in the same cycle (R18), unless the first has changed that. -/
def State.promoted (s : State) : State :=
  match s.issuing, s.packed with
  | none, some i =>
    let goes : Bool := match s.cxOf i.block i.warp i.path with
      | some c => c.pt.hold.isNone && c.pt.park.isNone && !c.wp.parkedOn c.pt && c.wp.delivery.isNone && !(c.wp.tx.any fun t => t.conflict)
      | none => false
    { s with packed := none, issuing := if goes then some i else none }
  | _, _ => s

/-! ### Events -/

/-- Is a row of the table an event, and not an instruction of a program? -/
def isEvent (i : Instr) : Bool := (encode i).isEmpty

/-- The event that a step without an issuing path takes: one that is due, or any other; which one is a free value (DESIGN CHOICE, log 2). -/
def State.nextEvent (s : State) : Option Instr × State :=
  let t := { s with tick := s.tick + 1 }
  match s.agenda with
  | e :: rest =>
    if Config.dueFirst s.tick then (if isEvent e then some e else none, { t with agenda := rest })
    else (if isEvent (Config.schedule s.tick) then some (Config.schedule s.tick) else none, t)
  | [] => (if isEvent (Config.schedule s.tick) then some (Config.schedule s.tick) else none, t)

/-! ### Placing an instruction -/

/-- Words of a launch packet for one block of one 32-wide warp in interlocked mode, with the largest grant and one granule of
shared memory. -/
def oneWarpPacket : List Word :=
  [0#32, 0#32, 1#32, 0x00010001#32, 0x00010020#32, 0x00111001#32, 0x00000781#32, 0#32, 0x00000001#32, 0#32, 0x00000010#32, 0x01010000#32] ++
    List.replicate 20 0#32

/-- A running launch of that packet. DESIGN CHOICE: log 1. -/
def oneWarpLaunch (s : State) : Launch :=
  { id := s.serial, fn := 0, queue := 0, slot := 0, ctx := 0, ctxid := (s.ctx 0 0).id, prio := 0, words := oneWarpPacket, phase := .running,
    accepted := s.serial, next := 1, refill := false, ended := 0, lost := 0, spanLost := false, step := 0, held := [],
    watts := (s.ctx 0 0).watts, statAddr := 0, statLoc := true, energy := 0, base := [] }

/-- A clause header for one instruction of any class: N 1, ENG 0, no flags. -/
def oneHeader : Word := 0x10001FE0#32

/-- A block of one warp, inside a clause whose header stands at code address 0. DESIGN CHOICE: log 1. -/
def oneWarpBlock (s : State) (l : Launch) : Block :=
  let w := l.newWarp 0 (0, none) 0 ((s.core 0).quad 0).clock (s.serial + 2)
  { id := s.serial + 1, launch := l.id, num := 0, core := 0, slot := 0, home := 0, shared := [],
    warps := [{ w with paths := w.paths.map fun p => { p with pc := 4#32, clause := some { at_ := 0#32, header := oneHeader, done := 0 } } }],
    trees := [], tiles := [], marks := [], stamps := 0, glaze := [], declw := [], ck := none, undoLog := [], rollbacks := 0,
    eligible := true, release := [], snap := { warps := [(0#32, 0#64, 0)], step := 0 }, cur := 0, passed := 0, turnOver := false, arrived := false, view := [], written := [],
    atoms := [], stepCopies := [], lines := [], mma := false, saved := false, ended := false }

/-- A state with an issuing path: the state's own, or a block of one warp placed on core 0. DESIGN CHOICE: log 1. -/
def State.withPath (s : State) : State :=
  if s.cx.isSome then s else
  let l := oneWarpLaunch s
  { s with serial := s.serial + 3, launches := s.launches ++ [l], blocks := s.blocks ++ [oneWarpBlock s l],
           issuing := some { block := s.serial + 1, warp := 0, path := s.serial + 2 } }

/-- Put a word into the code line of an address of a block in a core's I-cache, no header (R94). -/
def CoreSt.putCode (c : CoreSt) (l : Launch) (b : Nat) (x w : Word) : CoreSt :=
  let va := l.codeVa x
  let line := va / 128 * 128
  let old := (c.icache.find? fun k => k.is l b line).getD
    { ctx := l.ctxid, owner := if l.det then some b else none, va := line, words := List.replicate 32 0#32, map := 0#32 }
  { c with icache := { old with words := old.words.set (va % 128 / 4) w, map := old.map &&& ~~~ (1#32 <<< (va % 128 / 4)) } ::
      c.icache.filter fun k => !k.is l b line }

/-- Put two words at the PC of the issuing path. DESIGN CHOICE: log 1. -/
def State.putWords (s : State) (w0 w1 : Word) : State :=
  match s.cx with
  | none => s
  | some c => s.modCore c.core fun k => (k.putCode c.l c.b c.pt.pc w0).putCode c.l c.b (c.pt.pc + 4#32) w1

end Sys2Proof.Machine
end

