-- ==== Sys2Proof/Machine/Step.lean ====
section
/-! DEFINITION. One step of the device: the instruction of the path that ISSUE_SELECT has chosen, or one event. -/

namespace Sys2Proof.Machine

open Sys2Proof

/-- One step: one row of the opcode table. Both paths of a packed pair issue before an event comes (R18). -/
def step (s : State) : Host.Outcome State Fault Refusal :=
  let s := s.promoted
  match s.issuing with
  | some _ =>
    match s.fetched with
    | .run i => exec i s
    | .other t => .next t
  | none =>
    match s.nextEvent with
    | (some e, t) => exec e t
    | (none, t) => .next t

/-- The state with an instruction's words where the next step fetches them: at the PC of the issuing path, which is placed on
core 0 when there is none. DESIGN CHOICE: log 1. -/
def State.withFetchWord (s : State) (nbits w : Nat) : State :=
  let x := w % 2 ^ nbits
  s.withPath.putWords (BitVec.ofNat 32 x) (BitVec.ofNat 32 (x / 2 ^ 32))

end Sys2Proof.Machine
end

