-- ==== Sys2Proof/Safety.lean ====
section
/-! DEFINITION. What a sound state and a safe run are: memories in their canonical form, identities in use
below the serial number, no fault and no refusal. -/

namespace Sys2Proof

open Sys2Proof.Machine

/-- A block's shared memory is in canonical form, and the stacks of its warps, and of its checkpoint's warps, list each byte once. -/
def BlockMem (b : Block) : Prop :=
  b.shared.wf = true ∧ (∀ w ∈ b.warps, (w.stack.map (·.1)).Nodup) ∧ ∀ k, b.ck = some k → ∀ w ∈ k.warps, (w.stack.map (·.1)).Nodup

/-- Every memory of the machine is in canonical form. -/
def MemInv (s : State) : Prop :=
  s.scratch.wf = true ∧ s.hbm.wf = true ∧ s.host.wf = true ∧ ∀ b ∈ s.blocks, BlockMem b

/-- Identities of a warp: its paths, stopped ones too, and the entries that it names. -/
def warpIds (w : Warp) : List Nat :=
  w.paths.map (·.id) ++ (match w.handler with | some h => h.others.map (·.id) | none => []) ++ w.ids

/-- Identities that a block's warps and its checkpoint's warps name. -/
def blockIds (b : Block) : List Nat :=
  b.warps.flatMap warpIds ++ (match b.ck with | some k => k.warps.flatMap warpIds | none => [])

/-- Entries that a core holds, and that its key table names as results. -/
def coreIds (c : CoreSt) : List Nat := c.entries.map (·.eid) ++ c.keys.flatMap (·.results)

/-- Every identity in use was handed out before now, and none is the zero entry's (R35: no entry's identity is used twice). -/
def IdsInv (s : State) : Prop :=
  0 < s.serial ∧ (∀ b ∈ s.blocks, ∀ e ∈ blockIds b, e < s.serial) ∧
  ∀ x ∈ s.cores, (∀ e ∈ coreIds x.2, e < s.serial) ∧ ∀ e ∈ x.2.entries, 0 < e.eid

/-- Does a step answer a state? -/
def StepsOn (s : State) : Prop := ∃ t, step s = .next t

/-- A run of `n` steps answers a state. -/
def RunsOn : Nat → State → Prop
  | 0, _ => True
  | n + 1, s => ∃ t, step s = .next t ∧ RunsOn n t

end Sys2Proof
end

