-- ==== Sys2Proof/Claims.lean ====
section
/-! DEFINITION. The terms of the statements: what a register reads in the context of a path, what an instruction leaves
unchanged, and the lane operation of each instruction that computes a value per lane. -/

namespace Sys2Proof.Machine

open Sys2Proof

/-! ### Reading a state -/

/-- A register's value in a lane, as the path reads it. -/
def Cx.get (c : Cx) (cls : RegClass) (n l : Nat) : Word := c.cst.regLane c.wp c.pt cls n l

/-- Every byte of every memory is the same in two states: the three memories of the device and the host, the shared memory of each block, what
each warp has written on its stack, and which of that its core's stack cache holds. -/
def SameBytes (s t : State) : Prop :=
  (∀ a, t.scratch.get a = s.scratch.get a) ∧ (∀ a, t.hbm.get a = s.hbm.get a) ∧ (∀ a, t.host.get a = s.host.get a) ∧
  (∀ b a, (t.block b).shared.get a = (s.block b).shared.get a) ∧
  (∀ b w a, alook a (t.warp b w).stack = alook a (s.warp b w).stack) ∧ ∀ k, (t.core k).stackCache = (s.core k).stackCache

/-- Every byte of every memory that a test does not name is the same in two states. -/
def SameBut (s t : State) (w : Place → Nat → Prop) : Prop :=
  (∀ a, ¬ w .scratch a → t.scratch.get a = s.scratch.get a) ∧ (∀ a, t.hbm.get a = s.hbm.get a) ∧ (∀ a, t.host.get a = s.host.get a) ∧
  (∀ b a, ¬ w (.shared b) a → (t.block b).shared.get a = (s.block b).shared.get a) ∧
  (∀ b k a, alook a (t.warp b k).stack = alook a (s.warp b k).stack) ∧ ∀ k, (t.core k).stackCache = (s.core k).stackCache

/-- The registers of the path outside a list read the same in every lane. -/
def SameRegs (c d : Cx) (ds : List (RegClass × Nat)) : Prop :=
  ∀ cls n l, (cls, n) ∉ ds → d.get cls n l = c.get cls n l

/-- The warp's registers without value-store entries, its threads, transaction and handler, and the path's threads and
position, are the same: `xi`, the loop counters and records, `WSTAT`, the meeting registers, `TXSTATUS`, `TXLANES`. -/
def SameSpecial (c d : Cx) : Prop :=
  d.wp.xi = c.wp.xi ∧ d.wp.lc = c.wp.lc ∧ d.wp.loops = c.wp.loops ∧ d.wp.wstat = c.wp.wstat ∧ d.wp.threads = c.wp.threads ∧
  d.wp.tx = c.wp.tx ∧ d.wp.txcode = c.wp.txcode ∧ d.wp.txarg = c.wp.txarg ∧ d.wp.txlanes = c.wp.txlanes ∧
  d.wp.handler = c.wp.handler ∧ d.wp.retired = c.wp.retired ∧ d.wp.pend = c.wp.pend ∧ d.wp.replay = c.wp.replay ∧
  d.pt.mask = c.pt.mask ∧ d.pt.pc = c.pt.pc ∧ d.pt.clause = c.pt.clause ∧ d.pt.hold = c.pt.hold ∧ d.pt.park = c.pt.park

/-- The registers of the device outside blocks and cores: functions with their queues and contexts, packages, launches. -/
def SameDevice (s t : State) : Prop := t.fns = s.fns ∧ t.pkgs = s.pkgs ∧ t.launches = s.launches ∧ t.copies = s.copies

/-- The same after an instruction has issued: what it draws counts in the energy counters of its launch and context (R272), and
nothing else changes. -/
def DeviceAfter (s t : State) : Prop :=
  (∀ fn, { t.fn fn with ctxs := [] } = { s.fn fn with ctxs := [] }) ∧
  (∀ fn slot, { t.ctx fn slot with energy := 0 } = { s.ctx fn slot with energy := 0 }) ∧ t.pkgs = s.pkgs ∧
  t.launches.map (fun l => { l with energy := 0 }) = s.launches.map (fun l => { l with energy := 0 }) ∧ t.copies = s.copies

/-- Registers outside a list, every byte of memory and the device's registers are the same. -/
def Untouched (s : State) (c : Cx) (u : State) (d : Cx) (ds : List (RegClass × Nat)) : Prop :=
  SameRegs c d ds ∧ SameBytes s u ∧ SameDevice s u

/-- Registers outside a list, every byte of memory and the device's registers are the same; contexts may hold other leaves in
their TLBs, and have reached the frames of those (R157, R233). -/
def Unwritten (s : State) (c : Cx) (u : State) (d : Cx) (ds : List (RegClass × Nat)) : Prop :=
  SameRegs c d ds ∧ SameBytes s u ∧ u.pkgs = s.pkgs ∧ u.launches = s.launches ∧ u.copies = s.copies ∧
  ∀ fn slot, { u.ctx fn slot with tlb := [], pages := [] } = { s.ctx fn slot with tlb := [], pages := [] }

/-- The launches are the same, what a DET launch keeps of overwritten bytes aside (R242). -/
def SameLaunches (s t : State) : Prop := t.launches.map (fun l => { l with base := [] }) = s.launches.map (fun l => { l with base := [] })

/-- Functions with their queues and contexts are the same, but for the frames that contexts have reached (R157). -/
def SameFns (s t : State) : Prop :=
  (∀ fn, { t.fn fn with ctxs := [] } = { s.fn fn with ctxs := [] }) ∧ ∀ fn slot, { t.ctx fn slot with pages := [] } = { s.ctx fn slot with pages := [] }

/-- The PC of a thread: its path's, or where it exited (R19). -/
def Cx.pcOf (c : Cx) (t : State) (l : Nat) : Word := (t.warp c.b c.w).threadPc (t.warp c.b c.w).paths l

/-- The warp is one path, runnable and outside a handler, no meeting register is set, no open loop body ends at an address, and the
path's clause has an instruction. -/
def Plain (c : Cx) (next : Word) : Prop :=
  c.wp.paths = [c.pt] ∧ c.pt.hold = none ∧ c.pt.park = none ∧ c.wp.handler = none ∧ (∀ t ∈ c.wp.threads, t.mr = none) ∧
  (∀ r ∈ c.wp.loops, r.stop ≠ next) ∧ ∀ k, c.pt.clause = some k → headerN k.header ≠ 0

/-- The lanes of the path stand where `to` says. -/
def Stand (c : Cx) (t : State) (tgt : Nat → Word) : Prop := ∀ l, c.active.has l = true → c.pcOf t l = tgt l

/-- The warp's one path waits at a barrier, outside a handler, with no meeting register set and no loop body that ends behind it. -/
def Warp.waitsAt (w : Warp) (h : Hold) (p : Path) : Prop :=
  w.paths = [p] ∧ p.hold = some h ∧ p.park = none ∧ p.mask = w.live ∧ w.handler = none ∧ (∀ t ∈ w.threads, t.mr = none) ∧
  ∀ r ∈ w.loops, r.stop ≠ p.pc + 4#32

/-- Blocks, and the warps of each, are told apart by their numbers. -/
def State.numbered (s : State) : Prop := (s.blocks.map (·.id)).Nodup ∧ ∀ x ∈ s.blocks, (x.warps.map (·.idx)).Nodup

/-- Do threads leave a warp: those of a mask, and helper lanes of a quad whose other threads have all left (R27)? -/
def Warp.leaves (w : Warp) (m : Mask) (l : Nat) : Prop :=
  m.has l = true ∨ ((w.threads.getD l default).helper = true ∧ ∀ k, k / 4 = l / 4 → k < w.threads.length →
    let t := w.threads.getD k default
    t.helper = true ∨ m.has k = true ∨ t.exited = true ∨ t.absent = true)

/-- A register whose value a trap frame holds (R223, R226): it is present, and its entry is ready, or a result of the warp's own that becomes
ready first. -/
def Cx.saves (c : Cx) (cls : RegClass) (n : Nat) : Prop :=
  (∀ k, (cls, n, k) ∉ c.wp.absent) ∧ (cls = .s → (c.pt.sAbsent.any fun a => a.1 == n) = false) ∧
  let xs : List (Nat × Nat) := match cls with | .v => c.wp.v | .s => c.pt.s | .p => c.wp.p
  ∀ k ∈ xs, k.1 = n →
    c.cst.isReady k.2 = true ∨ ∃ x, c.cst.entry? k.2 = some x ∧ x.st = .pending ∧ x.known = true ∧
      x.producer.block = c.b ∧ x.producer.warp = c.w ∧ x.producer.adopted = false

/-- A transfer of control changed where threads stand, and no value: every byte of memory, the device's registers but for what the
instruction drew, the warp's pointers, loop records, `xi`, `WSTAT`, transaction and meeting registers are as before, and it counts once in `RETIRED`. -/
def OnlyMoved (c : Cx) (t : State) : Prop :=
  SameBytes c.s t ∧ DeviceAfter c.s t ∧ t.issuing = none ∧
  let w := t.warp c.b c.w
  w.v = c.wp.v ∧ w.p = c.wp.p ∧ w.xi = c.wp.xi ∧ w.lc = c.wp.lc ∧ w.loops = c.wp.loops ∧ w.wstat = c.wp.wstat ∧
  w.threads = c.wp.threads ∧ w.tx = c.wp.tx ∧ w.handler = none ∧ w.retired = c.wp.retired + 1 ∧ ∀ p ∈ w.paths, p.s = c.pt.s

/-- A path of a live block, neither held nor parked, issues in state `s`, the instruction is none that aborts an open
transaction (R201), and where a saggar launch compares its operands the lanes of each pair agree (R258). -/
def Issues (i : Instr) (s : State) (c : Cx) : Prop :=
  s.cx = some c ∧ c.blk.ended = false ∧ c.pt.hold = none ∧ c.pt.park = none ∧ (notxInstr i && c.inTx) = false ∧
  (c.compares i = false ∨ Config.pairsAgree s.tick = true)

/-- What an instruction's own checks and effect act in: where a saggar launch compares it, the comparison has been drawn. -/
def Cx.begun (c : Cx) (i : Instr) : Cx := if c.compares i then { c with s := c.s.compared.2 } else c

/-- No result that a saggar launch compares is on its way (R258). -/
def State.uncompared (s : State) : Prop := ∀ x ∈ s.cores, ∀ e ∈ x.2.entries, e.st = .pending → (e.bearing || e.key.any (·.saggar)) = false

/-- The instruction completes as itself: `u` is the state after its effect, `d` the issuing path there, and the
instruction retires after `words` words (R93). -/
def CompletesVia (i : Instr) (s : State) (c : Cx) (words : Nat) (u : State) (d : Cx) : Prop :=
  exec i s = .next (c.advance u words) ∧ u.cxOf c.b c.w c.pid = some d

/-! ### Events and commands -/

/-- The event or instruction answers a next state, which satisfies `P`. -/
def Answers (i : Instr) (s : State) (P : State → Prop) : Prop := ∃ t : State, exec i s = .next t ∧ P t

/-- The memory that a queue's ring and status array lie in. -/
def State.queueMem (s : State) (host : Bool) : Memory := if host then s.host else s.hbm

/-- Only one package's registers changed, and they are `p` (R280). -/
def PkgIs (s t : State) (pkg : Nat) (p : Package) : Prop :=
  t = { s with pkgs := t.pkgs } ∧ t.pkg pkg = p ∧ ∀ k, k ≠ pkg → t.pkg k = s.pkg k

/-- A package with one more answer (R280). -/
def Package.say (p : Package) (code : Nat) (words : List Nat := []) : Package :=
  { p with answers := p.answers ++ [{ code := code, words := words }] }

/-- The command at the head of a function's ring is answered: its status byte holds the code, and the ring goes on (R277). -/
def Answered (s t : State) (fn code : Nat) : Prop :=
  let f := s.fn fn
  let n := 2 ^ f.cmdsize
  t.host.get (f.cmdbase.toNat + 64 * (f.cmdhead.toNat % n) + 56) = BitVec.ofNat 8 code ∧
  (t.fn fn).cmdhead = BitVec.ofNat 12 ((f.cmdhead.toNat + 1) % n) ∧ (t.fn fn).running = none

/-- No block of a launch with a number remains. -/
def Gone (t : State) (b : Block) : Prop := ∀ y ∈ t.blocks, ¬ (y.launch = b.launch ∧ y.num = b.num)

/-- No block of a block's span remains (R32, R261). -/
def SpanGone (s t : State) (b : Block) : Prop :=
  let n := max (s.launch b.launch).span 1
  ∀ y ∈ t.blocks, ¬ (y.launch = b.launch ∧ y.num / n = b.num / n)

/-! ### Forms of memory instructions -/

/-- Space, element type, acquire, operands, offset and words of a load; the short form is `.sh` and 32 bits (R107). -/
def ldForm : Instr → Option (Space × MType × Bool × L2u × Nat × Nat)
  | .ld f => some (.sh, .b32, false, { d := .v f.d, a := .v f.a, pa := .ident, g := Guard.always }, f.off.toNat, 1)
  | .ldLong space ty acq f off => some (space, ty, acq, f, off.toNat, 2)
  | _ => none

/-- Space, element type, release, operands, offset, words, and the field of the data operand, of a store. -/
def stForm : Instr → Option (Space × MType × Bool × L2ab × Nat × Nat × Nat)
  | .st f => some (.sh, .b32, false, { a := .v f.a, b := .v f.d, pa := .ident, pb := .ident, g := Guard.always }, f.off.toNat, 1, 0)
  | .stLong space ty rel f off => some (space, ty, rel, f, off.toNat, 2, 2)
  | _ => none

/-- Operation, space, type, order, destination, operands and compare operand of an atomic. -/
def atomForm : Instr → Option (AtomOp × Space × AtomTy × AtomOrd × Option Opnd × L2ab × Option Opnd)
  | .atom op space ty ord d a b c g =>
    some (op, space3 space, ty, ord, some d, { a := a, b := b, pa := .ident, pb := .ident, g := g }, if op == .cas then some c else none)
  | .red op space ty rel f => some (redAtom op, space3 space, ty, if rel then .rel else .plain, none, f, none)
  | _ => none

/-! ### Lane operations -/

/-- The lane operation of each instruction that is nothing else (R41, R70): `none` for the others. -/
def laneSem (c : Cx) : Instr → Option Sem
  | .iadd f => some (semIadd (longRrr f) 1 .s32) | .iaddLong f t => some (semIadd f 2 t)
  | .isub f => some (semIsub (longRrr f) 1 .s32) | .isubLong f t => some (semIsub f 2 t)
  | .imul f => some (semImul (longRrr f) 1 .s32) | .imulLong f t => some (semImul f 2 t)
  | .imulhi f => some (semImulhi (longRrr f) 1 .s32) | .imulhiLong f t => some (semImulhi f 2 t)
  | .imin f => some (semImin (longRrr f) 1 .s32) | .iminLong f t => some (semImin f 2 t)
  | .imax f => some (semImax (longRrr f) 1 .s32) | .imaxLong f t => some (semImax f 2 t)
  | .iabs f => some (semIabs (longRr f) 1 .s32) | .iabsLong f t => some (semIabs f 2 t)
  | .iaddc d a b pa k g => some (semCarry d a b pa k g 0x05 addCarry)
  | .isubb d a b pa k g => some (semCarry d a b pa k g 0x06 subBorrow)
  | .imad f t => some (semImad f t) | .imadw f p => some (semImadw f p)
  | .shl f => some (semShi f 0x0E shlFn) | .shlLong f t => some (semShift f 0x0E t shlFn)
  | .shr f => some (semShi f 0x0F shrFn) | .shrLong f t => some (semShift f 0x0F t shrFn)
  | .sar f => some (semShi f 0x10 sarFn) | .sarLong f t => some (semShift f 0x10 t sarFn)
  | .and f => some (semLogic (longRrr f) 1 0x11 (· &&& ·)) | .andLong f => some (semLogic f 2 0x11 (· &&& ·))
  | .or f => some (semLogic (longRrr f) 1 0x12 (· ||| ·)) | .orLong f => some (semLogic f 2 0x12 (· ||| ·))
  | .xor f => some (semLogic (longRrr f) 1 0x13 (· ^^^ ·)) | .xorLong f => some (semLogic f 2 0x13 (· ^^^ ·))
  | .logic3 f n => some (semLogic3 f n)
  | .popc f => some (semWord (longRr f) 1 0x15 fun x => BitVec.ofNat 32 (popcFn x))
  | .popcLong f => some (semWord f 2 0x15 fun x => BitVec.ofNat 32 (popcFn x))
  | .clz f => some (semWord (longRr f) 1 0x16 fun x => BitVec.ofNat 32 (clzFn x))
  | .clzLong f => some (semWord f 2 0x16 fun x => BitVec.ofNat 32 (clzFn x))
  | .brev f => some (semWord (longRr f) 1 0x17 brevFn) | .brevLong f => some (semWord f 2 0x17 brevFn)
  | .bfx f t => some (semBfx f t) | .bfi f => some (semBfi f)
  | .icmp f t k => some (semIcmp f t k) | .sel f t => some (semSel f t) | .lea f t => some (semLea f t)
  | .plop d a b n g => some (semPlop d a b n g) | .pmov m f => some (semPmov m f c.width)
  | .movi d x => some (semMovi d x)
  | .fadd f => some (semFadd (longRrr f) 1 rneMod) | .faddLong f m => some (semFadd f 2 m)
  | .fsub f => some (semFsub (longRrr f) 1 rneMod) | .fsubLong f m => some (semFsub f 2 m)
  | .fmul f => some (semFmul (longRrr f) 1 rneMod) | .fmulLong f m => some (semFmul f 2 m)
  | .fmin f => some (semFmin (longRrr f) 1 false) | .fminLong f z => some (semFmin f 2 z)
  | .fmax f => some (semFmax (longRrr f) 1 false) | .fmaxLong f z => some (semFmax f 2 z)
  | .ffma f m => some (semFfma f m) | .dadd f m => some (semDadd f m) | .dfma f m => some (semDfma f m)
  | .halfmad f t m => some (semHalfmad f t m)
  | .fclass f t => some (semFclass f t) | .fcmp f t k => some (semFcmp f t k) | .frnd f t m x => some (semFrnd f t m x)
  | .cvt f r d k => some (semCvt f r d k)
  | .shfl f t x => some (semShfl f t x) | .qswz f t => some (semQswz f t)
  | .matchLanes f t x => some (semMatch f t x c.width) | .vote m d a g => some (semVote m d a g c.width)
  | .redux f m => some (semRedux f m) | .scan f m x => some (semScan f m x)
  | .rcp f => some (semRcp (longRr f) 1 false) | .rcpLong f z => some (semRcp f 2 z)
  | .rsq f => some (semRsq (longRr f) 1 false) | .rsqLong f z => some (semRsq f 2 z)
  | .sqrt f => some (semSqrt (longRr f) 1 false) | .sqrtLong f z => some (semSqrt f 2 z)
  | .exp2 f => some (semExp2 (longRr f) 1 false) | .exp2Long f z => some (semExp2 f 2 z)
  | .log2 f => some (semLog2 (longRr f) 1 false) | .log2Long f z => some (semLog2 f 2 z)
  | .sin f => some (semSin (longRr f) 1 false) | .sinLong f z => some (semSin f 2 z)
  | .cos f => some (semCos (longRr f) 1 false) | .cosLong f z => some (semCos f 2 z)
  | .tanh f => some (semTanh (longRr f) 1 false) | .tanhLong f z => some (semTanh f 2 z)
  | .qfeat d g => some (semQfeat c d g)
  | _ => none

/-- The lane operation of an instruction that runs one after a check of its own, when that check passes: `MOV` that does not
share (R43), `ACTV` with no flip of the warp's own outstanding (R135), `CHRUN` with current reserved (R137), `GETSR`
(R335), `LTAG` (R359), `MRD` (R123), `MWM` (R124). -/
def guardedSem (c : Cx) : Instr → Option Sem
  | .mov f => let m := semMov (longRr f) 1 .b32; if (c.sharesMov m .ident).isNone then some m else none
  | .movLong f t => let m := semMov f 2 t; if (c.sharesMov m f.pa).isNone then some m else none
  | .actv f t z =>
    let b := c.cst.act c.l.ctxid t.val
    if b.owns c.b c.w then none else some (semActv f t.val z b)
  | .getsr d n g =>
    let k := n.toNat
    if srNumbers.contains k && !(srPerLane k && sDest [dOp d]) && (k != 0x20 || (c.flagsIn && c.boundOpen.isEmpty)) &&
        !(decide (0x30 ≤ k) && c.wp.handler.isSome && (!c.frameQuiet || c.frameLost 0 0x18)) then some (semGetsr c d n g) else none
  | .ltag d a g =>
    let r := ((c.resolve (ltagOp a)).reg?).getD (.v, 0)
    if (c.absentOf r.1 r.2).isEmpty && ((ltagOp a).ok c.wp.grant c.width false) && (ltagOp a).indexOk c.wp.grant c.wp.xi
    then some (semLtag c d a g) else none
  | .mrd f t =>
    let m := semMrd f t.toNat (c.blk.tile c.wp.quad t.toNat)
    if (c.acting f.g).lanes.all fun l =>
        let r := (c.read (c.resolve (m.srcs.getD 0 default)) l).lo.toNat
        decide (r ≤ 15) && decide (r < c.blk.mark c.wp.quad t.toNat) then some m else none
  | .mwm d t =>
    if !c.det || c.blk.mark c.wp.quad t.toNat == 16 then some (semMwm d (c.blk.mark c.wp.quad t.toNat)) else none
  | _ => none

/-- The lane operation of an instruction, whether it has a check of its own or not. -/
def opOf (c : Cx) (i : Instr) : Option Sem :=
  match laneSem c i with | some m => some m | none => guardedSem c i

/-- The checks of R70, R97 and R45 pass: operand codes, indexed operands, and every register read. -/
def LaneReady (c : Cx) (m : Sem) : Prop :=
  c.checkOps m.ops = .ok () ∧ c.checkReads m.srcs m.guard = .ok () ∧ c.allReadable m.carryReads = .ok () ∧
  (m.readsDst = true → c.allReadable ((List.range m.dst.span).map fun j => (0, (c.dstReg m.dst).1, (c.dstReg m.dst).2 + j)) = .ok ())

/-- What the lane operation computes in a lane. -/
def Cx.laneRes (c : Cx) (m : Sem) (l : Nat) : LaneRes := m.f (c.args m) l

/-- Flags that the operation gives (R78): of lane 0 when the destination is an `s` register, else of the acting lanes that are no
helper lanes. The warp takes them when a lane that is no helper lane acts (R28). -/
def Cx.laneFlags (c : Cx) (m : Sem) : Word :=
  if sDest [m.dst] then (c.laneRes m 0).flags else orFlags (c.acting m.guard &&& ~~~ c.wp.helpers) (c.laneRes m)

/-- The key that a lookup would find, when the operation takes part in lookup (R42). -/
def Cx.laneHit (c : Cx) (m : Sem) : Option KeyRec := if c.looksUp m then c.lookup c.s (c.keyOf m) else none

/-- Nothing delays the execution: the SFU is free (R132), a destination that keeps lanes is known (R65), and no flag that
traps is raised (R79). -/
def LaneFree (c : Cx) (m : Sem) : Prop :=
  (m.sfu = 0 ∨ c.sfuFree = true) ∧
  (c.whole m = true ∨ c.allMergeable (c.acting m.guard) (c.dests m) = .ok ()) ∧
  (c.raises m = false ∨ c.laneFlags m &&& c.l.fptrap = 0#32)

/-- The word of result `j` in a destination: the value, a pair's high word, or the carry (R59, R128). -/
def laneWord (cls : RegClass) (j : Nat) (pair : Bool) (x : LaneRes) : Word :=
  if cls = .p ∧ j ≠ 0 then (if x.carry then 1#32 else 0#32) else if pair = true ∧ j = 1 then x.val.hi else x.val.lo

/-- The destinations after the operation: acting lanes hold the results, the others what they held (R64, R296); an `s`
register holds lane 0's result. -/
def LaneWritten (c d : Cx) (m : Sem) : Prop :=
  ∀ j cls n l, (c.dests m)[j]? = some (cls, n) → l < c.width →
    d.get cls n l =
      if cls = .s then laneWord cls j m.dst.pair (c.laneRes m 0)
      else if (c.acting m.guard).has l then laneWord cls j m.dst.pair (c.laneRes m l) else c.get cls n l

/-- An instruction computes its lanes by a function whose result in lane `l`, from the operand values `x`, satisfies `P`. -/
def Computes (c : Cx) (i : Instr) (x : Args) (l : Nat) (P : LaneRes → Prop) : Prop := ∃ m, laneSem c i = some m ∧ P (m.f x l)

/-! ### Exact values of patterns (R71) -/

/-- A signed magnitude (−1)^neg × man × 2^exp. -/
abbrev Mag := Bool × Nat × Int

/-- The product of two magnitudes. -/
def Mag.times (x y : Mag) : Mag := (x.1 != y.1, x.2.1 * y.2.1, x.2.2 + y.2.2)

/-- The sum of two magnitudes is exactly a third, which is not zero. -/
def SumsTo (x y z : Mag) : Prop :=
  z.2.1 ≠ 0 ∧ ∃ lo, lo ≤ x.2.2 ∧ lo ≤ y.2.2 ∧ lo ≤ z.2.2 ∧
    sigAt x.1 x.2.1 x.2.2 lo + sigAt y.1 y.2.1 y.2.2 lo = sigAt z.1 z.2.1 z.2.2 lo

/-- A pattern of a format holds a finite magnitude. -/
def HoldsMag (f : Fmt) (x : Nat) (v : Mag) : Prop := f.decode x = .fin v.1 v.2.1 v.2.2 ∧ x < 2 ^ (f.sbit + 1)

/-- No pattern of a list is one that `.ftz` flushes (R77). -/
def NoFlush (f : Fmt) (ftz : Bool) (xs : List Nat) : Prop := ftz = true → ∀ x ∈ xs, f.subnormal x = false

/-- `y` holds exactly the sum of `x`'s magnitude and that of `z`. -/
def ExactSum (f : Fmt) (m : FMod) (a b y : Nat) (flip : Bool) : Prop :=
  NoFlush f m.ftz [a, b, y] ∧ ∃ u v w : Mag, HoldsMag f a u ∧ HoldsMag f b v ∧ HoldsMag f y w ∧ SumsTo u (v.1 != flip, v.2) w

/-- `y` holds exactly a × b + c. -/
def ExactFma (f : Fmt) (m : FMod) (a b c y : Nat) : Prop :=
  NoFlush f m.ftz [a, b, c, y] ∧
  ∃ u v w z : Mag, HoldsMag f a u ∧ HoldsMag f b v ∧ HoldsMag f c w ∧ HoldsMag f y z ∧ SumsTo (u.times v) w z

/-- An integer is a magnitude rounded in a mode (R76): man / d of sign `neg`, `k` its rounded magnitude. -/
def RoundsTo (rnd : Rnd) (neg : Bool) (man d k : Nat) : Prop :=
  match rnd with
  | .rtz => k = man / d
  | .rup => k = if neg then man / d else (man + d - 1) / d
  | .rdn => k = if neg then (man + d - 1) / d else man / d
  | .rne => 2 * man ≤ 2 * k * d + d ∧ 2 * k * d ≤ 2 * man + d ∧ (2 * man = 2 * k * d + d ∨ 2 * k * d = 2 * man + d → k % 2 = 0)

/-- Two instructions compute the same function of their operand values. -/
def SameFunction (c : Cx) (i j : Instr) : Prop :=
  ∃ m n, laneSem c i = some m ∧ laneSem c j = some n ∧ m.f = n.f ∧ m.base = n.base ∧ m.mod = n.mod ∧ m.lat = n.lat ∧
    m.canFlag = n.canFlag ∧ m.guard = n.guard

end Sys2Proof.Machine
end

