-- ==== Sys2Proof/Certificates/Slice0/Obligations.lean ====
section
/-! DEFINITION. The statements for the provers, drawn from the numbered rules of the spec. -/

open Sys2Proof Sys2Proof.Machine

/-! ### Encoding -/

/-- R100 to R108: every well-formed instruction, with every operand at every value its fields hold, is read back from the
words that encode it, whatever bytes follow. -/
def Obligations.EncodeThenDecode : Prop :=
  ∀ (i : Instr) (rest : List Byte), i.wf = true →
    encode i ≠ [] ∧ decode ((encode i).flatMap wordBytes ++ rest) = .ok i rest

/-- R100, R102: words that decode are the words that encode what they decode to, so no two instructions share words and every
bit of the words counts. R108, R109: the opcode bytes that are no instruction, one-word and two-word, take `ILLOP`, and no
others do. -/
def Obligations.EveryWordDecodesToOneInstruction : Prop :=
  (∀ (w0 w1 : Word) (i : Instr), decodeWords w0 w1 = .ok i →
     i.wf = true ∧ encode i = if w0.getLsbD 31 then [w0, w1] else [w0]) ∧
  (∀ (w0 w1 : Word), decodeWords w0 w1 = .error .illop ↔
     let op := (w0.fld 24 8).toNat
     let shorts := [0x01, 0x03, 0x04, 0x07, 0x08, 0x0B, 0x0C, 0x0D, 0x0E, 0x0F, 0x10, 0x11, 0x12, 0x13, 0x15, 0x16, 0x17,
       0x1F, 0x20, 0x21, 0x23, 0x24, 0x2C, 0x2D, 0x2E, 0x2F, 0x30, 0x31, 0x32, 0x33, 0x3D, 0x3E, 0x41, 0x42, 0x45, 0x4E, 0x4F,
       0x5C, 0x5D, 0x5E, 0x5F, 0x60, 0x61, 0x63, 0x64, 0x65, 0x66, 0x67, 0x68, 0x69, 0x6A, 0x6D, 0x6F, 0x70]
     let longOnly := [0x02, 0x05, 0x06, 0x09, 0x0A, 0x14, 0x18, 0x19, 0x1A, 0x1B, 0x1C, 0x1D, 0x1E, 0x22, 0x25, 0x26, 0x27, 0x28,
       0x29, 0x2A, 0x2B, 0x34, 0x35, 0x36, 0x37, 0x38, 0x39, 0x3A, 0x3B, 0x3C, 0x3F, 0x40, 0x43, 0x44, 0x46, 0x47, 0x48, 0x49,
       0x4A, 0x4B, 0x4C, 0x4D, 0x50, 0x51, 0x52, 0x53, 0x54, 0x55, 0x56, 0x57, 0x58, 0x59, 0x5A, 0x5B, 0x62, 0x6B, 0x6C, 0x6E,
       0x71, 0x72]
     let both := [0x01, 0x03, 0x04, 0x07, 0x08, 0x0B, 0x0C, 0x0D, 0x0E, 0x0F, 0x10, 0x11, 0x12, 0x13, 0x15, 0x16, 0x17, 0x1F, 0x20,
       0x21, 0x23, 0x24, 0x2C, 0x2D, 0x2E, 0x2F, 0x30, 0x31, 0x32, 0x33, 0x3D, 0x3E]
     ¬ (op ∈ shorts ∨ ∃ k ∈ longOnly ++ both, op = 0x80 + k))

/-- R103: every operand code names the operand of the table. R20, R289 and the reference entries: words that the spec writes out
decode to the instructions that it names. -/
def Obligations.OperandCodesAndSampleWords : Prop :=
  ((∀ n : BitVec 7, opndOf (0#1 ++ n) = .v n) ∧ (∀ n : BitVec 5, opndOf (0b100#3 ++ n) = .s n) ∧
   (∀ n : BitVec 3, opndOf (0b10100#5 ++ n) = .p n) ∧
   opndOf 0xA8 = .lc 0 ∧ opndOf 0xA9 = .lc 1 ∧ opndOf 0xAA = .lc 2 ∧ opndOf 0xAB = .xi ∧
   (∀ x : BitVec 8, (0xAC ≤ x.toNat ∧ x.toNat ≤ 0xAF ∨ 0xBB ≤ x.toNat ∧ x.toNat ≤ 0xBF) ↔ ∃ k, opndOf x = .rsvd k) ∧
   (∀ x : BitVec 8, (0xB0 ≤ x.toNat ∧ x.toNat ≤ 0xBA) ↔ ∃ k, opndOf x = .const k) ∧
   (∀ n : BitVec 6, opndOf (0b11#2 ++ n) = .idx n) ∧
   (∀ (x : OpSpec) (k : Fin 9) (grant w : Nat) (sd : Bool), x.o = .rsvd k → x.ok grant w sd = false)) ∧
  ((decodeWords 0x03060417 0).toOption = some (.iadd { d := 3, a := 1, b := 2, g := 7 }) ∧
   (decodeWords 0x832020B2 0x000010E0).toOption =
     some (.iaddLong { d := .v 32, a := .v 32, b := .const .i2, pa := .ident, pb := .ident, g := Guard.always } .s32) ∧
   (decodeWords 0x85040206 0x000924E0).toOption = some (.iaddc (.v 4) (.v 2) (.v 6) .ident { cin := some 1, cout := 2 } Guard.always) ∧
   (decodeWords 0x10060404 0).toOption = some (.sar { d := 3, a := 1, n := 4 }) ∧
   (decodeWords 0x60700006 0).toOption = some (.meet { g := Guard.always, off := 6 }) ∧
   (decodeWords 0x6D020C02 0).toOption = some (.setxiS 3 2) ∧
   (decodeWords 0xB7050102 0x000000E0).toOption =
     some (.shfl { d := .v 5, a := .v 1, b := .v 2, pa := .ident, pb := .ident, g := Guard.always } .b32 false) ∧
   (decodeWords 0x9221212A 0x00000090).toOption =
     some (.orLong { d := .v 33, a := .v 33, b := .v 42, pa := .ident, pb := .ident, g := { p := 4, neg := true } }) ∧
   (decodeWords 0xCD282000 0x000000E0).toOption = some (.mrd { d := .v 40, a := .v 32, pa := .ident, g := Guard.always } 0) ∧
   (decodeWords 0xDA001900 0x000003E0).toOption = some (.wload 3 { a := .v 25, pa := .ident, g := Guard.always }) ∧
   (decodeWords 0xC30A0406 0x000038E0).toOption =
     some (.waitaddr .sp true false { d := .v 10, a := .v 4, b := .v 6, pa := .ident, pb := .ident, g := Guard.always }) ∧
   (decodeWords 0x67000007 0).toOption = some .nop)

/-! ### Steps -/

/-- R94, R100, R110: when the words at the PC of the issuing path are in the I-cache and decode to `i`, a step is `exec i`. The
model adds nothing around it: a meaning moves the path past its own words (R93). A step with no issuing path is the next
event of the device: the first that is due, or the one that the schedule names (assumption 2 of the log). Before it the
second path of a packed pair issues, if it can still (R18). That an instruction follows its selection at once, and which
event comes next, is the model's choice (log 2). -/
def Obligations.StepRunsTheDecodedInstruction : Prop :=
  (∀ (s : State) (c : Cx) (w0 w1 : Word) (i : Instr), s.cx = some c →
     s.codeWord c.core c.b c.l c.pt.pc = some w0 →
     (w0.getLsbD 31 = true → s.codeWord c.core c.b c.l (c.pt.pc + 4#32) = some w1) → (w0.getLsbD 31 = false → w1 = 0#32) →
     decodeWords w0 w1 = .ok i → step s = exec i s) ∧
  ((∀ (s : State) (k : Issuing) (c : Cx), s.issuing = none → s.packed = some k → s.cxOf k.block k.warp k.path = some c →
     c.pt.hold = none → c.pt.park = none → c.wp.parkedOn c.pt = false → c.wp.delivery = none → (∀ t, c.wp.tx = some t → t.conflict = false) →
     step s = step { s with packed := none, issuing := some k }) ∧
   ∀ (s : State), s.issuing = none → s.packed = none →
     (∀ e t, s.nextEvent = (some e, t) → step s = exec e t) ∧ (∀ t, s.nextEvent = (none, t) → step s = .next t) ∧
     (s.nextEvent.2 = { s with tick := s.tick + 1 } ∨
       ∃ e rest, s.agenda = e :: rest ∧ s.nextEvent.2 = { s with tick := s.tick + 1, agenda := rest }))

/-- The device never stops: every step, from every state, answers a next state. That an event whose conditions do not hold
changes nothing is the model's choice (log 2). -/
def Obligations.EveryStepAnswersANextState : Prop := ∀ s : State, StepsOn s

/-- Every step, from every state whose memories are in canonical form, leaves them so: scratchpad, HBM, host memory, the shared
memory of blocks, the stacks of warps and of checkpoints. The canonical form and what an unlisted byte reads as are the
model's choice (log 8). -/
def Obligations.StepsKeepMemoriesCanonical : Prop := ∀ s t : State, MemInv s → step s = .next t → MemInv t

/-- R35: entry identities are handed out once. Every step, from every state whose registers, checkpoints, entries and keys name
only identities handed out before, leaves such a state. The counter of serial numbers is the model's own (log 36). -/
def Obligations.StepsKeepEntryIdentitiesOld : Prop := ∀ s t : State, IdsInv s → step s = .next t → IdsInv t

/-- The reset state meets both invariants. R270, R276, R282, R285: the values that the spec gives for reset: no power tokens,
every context slot Empty, feature word 0xE1, no block resident, and no launch. Both invariants speak of the model's own form
of memories and serial numbers (log 8, 36). -/
def Obligations.ResetValuesAndInvariants : Prop :=
  (MemInv State.reset ∧ IdsInv State.reset) ∧
  ((∀ p, (State.reset.pkg p).tokens = 0 ∧ (State.reset.pkg p).feature = 0xE1#32) ∧
   (∀ fn slot, (State.reset.ctx fn slot).st = .empty) ∧ State.reset.blocks = [] ∧ State.reset.launches = [] ∧
   State.reset.copies = [])

/-! ### Lane operations: completion, result, frame -/

/-- R42, R44, R64, R69, R296: an instruction that computes a value per lane and finds no key completes: its acting lanes hold
what its function computes from the source lanes read at issue, the other lanes of the destination keep their values, every
other register of the path, `xi`, the loop counters, `WSTAT`, the meeting registers and the transaction are unchanged, every
byte of memory reads as before, and `KEYS` rises by one exactly when R42 lets the result take part in lookup. What a key
holds for helper lanes is the model's reading (log 23). -/
def Obligations.LaneOperationWritesItsResult : Prop :=
  ∀ (i : Instr) (s : State) (c : Cx) (m : Sem), Issues i s c → IdsInv s → opOf c i = some m → LaneReady c m →
    c.acting m.guard ≠ 0#64 → c.laneHit m = none → LaneFree c m →
    ∃ (u : State) (d : Cx), CompletesVia i s c m.words u d ∧ LaneWritten c d m ∧ SameRegs c d (c.dests m) ∧ SameSpecial c d ∧
      SameBytes s u ∧ SameDevice s u ∧ d.wp.binds = c.wp.binds ∧
      d.wp.keys = c.wp.keys + (if c.looksUp m then 1#32 else 0#32)

/-- R44: an instruction whose key is in the table binds: each destination points to the key's result, `BINDS` rises by one,
`KEYS` does not, and nothing else of the warp's registers or of memory changes but the flags that ready results raised. A
warp of a saggar launch stalls while a result of the key is not verified (R55). That it waits, and does not execute the
instruction anew, is the model's reading (log 23). R42, R101: when the guard passes in no lane the instruction writes
nothing, counts neither a bind nor a key, and the path goes on after it. What a key holds for helper lanes and for the
classes of destinations, and that a saggar warp waits for a result that is not verified, is the model's reading (log 23). -/
def Obligations.LaneOperationBindsToItsKey : Prop :=
  (∀ (i : Instr) (s : State) (c : Cx) (m : Sem) (k : KeyRec), Issues i s c → IdsInv s → opOf c i = some m → LaneReady c m →
     c.acting m.guard ≠ 0#64 → c.laneHit m = some k →
     (c.bindable k = false → exec i s = .next s.stalled) ∧
     (c.bindable k = true → (c.dests m).length = k.results.length →
     ∃ (u : State) (d : Cx), CompletesVia i s c m.words u d ∧
       (∀ (j : Nat) (cls : RegClass) (n : Nat), (c.dests m)[j]? = some (cls, n) → k.results[j]? = some (regPtr d.wp d.pt cls n)) ∧
       SameRegs c d (c.dests m) ∧ SameBytes s u ∧ SameDevice s u ∧ d.wp.binds = c.wp.binds + 1#32 ∧ d.wp.keys = c.wp.keys ∧
       d.wp.xi = c.wp.xi ∧ d.wp.lc = c.wp.lc ∧ d.wp.loops = c.wp.loops ∧ d.wp.threads = c.wp.threads ∧ d.wp.tx = c.wp.tx ∧
       d.wp.handler = c.wp.handler ∧ d.pt.pc = c.pt.pc ∧ d.wp.wstat &&& c.wp.wstat = c.wp.wstat)) ∧
  (∀ (i : Instr) (s : State) (c : Cx) (m : Sem), Issues i s c → opOf c i = some m → LaneReady c m →
     c.acting m.guard = 0#64 →
       let d := c.begun i
       exec i s = .next (d.advance (d.endWaits d.s) m.words))

/-- R79, R135, R137, R300, R313: an instruction that would raise a flag that its launch traps on takes `FPEXC`: no register is written and no flag
is raised, `TRAPINFO` holds the flags in the order of `WSTAT` [4:0]. When only helper lanes act it is not taken (R28). So does `ACTV`; `CHRUN`
first asks for a reservation of current, and takes the trap when it has been granted, giving it back. -/
def Obligations.EnabledFlagsTrap : Prop :=
  let traps := fun (c : Cx) (m : Sem) => LaneReady c m ∧ c.inTx = false ∧ c.raises m = true ∧ c.laneHit m = none ∧
    (m.sfu = 0 ∨ c.sfuFree = true) ∧ (c.whole m = true ∨ c.allMergeable (c.acting m.guard) (c.dests m) = .ok ()) ∧
    c.laneFlags m &&& c.l.fptrap ≠ 0#32
  (∀ (i : Instr) (s : State) (c : Cx) (m : Sem), Issues i s c → opOf c i = some m → traps c m →
    exec i s = .next (c.trapWords (encodePair i).1 (encodePair i).2 0x1A
      (BitVec.ofNat 32 (c.laneFlags m &&& 0x1F#32).toNat) false)) ∧
  ∀ (f : L3) (k : Fin 4) (s : State) (c : Cx), Issues (.chrun f k) s c →
    let b := c.cst.chain c.l.ctxid k.val
    let m := semChrun f k.val b
    b.owns c.b c.w = false → traps c m →
    (c.chrunState ≠ some true → exec (.chrun f k) s = .next c.askChrun) ∧
    (c.chrunState = some true → exec (.chrun f k) s = .next ((c.at (c.endRequest c.s)).trapWords (encodePair (.chrun f k)).1
      (encodePair (.chrun f k)).2 0x1A (BitVec.ofNat 32 (c.laneFlags m &&& 0x1F#32).toNat) false))

/-- R70, R103: a lane operation with an operand code that its field does not accept takes `BADOPND`, whose detail is the first
failing field in the order D, A, B, C; then an indexed operand beyond the grant takes `INDEX`. No register is written. R110,
R201: an instruction that R201 names aborts an open transaction with NOTX, ARG being its first byte, before any operand is
checked; it has issued and counts as retired (R95, R219, R252). ARG of NOTX as the whole first byte is the model's reading
(log 16). -/
def Obligations.OperandAndTransactionChecks : Prop :=
  (∀ (i : Instr) (s : State) (c : Cx) (m : Sem) (x : OpSpec), Issues i s c → laneSem c i = some m →
     (firstBad (fun y => y.ok c.wp.grant c.width (sDest m.ops)) m.ops = some x →
       exec i s = .next (c.stop i (.trap 0x03 x.field))) ∧
     (firstBad (fun y => y.ok c.wp.grant c.width (sDest m.ops)) m.ops = none →
       firstBad (fun y => y.indexOk c.wp.grant c.wp.xi) m.ops = some x → exec i s = .next (c.stop i (.trap 0x08 x.field)))) ∧
  (∀ (i : Instr) (s : State) (c : Cx), s.cx = some c → notxInstr i = true → c.inTx = true →
     exec i s = .next ((((c.issued s).retire c.b c.w).stalled).abortTx c.b c.w 4 ((encodePair i).1.fld 24 8).toNat))

/-- R93: an instruction that is not the last of its clause leaves its path, when no other path of the warp waits at the next
instruction, at the word after its own, one instruction further in the clause; it counts once in `RETIRED`. Whatever path an
instruction leaves to run on, and wherever paths join or loops end, running on changes no byte of memory, and no predicate
pointer or `v` pointer of any warp. -/
def Obligations.PathsRunOn : Prop :=
  (∀ (s : State) (c : Cx) (u : State) (d : Cx) (words : Nat), s.cx = some c → c.pt.lastOf = false →
     u.cxOf c.b c.w c.pid = some d → d.pt.clause = c.pt.clause → d.pt.mask = c.pt.mask → d.pt.park = none → d.pt.hold = none →
     (∀ q ∈ d.wp.paths, q.id ≠ c.pid → q.stand ≠ c.pt.pc + BitVec.ofNat 32 (4 * words)) →
     (∀ p q, p ∈ d.wp.paths → q ∈ d.wp.paths → p.id = q.id → p = q) →
     ∃ e, (c.advance u words).cxOf c.b c.w c.pid = some e ∧ e.pt.pc = c.pt.pc + BitVec.ofNat 32 (4 * words) ∧
       e.pt.clause = c.pt.clause.map (fun k => { k with done := k.done + 1 }) ∧ e.pt.mask = d.pt.mask ∧
       e.wp.retired = d.wp.retired + 1 ∧ e.wp.v = d.wp.v ∧ e.wp.p = d.wp.p ∧ e.pt.s = d.pt.s ∧ e.wp.xi = d.wp.xi ∧
       e.wp.wstat = d.wp.wstat ∧ (c.advance u words).issuing = none) ∧
  (∀ (c : Cx) (u : State) (words : Nat), SameBytes u (c.advance u words) ∧
     (∀ b w, ((c.advance u words).warp b w).v = (u.warp b w).v ∧ ((c.advance u words).warp b w).p = (u.warp b w).p))

/-! ### Lane operations: values -/

/-- R107: a short form acts as the long form of its mnemonic with the default MOD: `.s32`, `.f32` in round to nearest even
without flush. -/
def Obligations.ShortFormsActAsTheirDefaults : Prop :=
  ∀ (c : Cx) (f : Rrr) (u : Rr),
    SameFunction c (.iadd f) (.iaddLong (longRrr f) .s32) ∧ SameFunction c (.isub f) (.isubLong (longRrr f) .s32) ∧
    SameFunction c (.imul f) (.imulLong (longRrr f) .s32) ∧ SameFunction c (.imulhi f) (.imulhiLong (longRrr f) .s32) ∧
    SameFunction c (.imin f) (.iminLong (longRrr f) .s32) ∧ SameFunction c (.imax f) (.imaxLong (longRrr f) .s32) ∧
    SameFunction c (.iabs u) (.iabsLong (longRr u) .s32) ∧ SameFunction c (.and f) (.andLong (longRrr f)) ∧
    SameFunction c (.or f) (.orLong (longRrr f)) ∧ SameFunction c (.xor f) (.xorLong (longRrr f)) ∧
    SameFunction c (.popc u) (.popcLong (longRr u)) ∧ SameFunction c (.clz u) (.clzLong (longRr u)) ∧
    SameFunction c (.brev u) (.brevLong (longRr u)) ∧
    SameFunction c (.fadd f) (.faddLong (longRrr f) { rnd := .rne, ftz := false }) ∧
    SameFunction c (.fsub f) (.fsubLong (longRrr f) { rnd := .rne, ftz := false }) ∧
    SameFunction c (.fmul f) (.fmulLong (longRrr f) { rnd := .rne, ftz := false }) ∧
    SameFunction c (.fmin f) (.fminLong (longRrr f) false) ∧ SameFunction c (.fmax f) (.fmaxLong (longRrr f) false) ∧
    SameFunction c (.rcp u) (.rcpLong (longRr u) false) ∧ SameFunction c (.rsq u) (.rsqLong (longRr u) false) ∧
    SameFunction c (.sqrt u) (.sqrtLong (longRr u) false) ∧ SameFunction c (.exp2 u) (.exp2Long (longRr u) false) ∧
    SameFunction c (.log2 u) (.log2Long (longRr u) false) ∧ SameFunction c (.sin u) (.sinLong (longRr u) false) ∧
    SameFunction c (.cos u) (.cosLong (longRr u) false) ∧ SameFunction c (.tanh u) (.tanhLong (longRr u) false)

/-- R338, R339, R345 to R349: the integer mould, `n` = 32 or 64 bits: the sum, the difference, the product's halves, the
smaller, the larger and the absolute value, signed or unsigned by type, modulo 2^n; no flag is raised. R128, R343: the
carries and the multiply-adds. The exact result is s; d is s modulo 2^32 (2^64 for `IMADW`), the carry says that s reaches
2^32 (2^64), or for `ISUBB` that it is below 0. The carry-in is 0 when none is named. R383, R389, R390: the shifts, by an
immediate or by a lane's word, for every amount: 0 from 32 on, and for `SAR` the amount 31 from 32 on. -/
def Obligations.IntegerValues : Prop :=
  (∀ (c : Cx) (f : L2) (u : L2u) (x : Args) (l : Nat),
     let a := x.src 0 l
     let b := x.src 1 l
     (∀ t, t = .s32 ∨ t = .u32 → Computes c (.iaddLong f t) x l fun r =>
       r.val.toNat = (a.lo.toNat + b.lo.toNat) % 2 ^ 32 ∧ r.flags = 0#32) ∧
     (∀ t, t = .s64 ∨ t = .u64 → Computes c (.iaddLong f t) x l fun r =>
       r.val.toNat = (a.toNat + b.toNat) % 2 ^ 64 ∧ r.flags = 0#32) ∧
     (∀ t, t = .s32 ∨ t = .u32 → Computes c (.isubLong f t) x l fun r =>
       (r.val.toNat : Int) = ((a.lo.toNat : Int) - b.lo.toNat) % 2 ^ 32 ∧ r.flags = 0#32) ∧
     (∀ t, t = .s64 ∨ t = .u64 → Computes c (.isubLong f t) x l fun r =>
       (r.val.toNat : Int) = ((a.toNat : Int) - b.toNat) % 2 ^ 64 ∧ r.flags = 0#32) ∧
     (∀ t, Computes c (.imulLong f t) x l fun r => r.val.toNat = (a.lo.toNat * b.lo.toNat) % 2 ^ 32 ∧ r.flags = 0#32) ∧
     (Computes c (.imulhiLong f .u32) x l fun r => r.val.toNat = a.lo.toNat * b.lo.toNat / 2 ^ 32 ∧ r.flags = 0#32) ∧
     (Computes c (.imulhiLong f .s32) x l fun r => r.val.lo.toInt = a.lo.toInt * b.lo.toInt / 2 ^ 32 ∧ r.flags = 0#32) ∧
     (Computes c (.iminLong f .s32) x l fun r => r.val.lo.toInt = min a.lo.toInt b.lo.toInt ∧ r.flags = 0#32) ∧
     (Computes c (.iminLong f .u32) x l fun r => r.val.lo.toNat = min a.lo.toNat b.lo.toNat ∧ r.flags = 0#32) ∧
     (Computes c (.iminLong f .s64) x l fun r => r.val.toInt = min a.toInt b.toInt ∧ r.flags = 0#32) ∧
     (Computes c (.iminLong f .u64) x l fun r => r.val.toNat = min a.toNat b.toNat ∧ r.flags = 0#32) ∧
     (Computes c (.imaxLong f .s32) x l fun r => r.val.lo.toInt = max a.lo.toInt b.lo.toInt ∧ r.flags = 0#32) ∧
     (Computes c (.imaxLong f .u32) x l fun r => r.val.lo.toNat = max a.lo.toNat b.lo.toNat ∧ r.flags = 0#32) ∧
     (Computes c (.imaxLong f .s64) x l fun r => r.val.toInt = max a.toInt b.toInt ∧ r.flags = 0#32) ∧
     (Computes c (.imaxLong f .u64) x l fun r => r.val.toNat = max a.toNat b.toNat ∧ r.flags = 0#32) ∧
     (Computes c (.iabsLong u .s32) x l fun r => r.val.toNat = a.lo.toInt.natAbs % 2 ^ 32 ∧ r.flags = 0#32) ∧
     (Computes c (.iabsLong u .s64) x l fun r => r.val.toNat = a.toInt.natAbs % 2 ^ 64 ∧ r.flags = 0#32)) ∧
  (∀ (c : Cx) (d a b : Opnd) (pa : Perm) (k : Carry) (g : Guard) (f : L3) (p : BitVec 3) (x : Args) (l : Nat),
     let va := (x.src 0 l).lo.toNat
     let vb := (x.src 1 l).lo.toNat
     let cin := if k.cin.isSome && (x.src 2 l).getLsbD 0 then 1 else 0
     (Computes c (.iaddc d a b pa k g) x l fun r =>
       r.val.toNat = (va + vb + cin) % 2 ^ 32 ∧ (r.carry = true ↔ 2 ^ 32 ≤ va + vb + cin) ∧ r.flags = 0#32) ∧
     (Computes c (.isubb d a b pa k g) x l fun r =>
       (r.val.toNat : Int) = ((va : Int) - vb - cin) % 2 ^ 32 ∧ (r.carry = true ↔ (va : Int) - vb - cin < 0) ∧ r.flags = 0#32) ∧
     (Computes c (.imadw f p) x l fun r =>
       r.val.toNat = (va * vb + (x.src 2 l).toNat) % 2 ^ 64 ∧ (r.carry = true ↔ 2 ^ 64 ≤ va * vb + (x.src 2 l).toNat) ∧
       r.flags = 0#32) ∧
     ∀ t, Computes c (.imad f t) x l fun r => r.val.toNat = (va * vb + (x.src 2 l).lo.toNat) % 2 ^ 32 ∧ r.flags = 0#32) ∧
  (∀ (c : Cx) (f : L2) (h : Shi) (t : ShiftTy) (x : Args) (l : Nat),
     let a := (x.src 0 l).lo
     let b := (x.src 1 l).lo.toNat
     (Computes c (.shlLong f t) x l fun r => r.val.toNat = if 32 ≤ b then 0 else a.toNat * 2 ^ b % 2 ^ 32) ∧
     (Computes c (.shrLong f t) x l fun r => r.val.toNat = if 32 ≤ b then 0 else a.toNat / 2 ^ b) ∧
     (Computes c (.sarLong f t) x l fun r => r.val.lo.toInt = a.toInt / 2 ^ (min b 31)) ∧
     (Computes c (.shl h) x l fun r => r.val.toNat = a.toNat * 2 ^ h.n.toNat % 2 ^ 32) ∧
     (Computes c (.shr h) x l fun r => r.val.toNat = a.toNat / 2 ^ h.n.toNat) ∧
     (Computes c (.sar h) x l fun r => r.val.lo.toInt = a.toInt / 2 ^ h.n.toNat))

/-- R301, R304, R305, R309, R315, R357, R370, R373, R413: bitwise functions bit by bit, counts, and bit fields. R106, R341,
R355, R366, R371, R372, R385: comparisons in the type, selection, address arithmetic, the predicate moves and the immediate. -/
def Obligations.LogicCompareAndSelectValues : Prop :=
  (∀ (c : Cx) (f : L2) (u : L2u) (h : L3) (fn : BitVec 8) (x : Args) (l : Nat),
     let a := (x.src 0 l).lo
     let b := (x.src 1 l).lo
     let k := (x.src 2 l).lo
     (Computes c (.andLong f) x l fun r => ∀ i, i < 32 → r.val.getLsbD i = (a.getLsbD i && b.getLsbD i)) ∧
     (Computes c (.orLong f) x l fun r => ∀ i, i < 32 → r.val.getLsbD i = (a.getLsbD i || b.getLsbD i)) ∧
     (Computes c (.xorLong f) x l fun r => ∀ i, i < 32 → r.val.getLsbD i = (a.getLsbD i != b.getLsbD i)) ∧
     (Computes c (.logic3 h fn) x l fun r => ∀ i, i < 32 →
       r.val.getLsbD i = fn.getLsbD ((a.getLsbD i).toNat + 2 * (b.getLsbD i).toNat + 4 * (k.getLsbD i).toNat)) ∧
     (Computes c (.popcLong u) x l fun r => r.val.toNat = ((List.range 32).filter fun i => a.getLsbD i).length) ∧
     (Computes c (.clzLong u) x l fun r => r.val.toNat ≤ 32 ∧ (∀ i, 32 - r.val.toNat ≤ i → a.getLsbD i = false) ∧
       (r.val.toNat < 32 → a.getLsbD (31 - r.val.toNat) = true)) ∧
     (Computes c (.brevLong u) x l fun r => ∀ i, i < 32 → r.val.getLsbD i = a.getLsbD (31 - i)) ∧
     (Computes c (.bfi h) x l fun r =>
       let p := min (k.toNat % 256) 32
       let n := min (k.toNat / 256 % 256) (32 - p)
       ∀ i, i < 32 → r.val.getLsbD i = if p ≤ i ∧ i < p + n then a.getLsbD (i - p) else b.getLsbD i) ∧
     (∀ t, Computes c (.bfx h t) x l fun r =>
       let p := min (b.toNat % 256) 32
       let n := min (k.toNat % 256) (32 - p)
       ∀ i, i < 32 → r.val.getLsbD i =
         if i < n then a.getLsbD (p + i) else decide (t = .s32) && decide (0 < n) && a.getLsbD (p + n - 1))) ∧
  (∀ (c : Cx) (f : L2) (h : L3) (u : L2u) (d a b : Opnd) (g : Guard) (lut : BitVec 4) (imm : Word) (x : Args) (l : Nat),
     let va := x.src 0 l
     let vb := x.src 1 l
     let holds := fun (k : ICmp) (m n : Int) => match k with
       | .eq => m = n | .ne => m ≠ n | .lt => m < n | .le => m ≤ n | .gt => n < m | .ge => n ≤ m
     (∀ k, Computes c (.icmp f .s32 k) x l fun r => (r.val = 1#64 ∨ r.val = 0#64) ∧ (r.val = 1#64 ↔ holds k va.lo.toInt vb.lo.toInt)) ∧
     (∀ k, Computes c (.icmp f .u32 k) x l fun r => (r.val = 1#64 ∨ r.val = 0#64) ∧ (r.val = 1#64 ↔ holds k va.lo.toNat vb.lo.toNat)) ∧
     (∀ k, Computes c (.icmp f .s64 k) x l fun r => (r.val = 1#64 ∨ r.val = 0#64) ∧ (r.val = 1#64 ↔ holds k va.toInt vb.toInt)) ∧
     (∀ k, Computes c (.icmp f .u64 k) x l fun r => (r.val = 1#64 ∨ r.val = 0#64) ∧ (r.val = 1#64 ↔ holds k va.toNat vb.toNat)) ∧
     (∀ t, Computes c (.sel h t) x l fun r => r.val = if (x.src 2 l).getLsbD 0 then va else vb) ∧
     (Computes c (.lea h .u32) x l fun r =>
       r.val.toNat = (va.lo.toNat + vb.lo.toNat * 2 ^ ((x.src 2 l).lo.toNat % 64)) % 2 ^ 32) ∧
     (Computes c (.lea h .u64) x l fun r =>
       r.val.toNat = (va.toNat + vb.lo.toNat * 2 ^ ((x.src 2 l).lo.toNat % 64)) % 2 ^ 64) ∧
     (Computes c (.lea h .s64) x l fun r =>
       (r.val.toNat : Int) = ((va.toNat : Int) + vb.lo.toInt * 2 ^ ((x.src 2 l).lo.toNat % 64)) % 2 ^ 64) ∧
     (Computes c (.plop d a b lut g) x l fun r => r.val =
       if lut.getLsbD (2 * (va.getLsbD 0).toNat + (vb.getLsbD 0).toNat) then 1#64 else 0#64) ∧
     (Computes c (.pmov .p u) x l fun r => r.val = if va.getLsbD 0 then 1#64 else 0#64) ∧
     (Computes c (.pmov .nz u) x l fun r => r.val = if va = 0#64 then 0#64 else 1#64) ∧
     (Computes c (.pmov .frommask u) x l fun r => r.val = if va.getLsbD l then 1#64 else 0#64) ∧
     (Computes c (.pmov .tomask u) x l fun r => ∀ k, k < 64 → x.w ≤ 64 →
       r.val.getLsbD k = (decide (k < x.w) && x.act.has k && (x.src 0 k).getLsbD 0)) ∧
     (Computes c (.movi d imm) x l fun r => r.val.lo = imm))

/-- R360, R361, R375, R388, R400: a shuffle reads the lane that its index names when that lane is below W; a match gives the acting
lanes with the same value; a vote combines the acting lanes that are no helper lanes. -/
def Obligations.CrossLaneValues : Prop :=
  ∀ (c : Cx) (f : L2) (u : L2u) (t : BitTy) (d a : Opnd) (g : Guard) (x : Args) (l : Nat), x.w ≤ 64 →
    let b := (x.src 1 l).lo.toNat
    let same := fun k => decide (k < x.w) && x.act.has k && x.src 0 k == x.src 0 l
    let votes := fun k => decide (k < x.w) && x.act.has k && !x.help.has k
    (Computes c (.shfl f t false) x l fun r => r.val = x.src 0 (if b < x.w then b else l)) ∧
    (Computes c (.shfl f t true) x l fun r => r.val = x.src 0 (if l ^^^ b < x.w then l ^^^ b else l)) ∧
    (Computes c (.qswz f t) x l fun r => r.val = x.src 0 (4 * (l / 4) + (x.src 1 l).toNat % 4)) ∧
    (Computes c (.matchLanes u t false) x l fun r => ∀ k, k < 64 → r.val.getLsbD k = same k) ∧
    (Computes c (.matchLanes u t true) x l fun r =>
      ((∀ k, k < 64 → x.act.has k = same k) → r.val = x.act) ∧ (¬ (∀ k, k < 64 → x.act.has k = same k) → r.val = 0#64)) ∧
    (Computes c (.vote .mask d a g) x l fun r => ∀ k, k < 64 → r.val.getLsbD k = (votes k && (x.src 0 k).getLsbD 0)) ∧
    (Computes c (.vote .some d a g) x l fun r => (r.val = 1#64 ∨ r.val = 0#64) ∧
      (r.val = 1#64 ↔ ∃ k, k < 64 ∧ votes k = true ∧ (x.src 0 k).getLsbD 0 = true)) ∧
    ((∀ k, k < 64 → x.act.has k = true → k < x.w) →
      (Computes c (.vote .every d a g) x l fun r => (r.val = 1#64 ∨ r.val = 0#64) ∧
        (r.val = 1#64 ↔ ∀ k, k < 64 → votes k = true → (x.src 0 k).getLsbD 0 = true)) ∧
      Computes c (.vote .agree d a g) x l fun r => (r.val = 1#64 ∨ r.val = 0#64) ∧
        (r.val = 1#64 ↔ ∀ j k, j < 64 → k < 64 → votes j = true → votes k = true → (x.src 0 j).getLsbD 0 = (x.src 0 k).getLsbD 0))

/-- R71, R72, R76, R77, R325 to R327, R330 to R332, R334: special values of the float instructions, whichever operand has them and with either
sign: NaN operands give the canonical NaN, an invalid sum, difference or product gives it with NV, zeros (and under `.ftz` subnormals) add to
the zero of R76, the smaller and the larger of a number and a NaN are the number, flushed under `.ftz`, with NV when the NaN signals, −0 lies
below +0, a class word has exactly one bit, and an unordered comparison holds only under the unordered codes. -/
def Obligations.FloatSpecialValues : Prop :=
  ∀ (c : Cx) (f : L2) (u : L2u) (m : FMod) (z : Bool) (x : Args) (l : Nat),
    let a := (x.src 0 l).toNat
    let b := (x.src 1 l).toNat
    let nan := fun (v : Nat) => (v / 2 ^ 23) % 2 ^ 8 = 255 ∧ v % 2 ^ 23 ≠ 0
    let snan := fun (v : Nat) => nan v ∧ v.testBit 22 = false
    let inf := fun (v : Nat) => v = 0x7F800000 ∨ v = 0xFF800000
    let tiny := fun (ftz : Bool) (v : Nat) => v = 0 ∨ v = 0x80000000 ∨ (ftz = true ∧ v < 2 ^ 32 ∧ (v / 2 ^ 23) % 2 ^ 8 = 0)
    let zero := fun (neg : Bool) => if neg then 0x80000000#64 else 0#64
    let flushed := fun (v : Nat) => if z && (v / 2 ^ 23) % 2 ^ 8 == 0 then (if 2 ^ 31 ≤ v then 0x80000000 else 0) else v
    ((nan a ∨ nan b) →
      (Computes c (.faddLong f m) x l fun r => r.val = 0x7FC00000#64 ∧ (r.flags = 1#32 ↔ snan a ∨ snan b)) ∧
      (Computes c (.fsubLong f m) x l fun r => r.val = 0x7FC00000#64 ∧ (r.flags = 1#32 ↔ snan a ∨ snan b)) ∧
      (Computes c (.fmulLong f m) x l fun r => r.val = 0x7FC00000#64 ∧ (r.flags = 1#32 ↔ snan a ∨ snan b))) ∧
    (inf a → inf b → a ≠ b → Computes c (.faddLong f m) x l fun r => r.val = 0x7FC00000#64 ∧ r.flags = 1#32) ∧
    (inf a → a = b → Computes c (.fsubLong f m) x l fun r => r.val = 0x7FC00000#64 ∧ r.flags = 1#32) ∧
    (inf a ∧ tiny m.ftz b ∨ tiny m.ftz a ∧ inf b → Computes c (.fmulLong f m) x l fun r => r.val = 0x7FC00000#64 ∧ r.flags = 1#32) ∧
    (tiny m.ftz a → tiny m.ftz b →
      let na := decide (2 ^ 31 ≤ a)
      let nb := decide (2 ^ 31 ≤ b)
      (Computes c (.faddLong f m) x l fun r => r.val = zero (if na = nb then na else m.rnd == .rdn) ∧ r.flags = 0#32) ∧
      (Computes c (.fsubLong f m) x l fun r => r.val = zero (if na = nb then m.rnd == .rdn else na) ∧ r.flags = 0#32) ∧
      Computes c (.fmulLong f m) x l fun r => r.val = zero (na != nb) ∧ r.flags = 0#32) ∧
    (a < 2 ^ 32 → b < 2 ^ 32 → ∀ i, i = Instr.fminLong f z ∨ i = .fmaxLong f z →
      (nan a → ¬ nan b → Computes c i x l fun r => r.val.toNat = flushed b ∧ (r.flags = 1#32 ↔ snan a) ∧ (r.flags = 0#32 ↔ ¬ snan a)) ∧
      (nan b → ¬ nan a → Computes c i x l fun r => r.val.toNat = flushed a ∧ (r.flags = 1#32 ↔ snan b) ∧ (r.flags = 0#32 ↔ ¬ snan b)) ∧
      (nan a → nan b → Computes c i x l fun r => r.val = 0x7FC00000#64 ∧ (r.flags = 1#32 ↔ snan a ∨ snan b))) ∧
    (tiny z a → tiny z b →
      (Computes c (.fminLong f z) x l fun r => r.val = zero (decide (2 ^ 31 ≤ a) || decide (2 ^ 31 ≤ b)) ∧ r.flags = 0#32) ∧
      Computes c (.fmaxLong f z) x l fun r => r.val = zero (decide (2 ^ 31 ≤ a) && decide (2 ^ 31 ≤ b)) ∧ r.flags = 0#32) ∧
    (∀ t, Computes c (.fclass u t) x l fun r => ∃ k, k < 10 ∧ r.val = 1#64 <<< k) ∧
    ((nan a ∨ nan b) → ∀ k, Computes c (.fcmp f .f32 k) x l fun r =>
      r.val = if k = .equ ∨ k = .neu ∨ k = .ltu ∨ k = .leu ∨ k = .gtu ∨ k = .geu ∨ k = .nan then 1#64 else 0#64)

/-- R71, R72, R76 to R78, R90, R320, R322, R325, R329, R332, R334, R337: a sum, a product, a fused multiply-add whose exact value is a
nonzero value of the format is that value, in every rounding mode, without a flag; a NaN operand gives the canonical NaN, with NV exactly when one
is signalling or the product is 0 × Inf, and 0 × Inf gives it whatever the addend. -/
def Obligations.FusedFloatValues : Prop :=
  ∀ (c : Cx) (f : L2) (h : L3) (m : FMod) (t : HalfTy) (x : Args) (l : Nat),
    let a := (x.src 0 l).toNat
    let b := (x.src 1 l).toNat
    let k := (x.src 2 l).toNat
    (∀ y, ExactSum fp32 m a b y false → Computes c (.faddLong f m) x l fun r => r.val.toNat = y ∧ r.flags = 0#32) ∧
    (∀ y, ExactSum fp32 m a b y true → Computes c (.fsubLong f m) x l fun r => r.val.toNat = y ∧ r.flags = 0#32) ∧
    (∀ y, ExactSum fp64 m a b y false → Computes c (.dadd f m) x l fun r => r.val.toNat = y ∧ r.flags = 0#32) ∧
    (∀ y, ExactFma fp32 m a b 0 y → Computes c (.fmulLong f m) x l fun r => r.val.toNat = y ∧ r.flags = 0#32) ∧
    (∀ y, ExactFma fp32 m a b k y → Computes c (.ffma h m) x l fun r => r.val.toNat = y ∧ r.flags = 0#32) ∧
    (∀ y, ExactFma fp64 m a b k y → Computes c (.dfma h m) x l fun r => r.val.toNat = y ∧ r.flags = 0#32) ∧
    (∀ y z, ExactFma (halfFmt t) m (a % 65536) (b % 65536) (k % 65536) y →
      ExactFma (halfFmt t) m (a / 65536 % 65536) (b / 65536 % 65536) (k / 65536 % 65536) z →
      Computes c (.halfmad h t m) x l fun r => r.val.toNat = y + 65536 * z ∧ r.flags = 0#32) ∧
    (let nan := fun (e w v : Nat) => v / 2 ^ w % 2 ^ e = 2 ^ e - 1 ∧ v % 2 ^ w ≠ 0
     let sig := fun (e w v : Nat) => nan e w v ∧ v.testBit (w - 1) = false
     let inf := fun (e w v : Nat) => v / 2 ^ w % 2 ^ e = 2 ^ e - 1 ∧ v % 2 ^ w = 0
     let zero := fun (e w v : Nat) => v % 2 ^ (e + w) = 0 ∨ m.ftz = true ∧ v / 2 ^ w % 2 ^ e = 0
     let bad := fun (e w : Nat) => inf e w a ∧ zero e w b ∨ zero e w a ∧ inf e w b
     let any := fun (e w : Nat) => nan e w a ∨ nan e w b ∨ nan e w k
     let nv := fun (e w : Nat) => sig e w a ∨ sig e w b ∨ sig e w k ∨ bad e w
     (any 8 23 ∨ bad 8 23 → Computes c (.ffma h m) x l fun r => r.val = 0x7FC00000#64 ∧ (r.flags = 1#32 ↔ nv 8 23)) ∧
     (any 11 52 ∨ bad 11 52 → Computes c (.dfma h m) x l fun r => r.val = 0x7FF8000000000000#64 ∧ (r.flags = 1#32 ↔ nv 11 52)) ∧
     (nan 11 52 a ∨ nan 11 52 b → Computes c (.dadd f m) x l fun r =>
       r.val = 0x7FF8000000000000#64 ∧ (r.flags = 1#32 ↔ sig 11 52 a ∨ sig 11 52 b)) ∧
     (nan 5 10 a → Computes c (.halfmad h .f16 m) x l fun r => r.val.toNat % 65536 = 0x7E00))

/-- R76, R77, R80, R105, R318, R333: `FRND` gives the integer that its mode names, with x's sign when it is 0, and NX only under `.exact`; `CVT`
gives a value that the destination's format holds, a rounded and saturated integer with NV or NX, and an integer's low bits, extended; a NaN
gives the canonical NaN or 0. -/
def Obligations.ConversionValues : Prop :=
  ∀ (c : Cx) (u : L2u) (m : FMod) (ex : Bool) (ty : FloatTy) (dt st : CvtTy) (rnd : Rnd) (x : Args) (l : Nat),
    let a := (x.src 0 l).toNat
    let ff := floatFmt ty
    (a < 2 ^ (ff.sbit + 1) →
      (∀ s, ff.decode a = .nan s → Computes c (.frnd u ty m ex) x l fun r => r.val.toNat = ff.nan ∧ (r.flags = 1#32 ↔ s = true)) ∧
      (∀ n, ff.decode a = .inf n → Computes c (.frnd u ty m ex) x l fun r => r.val.toNat = a ∧ r.flags = 0#32) ∧
      (∀ n man e, NoFlush ff m.ftz [a] → ff.decode a = .fin n man e → Computes c (.frnd u ty m ex) x l fun r =>
        (0 ≤ e ∨ man % 2 ^ (-e).toNat = 0 → r.val.toNat = a ∧ r.flags = 0#32) ∧
        (e < 0 → man % 2 ^ (-e).toNat ≠ 0 → r.flags = (if ex then 16#32 else 0#32) ∧
          ∃ k, RoundsTo m.rnd n man (2 ^ (-e).toNat) k ∧ (k = 0 → r.val.toNat = if n then 2 ^ ff.sbit else 0) ∧
            (k ≠ 0 → ∃ v, HoldsMag ff r.val.toNat v ∧ SumsTo (n, k, 0) (false, 0, 0) v)))) ∧
    (∀ f g, cvtFmt dt = some f → cvtFmt st = some g → a < 2 ^ (g.sbit + 1) →
      (∀ s, g.decode a = .nan s → Computes c (.cvt u rnd dt st) x l fun r => r.val.toNat = f.nan ∧ (r.flags = 1#32 ↔ s = true)) ∧
      (∀ y v w, HoldsMag g a v → HoldsMag f y w → SumsTo v (false, 0, 0) w → Computes c (.cvt u rnd dt st) x l fun r =>
        r.val.toNat = y ∧ r.flags = 0#32) ∧
      (∀ n, g.decode a = .inf n → f.inf = true → Computes c (.cvt u rnd dt st) x l fun r => f.decode r.val.toNat = .inf n ∧ r.flags = 0#32) ∧
      (∀ n, g.decode a = .inf n → f.inf = false → Computes c (.cvt u rnd dt st) x l fun r =>
        r.val.toNat = (if n then 0xFE else 0x7E) ∧ r.flags = 0x200#32)) ∧
    (∀ f y v, cvtFmt dt = some f → cvtFmt st = none → HoldsMag f y v →
      let i := intFrom (cvtInt st).1 (cvtInt st).2 a
      SumsTo (decide (i < 0), i.natAbs, 0) (false, 0, 0) v → Computes c (.cvt u rnd dt st) x l fun r => r.val.toNat = y ∧ r.flags = 0#32) ∧
    (∀ g, cvtFmt dt = none → cvtFmt st = some g → a < 2 ^ (g.sbit + 1) →
      let w := (cvtInt dt).1
      let lo : Int := if (cvtInt dt).2 then -2 ^ (w - 1) else 0
      let hi : Int := if (cvtInt dt).2 then 2 ^ (w - 1) - 1 else 2 ^ w - 1
      let is := fun (r : LaneRes) (i : Int) => intFrom w (cvtInt dt).2 r.val.toNat = i
      (∀ s, g.decode a = .nan s → Computes c (.cvt u rnd dt st) x l fun r => r.val = 0#64 ∧ r.flags = 1#32) ∧
      (∀ n, g.decode a = .inf n → Computes c (.cvt u rnd dt st) x l fun r => is r (if n then lo else hi) ∧ r.flags = 1#32) ∧
      (∀ n man e, g.decode a = .fin n man e → Computes c (.cvt u rnd dt st) x l fun r =>
        ∃ k, RoundsTo rnd n (man * 2 ^ e.toNat) (2 ^ (-e).toNat) k ∧
          let i : Int := if n then -(k : Int) else k
          (i < lo → is r lo ∧ r.flags = 1#32) ∧ (hi < i → is r hi ∧ r.flags = 1#32) ∧
          (lo ≤ i → i ≤ hi → is r i ∧ r.flags = if man * 2 ^ e.toNat % 2 ^ (-e).toNat = 0 then 0#32 else 16#32))) ∧
    (cvtFmt dt = none → cvtFmt st = none → Computes c (.cvt u rnd dt st) x l fun r => r.flags = 0#32 ∧
      (r.val.toNat : Int) % 2 ^ (cvtInt dt).1 = intFrom (cvtInt st).1 (cvtInt st).2 a % 2 ^ (cvtInt dt).1 ∧
      ((cvtInt dt).1 < 32 → ∀ i, (cvtInt dt).1 ≤ i → i < 32 →
        r.val.getLsbD i = ((cvtInt dt).2 && r.val.getLsbD ((cvtInt dt).1 - 1))))

/-- R90, R378, R384: an integer `REDUX` gives the sum, the bitwise combination, the least or the greatest of the acting lanes' words; an integer
`SCAN` the same of the acting lanes up to each lane, or below it, where the identity stands for none; no flag is raised. For `.f32` one acting
lane's value is the result as it stands. -/
def Obligations.ReductionValues : Prop :=
  ∀ (c : Cx) (u : L2u) (m : ReduxMod) (x : Args) (l : Nat), x.w ≤ 64 → l < x.w →
    let acts := (List.range x.w).filter fun k => x.act.has k
    let upto := fun (ex : Bool) => acts.filter fun k => decide (k < l) || (!ex && k == l)
    let word := fun (k : Nat) => (x.src 0 k).lo
    let sum := fun (ks : List Nat) => ((ks.map fun k => (word k).toNat).sum) % 2 ^ 32
    let least := fun (ks : List Nat) (v : Word) (le : Word → Word → Prop) => (∃ k ∈ ks, v = word k) ∧ ∀ k ∈ ks, le v (word k)
    let order := fun (m : ReduxMod) => match m.op, m.ty with
      | .min, .s32 => some fun (v w : Word) => v.toInt ≤ w.toInt
      | .min, .u32 => some fun v w => v.toNat ≤ w.toNat
      | .max, .s32 => some fun v w => w.toInt ≤ v.toInt
      | .max, .u32 => some fun v w => w.toNat ≤ v.toNat
      | _, _ => none
    let none_ := if m.op = .min then (if m.ty = .s32 then 0x7FFFFFFF#64 else 0xFFFFFFFF#64) else if m.ty = .s32 then 0x80000000#64 else 0#64
    (m.op = .add → m.ty ≠ .f32 → acts ≠ [] → Computes c (.redux u m) x l fun r => r.val.lo.toNat = sum acts ∧ r.flags = 0#32) ∧
    (m.op = .and → acts ≠ [] → Computes c (.redux u m) x l fun r => r.flags = 0#32 ∧
      ∀ i, i < 32 → r.val.getLsbD i = acts.all fun k => (word k).getLsbD i) ∧
    (m.op = .or → acts ≠ [] → Computes c (.redux u m) x l fun r => r.flags = 0#32 ∧
      ∀ i, i < 32 → r.val.getLsbD i = acts.any fun k => (word k).getLsbD i) ∧
    (m.op = .xor → acts ≠ [] → Computes c (.redux u m) x l fun r => r.flags = 0#32 ∧
      ∀ i, i < 32 → r.val.getLsbD i = decide ((acts.filter fun k => (word k).getLsbD i).length % 2 = 1)) ∧
    (acts ≠ [] → ∀ le, order m = some le → Computes c (.redux u m) x l fun r => least acts r.val.lo le ∧ r.flags = 0#32) ∧
    (∀ k, acts = [k] → Computes c (.redux u m) x l fun r => r.val = x.src 0 k ∧ r.flags = 0#32) ∧
    ∀ ex, let ks := upto ex
      (ex = true ∨ x.act.has l = true) →
      (m.op = .add → m.ty ≠ .f32 → Computes c (.scan u m ex) x l fun r => r.val.lo.toNat = sum ks ∧ r.flags = 0#32) ∧
      (m.op = .and → Computes c (.scan u m ex) x l fun r => r.flags = 0#32 ∧
        ∀ i, i < 32 → r.val.getLsbD i = ks.all fun k => (word k).getLsbD i) ∧
      (m.op = .or → Computes c (.scan u m ex) x l fun r => r.flags = 0#32 ∧
        ∀ i, i < 32 → r.val.getLsbD i = ks.any fun k => (word k).getLsbD i) ∧
      (m.op = .xor → Computes c (.scan u m ex) x l fun r => r.flags = 0#32 ∧
        ∀ i, i < 32 → r.val.getLsbD i = decide ((ks.filter fun k => (word k).getLsbD i).length % 2 = 1)) ∧
      ∀ le, order m = some le → Computes c (.scan u m ex) x l fun r => r.flags = 0#32 ∧
        (ks = [] → r.val = none_) ∧ (ks ≠ [] → least ks r.val.lo le)

/-- R72, R77, R132, R135, R297, R300, R317, R324, R356, R376, R381, R391, R393, R396: `RCP`, `SQRT` and `RSQ` of a finite x are
within half a unit of the last place of the exact value; the other functions at their exact points; special operands give
the table's results and flags; an activation table gives its words below and above its range, and c0 at a segment's start.
How the functions without a closed form are computed is the model's reading (log 22); that BELOW or ABOVE is given as its
word stands, a NaN pattern too, is the model's choice (log 37). -/
def Obligations.SfuValues : Prop :=
  ∀ (c : Cx) (u : L2u) (z : Bool) (x : Args) (l : Nat),
    let a := (x.src 0 l).toNat
    a < 2 ^ 32 → NoFlush fp32 z [a] →
    (∀ s, fp32.decode a = .nan s → ∀ i, i ∈ [Instr.rcpLong u z, .rsqLong u z, .sqrtLong u z, .exp2Long u z, .log2Long u z, .sinLong u z,
        .cosLong u z, .tanhLong u z] → Computes c i x l fun r => r.val = 0x7FC00000#64 ∧ (r.flags = 1#32 ↔ s = true)) ∧
    -- zeros
    (a = 0 ∨ a = 0x80000000 →
      (Computes c (.rcpLong u z) x l fun r => r.val.toNat = 0x7F800000 + a ∧ r.flags = 2#32) ∧
      (Computes c (.rsqLong u z) x l fun r => r.val.toNat = 0x7F800000 + a ∧ r.flags = 2#32) ∧
      (Computes c (.sqrtLong u z) x l fun r => r.val.toNat = a ∧ r.flags = 0#32) ∧
      (Computes c (.exp2Long u z) x l fun r => r.val = 0x3F800000#64 ∧ r.flags = 0#32) ∧
      (Computes c (.log2Long u z) x l fun r => r.val = 0xFF800000#64 ∧ r.flags = 2#32) ∧
      (Computes c (.sinLong u z) x l fun r => r.val.toNat = a ∧ r.flags = 0#32) ∧
      (Computes c (.cosLong u z) x l fun r => r.val = 0x3F800000#64 ∧ r.flags = 0#32) ∧
      Computes c (.tanhLong u z) x l fun r => r.val.toNat = a ∧ r.flags = 0#32) ∧
    -- infinities
    (∀ n, fp32.decode a = .inf n →
      (Computes c (.rcpLong u z) x l fun r => r.val.toNat = (if n then 0x80000000 else 0) ∧ r.flags = 0#32) ∧
      (Computes c (.rsqLong u z) x l fun r => r.val.toNat = (if n then 0x7FC00000 else 0) ∧ r.flags = if n then 1#32 else 0#32) ∧
      (Computes c (.sqrtLong u z) x l fun r => r.val.toNat = (if n then 0x7FC00000 else a) ∧ r.flags = if n then 1#32 else 0#32) ∧
      (Computes c (.exp2Long u z) x l fun r => r.val.toNat = (if n then 0 else a) ∧ r.flags = 0#32) ∧
      (Computes c (.log2Long u z) x l fun r => r.val.toNat = (if n then 0x7FC00000 else a) ∧ r.flags = if n then 1#32 else 0#32) ∧
      (Computes c (.sinLong u z) x l fun r => r.val = 0x7FC00000#64 ∧ r.flags = 1#32) ∧
      (Computes c (.cosLong u z) x l fun r => r.val = 0x7FC00000#64 ∧ r.flags = 1#32) ∧
      Computes c (.tanhLong u z) x l fun r => r.val.toNat = (if n then 0xBF800000 else 0x3F800000) ∧ r.flags = 0#32) ∧
    -- negative numbers
    (∀ man e, fp32.decode a = .fin true man e → man ≠ 0 → ∀ i, i ∈ [Instr.rsqLong u z, .sqrtLong u z, .log2Long u z] →
      Computes c i x l fun r => r.val = 0x7FC00000#64 ∧ r.flags = 1#32) ∧
    -- finite numbers
    (∀ n man e, fp32.decode a = .fin n man e → man ≠ 0 →
      (Computes c (.rcpLong u false) x l fun r =>
        (fp32.decode r.val.toNat = .inf n ∧ r.flags = 4#32 ∧ man * 2 ^ (e + 149).toNat ≤ 2 ^ 21) ∨
        (r.flags = 0#32 ∧ ∃ v, HoldsMag fp32 r.val.toNat v ∧ v.1 = n ∧ e + v.2.2 ≤ 0 ∧
          let p := 2 ^ (-(e + v.2.2)).toNat
          2 * (v.2.1 * man) ≤ 2 * p + man ∧ 2 * p ≤ 2 * (v.2.1 * man) + man)) ∧
      (n = false → Computes c (.sqrtLong u false) x l fun r => r.flags = 0#32 ∧ ∃ v, HoldsMag fp32 r.val.toNat v ∧ v.1 = false ∧ v.2.1 ≠ 0 ∧
        2 * v.2.2 ≤ e ∧
        let p := 4 * man * 2 ^ (e - 2 * v.2.2).toNat
        (2 * v.2.1 - 1) ^ 2 ≤ p ∧ p ≤ (2 * v.2.1 + 1) ^ 2) ∧
      (n = false → Computes c (.rsqLong u false) x l fun r => r.flags = 0#32 ∧ ∃ v, HoldsMag fp32 r.val.toNat v ∧ v.1 = false ∧ v.2.1 ≠ 0 ∧
        2 * v.2.2 + e ≤ 0 ∧
        let p := 4 * 2 ^ (-(2 * v.2.2 + e)).toNat
        (2 * v.2.1 - 1) ^ 2 * man ≤ p ∧ p ≤ (2 * v.2.1 + 1) ^ 2 * man) ∧
      (∀ k : Int, -149 ≤ k → k ≤ 127 → SumsTo (n, man, e) (false, 0, 0) (decide (k < 0), k.natAbs, 0) →
        Computes c (.exp2Long u false) x l fun r => r.flags = 0#32 ∧ ∃ v, HoldsMag fp32 r.val.toNat v ∧ SumsTo (false, 1, k) (false, 0, 0) v) ∧
      (n = false → 128 * 2 ^ (-e).toNat ≤ man * 2 ^ e.toNat → Computes c (.exp2Long u z) x l fun r => r.val = 0x7F800000#64 ∧ r.flags = 4#32) ∧
      (∀ k : Nat, n = false → man = 2 ^ k → e + k ≠ 0 → Computes c (.log2Long u z) x l fun r => r.flags = 0#32 ∧
        ∃ v, HoldsMag fp32 r.val.toNat v ∧ SumsTo (decide (e + k < 0), (e + k).natAbs, 0) (false, 0, 0) v) ∧
      (a = 0x3F800000 → Computes c (.log2Long u z) x l fun r => r.val = 0#64 ∧ r.flags = 0#32) ∧
      (∀ k : Nat, k < 4 → 4 * (man * 2 ^ e.toNat) % (4 * 2 ^ (-e).toNat) = k * 2 ^ (-e).toNat →
        (Computes c (.sinLong u z) x l fun r => r.flags = 0#32 ∧
          r.val.toNat = if k % 2 = 0 then 0 else if (k == 3) = n then 0x3F800000 else 0xBF800000) ∧
        Computes c (.cosLong u z) x l fun r => r.flags = 0#32 ∧ r.val.toNat = if k % 2 = 1 then 0 else if k = 0 then 0x3F800000 else 0xBF800000) ∧
      (man * 2 ^ e.toNat * 8192 < 2 ^ (-e).toNat → Computes c (.tanhLong u z) x l fun r => r.val.toNat = a ∧ r.flags = 0#32) ∧
      (10 * 2 ^ (-e).toNat ≤ man * 2 ^ e.toNat → Computes c (.tanhLong u z) x l fun r =>
        r.val.toNat = (if n then 0xBF800000 else 0x3F800000) ∧ r.flags = 0#32)) ∧
    -- activation tables
    ∀ (t : Fin 8) (m : Sem), guardedSem c (.actv u t false) = some m →
      let img := (c.cst.act c.l.ctxid t.val).image
      let r := m.f x l
      (∀ s, fp32.decode a = .nan s → r.val = 0x7FC00000#64 ∧ (r.flags = 1#32 ↔ s = true)) ∧
      (∀ n, fp32.decode a = .inf n → r.val.toNat = imgWord img (if n then 8 else 12) ∧ r.flags = 0#32) ∧
      ∀ v lo, HoldsMag fp32 a v → HoldsMag fp32 (imgWord img 0) lo →
        let st := actStep img
        let q := min v.2.2 (min lo.2.2 st)
        let diff := sigAt v.1 v.2.1 v.2.2 q - sigAt lo.1 lo.2.1 lo.2.2 q
        let step : Int := 2 ^ (st - q).toNat
        (diff < 0 → r.val.toNat = imgWord img 8 ∧ r.flags = 0#32) ∧
        (256 * step ≤ diff → r.val.toNat = imgWord img 12 ∧ r.flags = 0#32) ∧
        ∀ i : Nat, i < 256 → diff = i * step → (∀ j, j < 3 → ∃ w : Mag, HoldsMag fp32 (imgWord img (16 + 12 * i + 4 * j)) w ∧ (j = 0 → w.2.1 ≠ 0)) →
          r.val.toNat = imgWord img (16 + 12 * i) ∧ r.flags = 0#32

/-! ### Moves, random numbers, chains, special registers -/

/-- R43: a `MOV` between registers of one class with an identity permutation, whose result would take part in lookup (R42),
points its destination at its source's entry: it forms no key, counts no bind, and the destination reads what the source
read. Every other `MOV` (a permutation, another class, a source that is no register) is a lane operation that forms a key
like any other. -/
def Obligations.MovSharesItsSource : Prop :=
  ∀ (i : Instr) (s : State) (c : Cx) (m : Sem) (pa : Perm), Issues i s c → IdsInv s →
    ((∃ f : Rr, i = .mov f ∧ m = semMov (longRr f) 1 .b32 ∧ pa = .ident) ∨
      ∃ (f : L2u) (t : BitTy), i = .movLong f t ∧ m = semMov f 2 t ∧ pa = f.pa) →
    let src := (c.resolve (m.srcs.getD 0 default)).reg?
    let dst := (c.resolve m.dst).reg?
    ((pa ≠ .ident ∨ src.map (·.1) ≠ dst.map (·.1) ∨ src = none ∨ c.looksUp m = false) →
      c.sharesMov m pa = none ∧ opOf c i = some m) ∧
    ((pa = .ident ∧ src.map (·.1) = dst.map (·.1) ∧ src ≠ none ∧ c.looksUp m = true) → (c.sharesMov m pa).isSome = true) ∧
    (∀ ids, LaneReady c m → c.acting m.guard ≠ 0#64 → c.sharesMov m pa = some ids →
      ∃ (u : State) (d : Cx), CompletesVia i s c m.words u d ∧ Untouched s c u d (c.dests m) ∧ SameSpecial c d ∧
        d.wp.keys = c.wp.keys ∧ d.wp.binds = c.wp.binds ∧
        ∀ (j : Nat) (cls : RegClass) (n : Nat), (c.dests m)[j]? = some (cls, n) →
          ids[j]? = some (regPtr d.wp d.pt cls n) ∧ ∃ a, src = some (cls, a) ∧ ∀ l, d.get cls n l = c.get cls (a + j) l)

/-- R67, R138, R139: `RNG` writes the four words of the network to d to d + 3 and the counter plus 1 to the pair a in its acting lanes;
a lane whose counter is 2^64 − 1 makes it take `RNGWRAP` with nothing written. Under a permutation of A each lane's counter is the one that
it reads, which is the model's reading of R138 (log 38). -/
def Obligations.RngWritesTheNetwork : Prop :=
  ∀ (r : Opnd) (a : PermOpnd) (g : Guard) (s : State) (c : Cx) (dn an : Nat), Issues (.rng r a g) s c → IdsInv s →
    c.checkRng r a.o a.perm = .ok () → c.checkReads (rngOps r a.o a.perm) g = .ok () → c.acting g ≠ 0#64 →
    c.resolve ((rngOps r a.o a.perm).getD 0 default) = .reg .v dn false .ident →
    c.resolve ((rngOps r a.o a.perm).getD 1 default) = .reg .v an true a.perm →
    let ctr := fun l => let k := permLane a.perm c.width l; Dword.pair (c.get .v an k) (c.get .v (an + 1) k)
    let ds := (List.range 4).map (fun j => (RegClass.v, dn + j)) ++ [(.v, an), (.v, an + 1)]
    ((∃ l, l < 64 ∧ (c.acting g).has l = true ∧ ctr l = 0xFFFFFFFFFFFFFFFF#64) →
      exec (.rng r a g) s = .next (c.stop (.rng r a g) (.trap 0x10 0))) ∧
    ((∀ l, l < 64 → (c.acting g).has l = true → ctr l ≠ 0xFFFFFFFFFFFFFFFF#64) → c.sfuFree = true →
      (c.acting g = fullMask c.width ∨ c.allMergeable (c.acting g) ds = .ok ()) →
      ∃ (u : State) (d : Cx), CompletesVia (.rng r a g) s c 2 u d ∧ Untouched s c u d ds ∧ SameSpecial c d ∧
        d.wp.keys = c.wp.keys ∧ d.wp.binds = c.wp.binds ∧ ∀ l, l < c.width →
          let on := (c.acting g).has l
          (∀ j, j < 4 → d.get .v (dn + j) l =
            if on then (rngOut c.l.seed.1 c.l.seed.2 (ctr l) (BitVec.ofNat 64 (c.blk.num * 1024 + c.wp.idx * c.width + l))).getD j 0#32
            else c.get .v (dn + j) l) ∧
          Dword.pair (d.get .v an l) (d.get .v (an + 1) l) =
            if on then ctr l + 1#64 else Dword.pair (c.get .v an l) (c.get .v (an + 1) l))

/-- R137, R267: `CHRUN` without a key hit executes once current is reserved for it, and gives the reservation back; before that
it asks the cluster's arbiter once and stalls, with no register written. With a key hit it binds, and keeps neither request
nor reservation. That the request is an event of the agenda is the model's choice (log 2); that a CHRUN whose key is in the
table binds and keeps neither request nor reservation is its reading (log 31). -/
def Obligations.ChrunRunsUnderAReservation : Prop :=
  ∀ (f : L3) (k : Fin 4) (s : State) (c : Cx), Issues (.chrun f k) s c → IdsInv s →
    let b := c.cst.chain c.l.ctxid k.val
    let m := semChrun f k.val b
    b.owns c.b c.w = false → LaneReady c m → c.acting m.guard ≠ 0#64 →
    let given := fun (t : State) => ∀ h ∈ (t.cluster (clusterOf c.core)).held, ¬ (h.1 = .vector ∧ h.2.1 = c.core ∧ h.2.2.1 = c.pid)
    (∀ k', c.laneHit m = some k' → c.bindable k' = true → ∃ t, exec (.chrun f k) s = .next t ∧
      t.blocks = (c.advance (c.endWaits (c.bind s k' (c.dests m) (c.raises m) true)) 2).blocks ∧ (c.chrunState ≠ none → given t)) ∧
    (c.laneHit m = none → LaneFree c m → c.chrunState = some true →
      ∃ (u : State) (d : Cx) (t : State), exec (.chrun f k) s = .next t ∧ u.cxOf c.b c.w c.pid = some d ∧
        t.blocks = (c.advance u 2).blocks ∧ LaneWritten c d m ∧ Untouched s c u d (c.dests m) ∧ SameSpecial c d ∧ given t) ∧
    (c.laneHit m = none → LaneFree c m → c.chrunState = none → ∃ t, exec (.chrun f k) s = .next t ∧ t.blocks = s.blocks ∧ t.issuing = none ∧
      (t.core c.core).chrun = (s.core c.core).chrun ++ [(c.b, c.w, c.pid, false)] ∧
      (t.cluster (clusterOf c.core)).reqs = (s.cluster (clusterOf c.core)).reqs ++
        [{ serial := s.serial, cls := .vector, core := c.core, who := c.pid, units := 1, passed := 0 }]) ∧
    (c.laneHit m = none → LaneFree c m → c.chrunState = some false → exec (.chrun f k) s = .next s.stalled)

/-- R16, R56, R60, R207, R225, R272: what `GETSR` reads of each number. The trap registers read the frame in a handler; `CYCLES`
counts from the warp's start, and reads `RETIRED` in DET mode; `ENERGY` is the launch's counter; `TXSTATUS` holds CODE,
DEPTH and ARG, its other bits 0. R61, R225, R386: `SETSR` clears the bits of `WSTAT` that the lowest acting lane's word
names, reserved bits aside, and `TRAPPC` writes the word at 0x14 of the frame, in a handler only; no other register and no
other byte of memory changes. A frame whose page is unmapped is an uncorrectable error of the block (R261, R279). That a
GETSR of WSTAT waits for unfinished flags is the model's reading (log 33); what an issued instruction adds to ENERGY is a
free value (log 11). -/
def Obligations.SpecialRegistersAreReadAndWritten : Prop :=
  (∀ (c : Cx) (l : Nat), l < 64 → c.width ≤ 64 → c.blk.num < 2 ^ 32 → c.wp.idx < 2 ^ 16 →
     let span := max c.l.span 1
     (c.srValue 0 l).toNat = l ∧ (c.srValue 1 l).toNat = l / 4 ∧ (c.srValue 2 l).toNat = c.width ∧
     (c.srValue 3 l).toNat = c.wp.idx ∧ (c.srValue 4 l).toNat = c.wp.idx * c.width + l ∧ (c.srValue 5 l).toNat = c.blk.num ∧
     (c.srValue 6 l).toNat = c.blk.num / span ∧ (c.srValue 7 l).toNat = c.blk.num % span ∧
     (c.wp.role < 2 ^ 32 → (c.srValue 8 l).toNat = c.wp.role) ∧
     c.srValue 9 l = (if c.wp.helpers.has l then 1#64 else 0#64) ∧
     (c.srValue 0x10 l).lo = c.wp.binds ∧ (c.srValue 0x11 l).lo = c.wp.keys ∧ (c.srValue 0x12 l).lo = c.wp.deaths ∧
     c.srValue 0x14 l = c.wp.retired ∧ (c.det = true → c.srValue 0x13 l = c.wp.retired) ∧
     (c.det = false → c.srValue 0x13 l = BitVec.ofInt 64 ((c.clock : Int) - c.wp.cycle0)) ∧ c.srValue 0x15 l = c.l.energy ∧
     (c.srValue 0x20 l).lo = c.wp.wstat ∧ c.srValue 0x22 l = c.wp.txlanes ∧
     (let depth := match c.wp.tx with | some t => t.depth | none => 0
      let x := (c.srValue 0x21 l).toNat
      c.wp.txcode < 16 → depth < 8 → c.wp.txarg < 256 →
       x % 16 = c.wp.txcode ∧ x / 16 % 8 = depth ∧ x / 128 % 2 = 0 ∧ x / 256 % 256 = c.wp.txarg ∧ x / 65536 = 0) ∧
     (c.wp.handler.isSome = true → (c.srValue 0x30 l).lo = c.frameWord 0 ∧ (c.srValue 0x31 l).lo = c.frameWord 4 ∧
       (c.srValue 0x32 l).lo = c.frameWord 0x14)) ∧
  (∀ (sr : BitVec 8) (f : L2a) (s : State) (c : Cx) (l : Nat), Issues (.setsr sr f) s c → IdsInv s → MemInv s →
     c.checkOps [aOp f.a f.pa] = .ok () → c.checkReads [aOp f.a f.pa] f.g = .ok () → (c.acting f.g).lowest = some l →
     let x := (c.read (c.resolve (aOp f.a f.pa)) l).lo
     (sr = 0x20 → c.flagsIn = true → c.boundOpen = [] →
       ∃ (u : State) (d : Cx), CompletesVia (.setsr sr f) s c 2 u d ∧ Untouched s c u d [] ∧
         SameSpecial { c with wp := { c.wp with wstat := c.wp.wstat &&& ~~~ (x &&& 0xF1F#32) } } d) ∧
     (sr = 0x32 → c.wp.handler = none →
       ∃ (u : State) (d : Cx), CompletesVia (.setsr sr f) s c 2 u d ∧ Untouched s c u d [] ∧ SameSpecial c d) ∧
     (sr = 0x32 → c.wp.handler.isSome = true → c.frameQuiet = true → s.frameAt c.core c.l c.wp false = none →
       exec (.setsr sr f) s = .next (s.stalled.consume c.b)) ∧
     (sr = 0x32 → c.wp.handler.isSome = true → c.frameQuiet = true → (s.frameAt c.core c.l c.wp false).isSome = true →
       ∃ (u : State) (d : Cx), CompletesVia (.setsr sr f) s c 2 u d ∧ SameRegs c d [] ∧ SameSpecial c d ∧
         let a := s.framePa c.core c.l c.wp false + 0x14
         u.scratch.word a = x ∧ SameBut s u fun p k => p = .scratch ∧ a ≤ k ∧ k < a + 4))

/-- R63, R387: `SETXI` writes `xi`: the immediate in mode 0, in mode 1 an `s` register plus the immediate modulo 2^32; any other
field takes `RESBITS`. A register that is not ready is waited for as operand field 1 (A). Nothing else changes. -/
def Obligations.SetxiWritesXi : Prop :=
  (∀ (w0 w1 : Word), w0.fld 24 8 = 0x6D#8 → decodeWords w0 w1 =
     if w0.fld 17 7 = 0#7 ∧ w0.fld 10 7 = 0#7 then .ok (.setxi (w0.fld 0 10))
     else if w0.fld 17 7 = 1#7 ∧ w0.fld 15 2 = 0#2 then .ok (.setxiS (w0.fld 10 5) (w0.fld 0 10))
     else .error .resbits) ∧
  encode (.setxi 5) = [0x6D000005#32] ∧ encode (.setxiS 3 2) = [0x6D020C02#32] ∧
  ∀ (imm : BitVec 10) (n : BitVec 5) (s : State) (c : Cx), IdsInv s →
    (Issues (.setxi imm) s c → ∃ (u : State) (d : Cx), CompletesVia (.setxi imm) s c 1 u d ∧ Untouched s c u d [] ∧
      SameSpecial { c with wp := { c.wp with xi := imm.setWidth 32 } } d) ∧
    (Issues (.setxiS n imm) s c →
      (∀ e, c.readable 1 .s n.toNat = .error e → exec (.setxiS n imm) s = .next (c.stop (.setxiS n imm) e)) ∧
      (c.readable 1 .s n.toNat = .ok () →
        ∃ (u : State) (d : Cx), CompletesVia (.setxiS n imm) s c 1 u d ∧ Untouched s c u d [] ∧
          SameSpecial { c with wp := { c.wp with xi := c.get .s n.toNat 0 + imm.setWidth 32 } } d))

/-- R255, R265, R321, R392: `DECLW` puts the range of the lowest acting lane that is no helper into its slot, a zero length clears
the slot, an overlap with another block's slot takes `OWNERSHIP`; outside OWNCOMPAT it only retires. `SNAP` latches the PC,
`RETIRED` and barrier count of every warp of every block of the launch, and the step number. Neither changes a register or a byte of memory. -/
def Obligations.DeclwAndSnap : Prop :=
  (∀ (slot : Fin 8) (a b : Opnd) (g : Guard) (s : State) (c : Cx) (l : Nat), Issues (.declw slot a b g) s c → IdsInv s →
    let aa : OpSpec := { o := a, field := 1, pair := true, acc := genDst, rt := .w64 }
    c.checkOps [aa, copyOp b 2] = .ok () → c.checkReads [aa, copyOp b 2] g = .ok () → c.leader g = some l →
    let x := (c.read (c.resolve aa) l).toNat
    let n := c.wordAt (copyOp b 2) l
    (c.l.owncompat = false → ∃ (u : State) (d : Cx), CompletesVia (.declw slot a b g) s c 2 u d ∧ Untouched s c u d [] ∧
      SameSpecial c d ∧ d.blk.declw = c.blk.declw) ∧
    (c.l.owncompat = true → x % 4 = 0 → n % 4 = 0 → x + n ≤ 2 ^ 57 → n ≠ 0 → c.declared x n = false →
      ∃ (u : State) (d : Cx), CompletesVia (.declw slot a b g) s c 2 u d ∧ Untouched s c u d [] ∧ SameSpecial c d ∧
        alook slot.val d.blk.declw = some (x, n) ∧ ∀ k, k ≠ slot.val → alook k d.blk.declw = alook k c.blk.declw) ∧
    (c.l.owncompat = true → x % 4 = 0 → n % 4 = 0 → x + n ≤ 2 ^ 57 → n ≠ 0 → c.declared x n = true →
      exec (.declw slot a b g) s = .next ((c.begun (.declw slot a b g)).stop (.declw slot a b g) (.trap 0x13 2))) ∧
    (c.l.owncompat = true → n = 0 → x % 4 = 0 → x ≤ 2 ^ 57 →
      ∃ (u : State) (d : Cx), CompletesVia (.declw slot a b g) s c 2 u d ∧ Untouched s c u d [] ∧ SameSpecial c d ∧
        alook slot.val d.blk.declw = none)) ∧
  ∀ (s : State) (c : Cx), Issues .snap s c → IdsInv s →
    ∃ (u : State) (d : Cx), CompletesVia .snap s c 1 u d ∧ Untouched s c u d [] ∧ SameSpecial c d ∧
      ∀ b ∈ u.blocks, b.launch = c.blk.launch → b.ended = false →
        b.snap.step = c.l.step ∧
        b.snap.warps = b.warps.map fun w => (((sortPaths w.paths).head?.map (·.pc)).getD 0#32, w.retired, w.bars)

/-! ### Control flow, turns, barriers, exits, traps -/

/-- R21, R94, R308: `BRA` sends the acting lanes to its target, the path's other lanes to the next instruction, and changes no
value; `BRA.U` with some but not all lanes acting takes `NONUNIFORM` first, a target that is no header `BADTARGET`. R310,
R379: `BRX` and `RET` send each acting lane to the code address in its own lane of the register, the others to the next
instruction; lanes with one target are one path (R21). Where the PC stands when a fetch at a target is declined is the
model's reading (log 17). -/
def Obligations.BranchesMoveThreads : Prop :=
  (∀ (u : Bool) (f : Br) (s : State) (c : Cx), Issues (.bra u f) s c → IdsInv s → c.checkReads [] f.g = .ok () →
     let t := c.acting f.g
     let tgt := c.pt.pc + f.off.signExtend 32 * 4#32
     ((u = true ∧ t ≠ 0#64 ∧ t ≠ c.active) → exec (.bra u f) s = .next (c.stop (.bra u f) (.trap 0x07 0))) ∧
     (¬ (u = true ∧ t ≠ 0#64 ∧ t ≠ c.active) →
       (t ≠ 0#64 → tgt.toNat % 4 = 0 → c.header? tgt = .ok false →
         exec (.bra u f) s = .next (c.stop (.bra u f) (.trap 0x06 0))) ∧
       ((t ≠ 0#64 → tgt.toNat % 4 = 0 ∧ c.header? tgt = .ok true) →
         ∃ r, exec (.bra u f) s = .next r ∧
           (Plain c (c.after 1) → Stand c r (fun l => if t.has l then tgt else c.after 1) ∧ OnlyMoved c r)))) ∧
  (∀ (i : Instr) (a : BitVec 7) (g : BitVec 3) (s : State) (c : Cx), (i = .brx a g ∨ i = .ret a g) → Issues i s c → IdsInv s →
     c.checkOps [brxOp a] = .ok () → c.checkReads [brxOp a] (shortGuard g) = .ok () →
     let t := c.acting (shortGuard g)
     let tgt := fun l => (c.read (.reg .v a.toNat false .ident) l).lo
     (∀ l, l < 64 → t.has l = true → (tgt l).toNat % 4 = 0 ∧ c.header? (tgt l) = .ok true) →
     ∃ r, exec i s = .next r ∧ (Plain c (c.after 1) →
       Stand c r (fun l => if t.has l then tgt l else c.after 1) ∧ OnlyMoved c r ∧
       ∀ p q, p ∈ (r.warp c.b c.w).paths → q ∈ (r.warp c.b c.w).paths → p.pc = q.pc → p.id = q.id))

/-- R311: `CALL` writes the address of the next instruction to `v0` in its acting lanes, whose other lanes keep their
value, and sends those lanes to its target; when no lane acts it only retires. -/
def Obligations.CallSavesTheReturnAddress : Prop :=
  ∀ (f : Br) (s : State) (c : Cx), Issues (.call f) s c → IdsInv s → c.checkReads [] f.g = .ok () →
    let t := c.acting f.g
    let tgt := c.pt.pc + f.off.signExtend 32 * 4#32
    (t = 0#64 → ∃ (u : State) (d : Cx), CompletesVia (.call f) s c 1 u d ∧ Untouched s c u d [] ∧ SameSpecial c d) ∧
    (t ≠ 0#64 → tgt.toNat % 4 = 0 → c.header? tgt = .ok true → (t = fullMask c.width ∨ c.allMergeable t [(.v, 0)] = .ok ()) →
      ∃ r, exec (.call f) s = .next r ∧ SameBytes s r ∧ (Plain c (c.after 1) →
        Stand c r (fun l => if t.has l then tgt else c.after 1) ∧
        ∀ p ∈ (r.warp c.b c.w).paths, p.s = c.pt.s ∧ ∀ l, l < c.width →
          (r.core c.core).regLane (r.warp c.b c.w) p .v 0 l = if t.has l then c.after 1 else c.get .v 0 l))

/-- R20: `MEET` sets the meeting registers of its acting lanes to its target; nothing else changes. R129, R358: `LOOP` with a
count other than 0 sets its counter, opens a record over the clauses after it, and runs into the body; with 0 it goes to the
end; an end that is no header is `BADCLAUSE` 4. -/
def Obligations.MeetAndLoop : Prop :=
  (∀ (f : Br) (s : State) (c : Cx), Issues (.meet f) s c → c.checkReads [] f.g = .ok () →
     let t := c.acting f.g
     let tgt := c.pt.pc + f.off.signExtend 32 * 4#32
     (t ≠ 0#64 → tgt.toNat % 4 = 0 ∧ c.header? tgt = .ok true) →
     ∃ (u : State) (d : Cx), CompletesVia (.meet f) s c 1 u d ∧ Untouched s c u d [] ∧
       SameSpecial { c with wp := { c.wp with threads := d.wp.threads } } d ∧ d.wp.threads.length = c.wp.threads.length ∧
       ∀ l, l < c.wp.threads.length → d.wp.threads.getD l default =
         (if t.has l then { c.wp.threads.getD l default with mr := some tgt } else c.wp.threads.getD l default)) ∧
  (∀ (n : Fin 3) (words : BitVec 8) (count : LoopCount) (s : State) (c : Cx) (k : Word), Issues (.loop n words count) s c →
     IdsInv s → c.loopCount count = .ok k →
     let stop := c.after 2 + BitVec.ofNat 32 (4 * (words.toNat + 1))
     (c.header? stop = .ok false → exec (.loop n words count) s = .next (c.stop (.loop n words count) (.trap 0x04 4))) ∧
     (c.header? stop = .ok true → k ≠ 0#32 →
       ∃ (u : State) (d : Cx), CompletesVia (.loop n words count) s c 2 u d ∧ Untouched s c u d [] ∧
         SameSpecial { c with wp := { c.wp with
           lc := setAt n.val k c.wp.lc
           loops := { n := n, start := c.after 2, stop := stop } :: c.wp.loops.filter (fun r => r.n != n) } } d) ∧
     (c.header? stop = .ok true → k = 0#32 → ∃ r, exec (.loop n words count) s = .next r ∧
       (Plain c (c.after 2) → Stand c r (fun _ => stop) ∧ OnlyMoved c r)))

/-- R251, R369: `NOP` only retires, and so does `YIELD` in effect: outside DET mode its path leaves the next cycle to the
quadrant's other ready paths, in DET mode it ends the block's turn. R241, R351: `KSTEP` outside DET mode only retires; in
DET mode it ends the turn and its path is held until the step ends. The cycle that YIELD leaves to other ready paths is one
of the quadrant's clock, which is the model's choice (log 14). -/
def Obligations.NopYieldAndKstep : Prop :=
  ((∀ (s : State) (c : Cx), Issues .nop s c →
     ∃ (u : State) (d : Cx), CompletesVia .nop s c 1 u d ∧ Untouched s c u d [] ∧ SameSpecial c d) ∧
   (∀ (s : State) (c : Cx), Issues .yieldTurn s c → ∃ (u : State) (d : Cx) (t : State), exec .yieldTurn s = .next t ∧
     u.cxOf c.b c.w c.pid = some d ∧ Untouched s c u d [] ∧ SameSpecial c d ∧
     (c.det = false → t = (c.advance u 1).modPath c.b c.w c.pid fun p => { p with yield := some p.next }) ∧
     (c.det = true → t = c.endTurn (c.advance u 1)))) ∧
  (∀ (s : State) (c : Cx), Issues .kstep s c →
     (c.det = false → ∃ (u : State) (d : Cx), CompletesVia .kstep s c 1 u d ∧ Untouched s c u d [] ∧ SameSpecial c d) ∧
     (c.det = true → c.allPerformed = true →
       (∃ w ∈ c.blk.warps, w.idx ≠ c.w ∧ w.live ≠ 0#64 ∧ ∀ p ∈ w.allPaths, p.hold = none) →
       (∀ w w', w ∈ c.blk.warps → w' ∈ c.blk.warps → w.idx = w'.idx → w = w') →
       ∃ (t : State) (d : Cx), exec .kstep s = .next t ∧ t.cxOf c.b c.w c.pid = some d ∧ d.pt.hold = some .kstep ∧
         d.pt.pc = c.pt.pc ∧ d.blk.turnOver = true ∧ d.wp.pointer = c.pathAfter ∧ SameRegs c d [] ∧ SameBytes s t))

/-- R180, R248, R249, R303: `BAR` retires and its path is held where it stands while some warp of the block has not arrived; in
DET mode it ends the turn. That it stalls until the warp's accesses are performed is the model's reading (log 32). R180,
R248, R259, R260, R303: the last arrival completes the rendezvous, of the block's warps for `BAR`, of every block's of the
span for `BAR.span`, whatever their number: the issuing path and every path that waited goes on after its barrier, each warp
counts one barrier of the kind and none of the other, each block's release buffer is performed and its checkpoint taken,
with an empty undo log. A warp that has exited is not waited for. That BAR stalls at issue until the warp's accesses are
performed, the PC at which a held path stands, and that it retires as it is held, is the model's reading (log 32). -/
def Obligations.BarriersHoldAndRelease : Prop :=
  (∀ (span : Bool) (s : State) (c : Cx), Issues (.bar span) s c →
     (c.allPerformed = false → exec (.bar span) s = .next s.stalled) ∧
     (c.allPerformed = true →
       (∃ w ∈ c.blk.warps, w.idx ≠ c.w ∧ w.live ≠ 0#64 ∧ ∀ p ∈ w.allPaths, p.hold = none) →
       (∀ w w', w ∈ c.blk.warps → w' ∈ c.blk.warps → w.idx = w'.idx → w = w') →
       ∃ (t : State) (d : Cx), exec (.bar span) s = .next t ∧ t.cxOf c.b c.w c.pid = some d ∧
         d.pt.hold = some (if span then .span else .bar) ∧ d.pt.pc = c.pt.pc ∧ d.pt.mask = c.pt.mask ∧
         d.wp.retired = c.wp.retired + 1 ∧ d.wp.bars = c.wp.bars ∧ d.wp.spans = c.wp.spans ∧
         (c.det = true → d.blk.turnOver = true ∧ d.wp.pointer = c.pathAfter) ∧ SameRegs c d [] ∧ SameBytes s t ∧ DeviceAfter s t)) ∧
  (∀ (span : Bool) (s : State) (c : Cx), Issues (.bar span) s c → IdsInv s → s.numbered → c.allPerformed = true → Plain c (c.after 1) →
     c.wp.live = c.pt.mask → c.pt.mask ≠ 0#64 →
     let h := if span then Hold.span else .bar
     let bs := if span then s.spanBlocks c.b else [c.blk]
     (∀ x ∈ bs, x.saved = false ∧ s.flipping x.id = false ∧ s.releaseFree x = true ∧
       ∀ w ∈ x.warps, (x.id = c.b ∧ w.idx = c.w) ∨ (w.exited = true ∧ w.paths = []) ∨ ∃ p, w.waitsAt h p) →
     ∃ t, exec (.bar span) s = .next t ∧ Stand c t (fun _ => c.after 1) ∧
       (c.det = true → (t.block c.b).turnOver = true ∧ (t.warp c.b c.w).pointer = c.pathAfter) ∧
       ∀ x ∈ bs, (t.block x.id).ck.isSome = true ∧ (t.block x.id).eligible = true ∧ (t.block x.id).release = [] ∧ (t.block x.id).undoLog = [] ∧
         ∀ w ∈ x.warps, (t.warp x.id w.idx).bars = w.bars + (if span then 0 else 1) ∧
           (t.warp x.id w.idx).spans = w.spans + (if span then 1 else 0) ∧
           ∀ p l, w.waitsAt h p → p.mask.has l = true → (t.warp x.id w.idx).threadPc (t.warp x.id w.idx).paths l = p.pc + 4#32)

/-- R19, R27, R227, R323: `EXIT` ends its acting threads, and in a handler every thread of MASK, whatever the guard; a quad's
helper lanes go with its last thread. No other thread ends. The PC of an ended thread stays where it stood, its meeting
register is NONE. The other threads of the path go on after the `EXIT`; a handler has ended. That the PC of an ended thread
stays that of its EXIT is the model's reading (log 32). -/
def Obligations.ExitEndsThreads : Prop :=
  ∀ (g : BitVec 3) (s : State) (c : Cx), Issues (.exit g) s c → IdsInv s → c.checkReads [] (shortGuard g) = .ok () →
    c.wp.threads.length ≤ 64 →
    let m := match c.wp.handler with | some h => h.mask | none => c.acting (shortGuard g)
    ∃ r, exec (.exit g) s = .next r ∧ (r.warp c.b c.w).retired = c.wp.retired + 1 ∧ (r.warp c.b c.w).handler = none ∧
      (∀ l, l < c.wp.threads.length →
        let x := c.wp.threads.getD l default
        let y := (r.warp c.b c.w).threads.getD l default
        (y.exited = true ↔ x.exited = true ∨ x.absent = false ∧ c.wp.leaves m l) ∧
        (x.exited = false → y.exited = true → y.mr = none ∧
          ∀ p, c.wp.allPaths.find? (fun p => p.mask.has l) = some p → y.pc = p.pc)) ∧
      (Plain c (c.after 1) → ∀ l, c.active.has l = true → ¬ c.wp.leaves m l → c.pcOf r l = c.after 1)

/-- R221, R307, R398: `BKPT` and `TRAP` take their traps at themselves with the immediate as detail; in a transaction they abort
it with FAULT and the cause, and in a handler they kill the block. With a debug session attached to the context `BKPT` halts
its warp and tells the host instead. That no step attaches a debug session, how a halted warp is held, and the record of the
event log that tells the host, is the model's choice (log 15). -/
def Obligations.SoftwareTraps : Prop :=
  ∀ (imm : BitVec 10) (i : Instr) (cause : Nat) (op : Word),
    (i = .bkpt imm ∧ cause = 0x18 ∧ op = 0x68000000#32) ∨ (i = .trap imm ∧ cause = 0x19 ∧ op = 0x69000000#32) →
    encode i = [op + imm.setWidth 32] ∧ ∀ (s : State) (c : Cx), Issues i s c →
      (cause = 0x18 → (s.ctx c.l.fn c.l.ctx).debug = true → Answers i s fun t => t.issuing = none ∧
        (∀ p ∈ (t.warp c.b c.w).paths, p.hold = some .debug) ∧ SameBytes s t ∧
        (t.pkg (packageOf c.core)).log = (s.pkg (packageOf c.core)).log ++ [.halted c.b c.w]) ∧
      ((cause = 0x19 ∨ (s.ctx c.l.fn c.l.ctx).debug = false) →
      exec i s = .next (c.trapWords (op + imm.setWidth 32) 0#32 cause (imm.setWidth 32) false) ∧
      (c.inTx = true → exec i s = .next (s.stalled.abortTx c.b c.w 5 cause)) ∧
      (c.inTx = false → c.wp.handler.isSome = true → Answers i s fun t => SpanGone s t c.blk))

/-- R222, R223, R224, R226: a trap outside a handler, its vector entry known and not NONE, sends the path's threads to the entry
with meeting registers NONE, while the warp's other paths stop; `s30` and `s31` hold the frame's address. The frame holds
cause, detail, PC and clause, the instruction's words, MASK and GMASK, the threads' PCs and meeting registers, and every
register that is present and whose result is ready or the warp's own, with `lc`, `xi` and `WSTAT`; no byte of any memory
outside the frame changes. R65, R228, R382: `RTE` outside a handler takes `ILLOP` 1; in one it ends the handler: the threads
of its mask go to `TRAPPC`, whatever other paths the warp has, which resume where they stopped; `xi`, the loop counters and
`WSTAT` are what the frame holds (`WSTAT` with `UDIV` when paths join that disagree, R53), every piece of a `v` or `p`
register that was not linked is absent, meeting registers are those of the thread records, and no byte of memory changes.
One whose frame is lost is an uncorrectable error of its block (R261, R279). Which free frame pair a trap takes is a free
value (log 10); which loop records RTE leaves is the model's reading (log 32), and when a trap waits for results on their
way (log 16); that RTE moves the threads of the mask at the entry is its choice (log 39). -/
def Obligations.TrapEntryAndReturn : Prop :=
  (∀ (s : State) (c : Cx) (w0 w1 : Word) (cause : Nat) (info vec : Word) (adopted : Bool) (leaf : Leaf) (a : Nat),
     s.cx = some c → IdsInv s → MemInv s → c.inTx = false → c.wp.quiet = true → c.wp.handler = none → s.uncompared →
     c.wp.paths.filter (fun p => p.id == c.pid) = [c.pt] → c.blk.ended = false →
     s.vword (some c.core) c.l.fn c.l.ctx ((s.ctx c.l.fn c.l.ctx).vecbase.toNat + 4 * cause) = some vec → vec ≠ 0xFFFFFFFF#32 →
     s.place (some c.core) c.l.fn c.l.ctx (s.frameVa c.l c.wp false) = some (leaf, a) → s.fillsLost c.b c.w = false →
     let t := c.trapWords w0 w1 cause info adopted
     let va := s.frameVa c.l c.wp false
     let word := fun (off : Nat) => t.scratch.word (a + off)
     ∃ d, t.cxOf c.b c.w c.pid = some d ∧ d.pt.pc = vec ∧ d.pt.mask = c.pt.mask ∧ d.wp.paths = [d.pt] ∧ d.pt.clause = none ∧
       d.wp.handler.map (fun h => (h.mask, h.others.map (·.id))) =
         some (c.pt.mask, (c.wp.paths.filter fun p => p.id != c.pid).map (·.id)) ∧ t.issuing = none ∧
       (∀ l, c.pt.mask.has l = true → l < c.wp.threads.length → (d.wp.threads.getD l default).mr = none) ∧
       d.get .s 30 0 = BitVec.ofNat 32 va ∧ d.get .s 31 0 = BitVec.ofNat 32 (va / 2 ^ 32) ∧
       word 0 = BitVec.ofNat 32 cause ∧ word 4 = info ∧ word 8 = c.pt.pc ∧ word 0x14 = c.pt.pc ∧ word 0x18 = w0 ∧
       word 0x1C = (if w0.getLsbD 31 then w1 else 0#32) ∧
       (∀ k, c.pt.clause = some k → k.done < 15 → word 0xC = k.at_ ∧
         (word 0x10).toNat = k.done + 1 + (if adopted then 16 else 0) + (if w0.getLsbD 31 then 32 else 0)) ∧
       word 0x20 = c.pt.mask.setWidth 32 ∧ word 0x24 = (c.pt.mask >>> 32).setWidth 32 ∧
       (c.wp.absent = [] → word 0x28 = (c.gmask w0 w1).setWidth 32 ∧ word 0x2C = ((c.gmask w0 w1) >>> 32).setWidth 32) ∧
       (∀ l, l < 64 → l < c.width → word (0x80 + 16 * l) = c.wp.threadPc c.wp.paths l ∧
         word (0x84 + 16 * l) = ((c.wp.threads.getD l default).mr.getD 0xFFFFFFFF#32)) ∧
       (∀ n, n < 32 → c.saves .s n → word (0x480 + 4 * n) = c.get .s n 0) ∧
       (∀ n l, n < 7 → l < 64 → l < c.width → c.saves .p n → (word (0x500 + 8 * n + 4 * (l / 32))).getLsbD (l % 32) = (c.get .p n l).getLsbD 0) ∧
       (∀ n l, n < c.wp.grant → l < 64 → c.saves .v n → word (0x800 + 256 * n + 4 * l) = if l < c.width then c.get .v n l else 0#32) ∧
       (∀ n, n < 3 → word (0x540 + 4 * n) = c.wp.lc.getD n 0) ∧ word 0x54C = c.wp.xi ∧
       word 0x550 = d.wp.wstat ∧ d.wp.wstat &&& c.wp.wstat = c.wp.wstat ∧
       SameBut s t (fun p k => p = .scratch ∧ a ≤ k ∧ k < a + 2048 + 256 * c.wp.grant) ∧ SameFns s t ∧ t.pkgs = s.pkgs ∧ t.copies = s.copies) ∧
  (∀ (s : State) (c : Cx), Issues .rte s c →
     (c.wp.handler = none → exec .rte s = .next (c.stop .rte (.trap 0x01 1))) ∧
     (c.wp.handler.isSome = true → c.frameQuiet = true → c.frameLost 0 0x800 = true → exec .rte s = .next (s.stalled.consume c.b)) ∧
     (∀ (h : Handler) (pc : Word) (cl : Option Clause), c.wp.handler = some h → c.frameQuiet = true → c.frameLost 0 0x800 = false → IdsInv s →
       s.uncompared → c.resumeAt = .ok (pc, cl) →
       ∃ r, exec .rte s = .next r ∧ SameBytes s r ∧
         let w := r.warp c.b c.w
         let back := h.mask &&& c.wp.live
         let heads := fun (k : Option Clause) (x : Word) (y : Word) => ∃ j, k = some j ∧ j.done = 0 ∧ x = j.at_ + 4#32 ∧ y = j.at_
         w.handler = none ∧ w.links = [] ∧ w.xi = c.frameWord 0x54C ∧ w.wstat ||| 0x100#32 = (c.frameWord 0x550 &&& 0xF1F#32) ||| 0x100#32 ∧
         ((∀ q ∈ h.others, q.hold ≠ some .passed) → w.lc = [c.frameWord 0x540, c.frameWord 0x544, c.frameWord 0x548]) ∧
         w.retired = c.wp.retired + 1 ∧ (∀ a, a ∈ w.absent ↔ a ∈ c.pieces ∧ ∀ k ∈ c.wp.links, ¬ (k.1 = a.1 ∧ k.2.1 = a.2.1)) ∧ w.fromCtx = false ∧
         (h.others = [] → w.wstat = c.frameWord 0x550 &&& 0xF1F#32 ∧ ∀ l, back.has l = true → c.pcOf r l = pc ∧
           (l < c.wp.threads.length → c.frameWord (0x84 + 16 * l) ≠ pc → (w.threads.getD l default).mr =
             if c.frameWord (0x84 + 16 * l) = 0xFFFFFFFF#32 then none else some (c.frameWord (0x84 + 16 * l)))) ∧
         ((∀ l, back.has l = true → c.frameWord (0x84 + 16 * l) = 0xFFFFFFFF#32) →
           (h.others.map (·.id)).Nodup → (∀ q ∈ h.others, q.id < s.serial ∧ q.hold ≠ some .meet ∧ q.hold ≠ some .passed ∧
             q.mask &&& h.mask = 0#64 ∧ ∀ q' ∈ h.others, q'.mask &&& q.mask ≠ 0#64 → q' = q) →
           (∀ l, back.has l = true → c.pcOf r l = pc ∨ heads cl pc (c.pcOf r l)) ∧
           ∀ q ∈ h.others, ∀ l, q.mask.has l = true → c.pcOf r l = q.pc ∨ heads q.clause q.pc (c.pcOf r l))))

/-- R222, R227, R416: a trap in a handler, and one whose vector entry is NONE, kills the block with its span: none of their
blocks stays resident, and memory, the other blocks' too, is as before. Another one of which an absent register's slot
cannot be read is an uncorrectable error of the block (R261, R279). That what a killed block has issued and not performed is
lost with it is the model's choice (log 39). -/
def Obligations.TrapsThatKill : Prop :=
  ∀ (s : State) (c : Cx) (w0 w1 : Word) (cause : Nat) (info : Word) (adopted : Bool), s.cx = some c → c.inTx = false →
    let t := c.trapWords w0 w1 cause info adopted
    ((c.wp.handler.isSome = true ∨ (c.wp.handler = none ∧ c.wp.quiet = true ∧
      s.vword (some c.core) c.l.fn c.l.ctx ((s.ctx c.l.fn c.l.ctx).vecbase.toNat + 4 * cause) = some 0xFFFFFFFF#32 ∧
      (s.place (some c.core) c.l.fn c.l.ctx (s.frameVa c.l c.wp false)).isSome = true)) →
      (∀ x ∈ t.blocks, ¬ (x.launch = c.blk.launch ∧ x.num / max c.l.span 1 = c.blk.num / max c.l.span 1)) ∧
      (∀ k, t.scratch.get k = s.scratch.get k) ∧ (∀ k, t.hbm.get k = s.hbm.get k) ∧ (∀ k, t.host.get k = s.host.get k) ∧
      ∀ x ∈ t.blocks, ∃ y ∈ s.blocks, y.id = x.id ∧ x.shared = y.shared ∧ ∀ w, (x.warp w).stack = (y.warp w).stack) ∧
    (c.wp.quiet = true → s.framesTrap c cause = true → s.uncompared → s.numbered →
      let u := s.drain c.core c.b c.w
      u.fillsLost c.b c.w = true → t = (u.consume c.b).stalled)

/-! ### Transactions -/

/-- R197, R198, R199, R206: the outermost `TRY` opens a transaction with the checkpoint of the warp, or, on a warp that is not
converged, is refused with DIVERGE; a nested one counts one level, and the fifth level aborts with NEST. Registers still
absent are filled first (R65), so that the checkpoint holds every value. R208, R298: `ABORT` in a transaction aborts it with
code 1 and its immediate; outside one it only retires. R200, R204, R316: `COMMIT` outside a transaction only retires; a
nested one leaves its level; the outermost one, on a path that holds every thread of the transaction, issues and waits for
its commit point, and on another path aborts with DIVERGE. That the commit point stands on the agenda is the model's choice
(log 2); that an absent register is filled before an outermost TRY opens is its reading (log 25). -/
def Obligations.TransactionInstructions : Prop :=
  (∀ (lane : Bool) (off : BitVec 19) (s : State) (c : Cx), Issues (.tryTx lane off) s c → IdsInv s →
     let tgt := c.pt.pc + off.signExtend 32 * 4#32
     (∀ t, c.wp.tx = some t → t.depth = 4 → exec (.tryTx lane off) s = .next ((((c.issued s).retire c.b c.w).stalled).abortTx c.b c.w 7 0)) ∧
     (∀ t, c.wp.tx = some t → t.depth ≠ 4 →
       ∃ (u : State) (d : Cx), CompletesVia (.tryTx lane off) s c 1 u d ∧ Untouched s c u d [] ∧
         SameSpecial { c with wp := { c.wp with tx := some { t with depth := t.depth + 1 } } } d) ∧
     (∀ x, c.wp.tx = none → tgt.toNat % 4 = 0 → c.header? tgt = .ok true → c.pt.mask = c.wp.live → c.anyAbsent = some x →
       exec (.tryTx lane off) s = .next (c.stop (.tryTx lane off) (.await (.registerFill c.b c.w x.1 x.2.1 x.2.2)))) ∧
     (c.wp.tx = none → tgt.toNat % 4 = 0 → c.header? tgt = .ok true → c.pt.mask = c.wp.live → c.anyAbsent = none →
       ∃ (u : State) (d : Cx), CompletesVia (.tryTx lane off) s c 1 u d ∧ Untouched s c u d [] ∧
         SameSpecial { c with wp := { c.wp with
           txcode := 0, txarg := 0, txlanes := 0#64
           tx := some { depth := 1, since := s.serial, label := tgt, lane := lane, ck := c.checkpoint, writes := [], reads := [],
                        conflict := false, committing := false, laneCause := none } } } d) ∧
     (c.wp.tx = none → tgt.toNat % 4 = 0 → c.header? tgt = .ok true → c.pt.mask ≠ c.wp.live →
       ∃ r, exec (.tryTx lane off) s = .next r ∧ SameBytes s r ∧ DeviceAfter s r ∧ (r.warp c.b c.w).tx = none ∧
         (r.warp c.b c.w).txcode = 8 ∧ (r.warp c.b c.w).txarg = 0)) ∧
  (∀ (imm : BitVec 8) (s : State) (c : Cx), Issues (.abort imm) s c →
     (c.inTx = true → exec (.abort imm) s = .next ((((c.issued s).retire c.b c.w).stalled).abortTx c.b c.w 1 imm.toNat)) ∧
     (c.inTx = false → ∃ (u : State) (d : Cx), CompletesVia (.abort imm) s c 1 u d ∧ Untouched s c u d [] ∧ SameSpecial c d)) ∧
  (∀ (s : State) (c : Cx), Issues .commit s c → IdsInv s →
     (c.wp.tx = none → ∃ (u : State) (d : Cx), CompletesVia .commit s c 1 u d ∧ Untouched s c u d [] ∧ SameSpecial c d) ∧
     (∀ t, c.wp.tx = some t → 1 < t.depth →
       ∃ (u : State) (d : Cx), CompletesVia .commit s c 1 u d ∧ Untouched s c u d [] ∧
         SameSpecial { c with wp := { c.wp with tx := some { t with depth := t.depth - 1 } } } d) ∧
     (∀ t, c.wp.tx = some t → t.depth ≤ 1 → c.holdsAll = false →
       exec .commit s = .next ((((c.issued s).retire c.b c.w).stalled).abortTx c.b c.w 8 0)) ∧
     (∀ t, c.wp.tx = some t → t.depth ≤ 1 → c.holdsAll = true →
       ∃ (r : State) (d : Cx), exec .commit s = .next r ∧ r.cxOf c.b c.w c.pid = some d ∧ r.issuing = none ∧
         r.agenda = s.agenda ++ [.commitPoint c.b c.w] ∧ d.wp.tx = some { t with committing := true } ∧ d.pt.pc = c.pt.pc ∧
         SameRegs c d [] ∧ SameBytes s r))

/-- R198, R206: an abort restores the warp's registers from the checkpoint, sends every thread to the label, writes `TXSTATUS`,
and performs no buffered byte; no instruction that the warp issued in the region raises flags any more, and no register is
left to be filled. R184, R203, R204, R205, R209: at its commit point a transaction with a conflict aborts with code 2;
another performs each byte of its write buffer and no other, closes, and its path goes on; lanes that `TRY.L` has rolled
back go on at the label. Outside DET mode and CONTAINED launches the bytes are in memory at once, those of the stack in its
pool page too. One that reaches a package with no path left, or an unmapped pool page, is an uncorrectable error (R279,
R281). That it first waits for every earlier access of the warp and for the scoreboard is the model's reading (log 30).
R208, R209: an instruction of a `TRY.L` region that raises one of the seven causes in some of its lanes rolls back those
alone. They leave the path, which keeps the others; the bytes that they wrote last are dropped, `TXLANES` holds their bits,
and they wait at the label with their checkpointed meeting registers. The instruction completes in the other lanes, with the
lanes' `v` and `p` values back at the checkpoint's; `s`, `lc` and `xi` are not restored. When no lane would be left, or one
of them was the last writer of a byte that another wrote earlier, the warp aborts with FAULT. That it waits until every
register that the region has changed is known is the model's reading (log 16). That an aborted transaction's pending
instructions raise no flags any more, and that it leaves no register to be filled, is the model's reading (log 32). That a
commit point is one event is the model's choice (log 2); that it waits for every earlier access of the warp and for the
scoreboard, which is wider than R204, and where bytes go on SX pages and the stack, is its reading (log 30). -/
def Obligations.CheckpointsAndCommit : Prop :=
  (∀ (s : State) (c : Cx) (t : Tx) (code arg : Nat), s.cx = some c → IdsInv s → c.wp.tx = some t → c.wp.handler = none →
     let r := s.abortTx c.b c.w code arg
     let w := r.warp c.b c.w
     SameBytes s r ∧ SameDevice s r ∧ w.v = t.ck.v ∧ w.p = t.ck.p ∧ w.lc = t.ck.lc ∧ w.loops = t.ck.loops ∧ w.xi = t.ck.xi ∧
     w.wstat = (c.wp.wstat &&& 0xFFFFF800#32) ||| t.ck.wstat ∧ w.tx = none ∧ w.txcode = code ∧ w.txarg = arg ∧
     w.txlanes = c.wp.txlanes ∧ w.absent = [] ∧
     (∀ e ∈ (r.core c.core).entries, ∀ x ∈ e.bound, x.1 = c.b → x.2.1 = c.w → x.2.2 < t.since) ∧ (∀ l, c.wp.live.has l = true → c.pcOf r l = t.label) ∧
     ∀ p ∈ w.paths, ∀ n, n < 32 → regPtr w p .s n = (alook n t.ck.s).getD 0) ∧
  (∀ (s : State) (b w pid : Nat) (c : Cx) (t : Tx), s.cxOf b w pid = some c → c.wp.tx = some t → t.committing = true →
     c.blk.saved = false → c.wp.paths.find? (fun p => p.hold.isNone && p.park.isNone) = some c.pt → MemInv s → IdsInv s →
     (t.conflict = true → exec (.commitPoint b w) s = .next (s.abortTx b w 2 0)) ∧
     (t.conflict = false → s.commitClear b c.wp t = false → exec (.commitPoint b w) s = .next s) ∧
     (t.conflict = false → s.commitClear b c.wp t = true → (s.commitLost b t = true ∨
       ∃ x ∈ t.writes, x.space = 3 ∧ s.stackPa c.core c.l c.wp x.addr = none) → exec (.commitPoint b w) s = .next (s.consume b)) ∧
     (t.conflict = false → s.commitClear b c.wp t = true → c.l.det = false → c.l.contained = false → c.blk.release = [] →
       s.releaseUsed c.core ≤ 65536 → s.commitLost b t = false →
       (∀ x ∈ t.writes, x.space = 3 → (s.stackPa c.core c.l c.wp x.addr).isSome = true) → (∀ x ∈ t.writes, x.space = 0 ∨ x.space = 1 ∨ x.space = 3) →
       (∀ x y, x ∈ t.writes → y ∈ t.writes → x.space = y.space → x.addr = y.addr → x.val = y.val) →
       ∃ r, exec (.commitPoint b w) s = .next r ∧ (r.warp b w).tx = none ∧
         (r.warp b w).txcode = (if c.wp.txlanes = 0#64 then 0 else 5) ∧
         (r.warp b w).txarg = (if c.wp.txlanes = 0#64 then 0 else t.laneCause.getD 0) ∧
         ((c.wp.paths.map (·.id)).Nodup → (∀ p ∈ c.wp.paths, p = c.pt ∨
             p.hold = some .rolled ∧ p.pc = t.label ∧ p.clause = none ∧ p.mask &&& c.pt.mask = 0#64) →
           ∀ p ∈ c.wp.paths, p.hold = some .rolled → ∀ l, p.mask.has l = true → c.pcOf r l = t.label) ∧
         (∀ x ∈ t.writes, x.space = 0 → (r.block b).shared.get x.addr = x.val) ∧
         (∀ x ∈ t.writes, x.space = 1 → (∀ y ∈ t.writes, y.space = 3 → s.stackPa c.core c.l c.wp y.addr ≠ some x.addr) →
           r.scratch.get x.addr = x.val) ∧
         (∀ x ∈ t.writes, x.space = 3 → alook x.addr (r.warp b w).stack = some x.val) ∧
         (∀ a, (∀ x ∈ t.writes, x.space = 0 → x.addr ≠ a) → (r.block b).shared.get a = (s.block b).shared.get a) ∧
         (∀ a, (∀ x ∈ t.writes, (x.space = 1 → x.addr ≠ a) ∧ (x.space = 3 → s.stackPa c.core c.l c.wp x.addr ≠ some a)) →
           r.scratch.get a = s.scratch.get a) ∧
         (∀ a, (∀ x ∈ t.writes, x.space = 3 → x.addr ≠ a) → alook a (r.warp b w).stack = alook a c.wp.stack) ∧
         (∀ k a, k ≠ b → (r.block k).shared.get a = (s.block k).shared.get a) ∧
         (∀ k i a, (k, i) ≠ (b, w) → alook a (r.warp k i).stack = alook a (s.warp k i).stack) ∧
         (∀ a, r.hbm.get a = s.hbm.get a) ∧ ∀ a, r.host.get a = s.host.get a)) ∧
  ((∀ (i : Instr) (s : State) (c : Cx) (body : Cx → Except Stop State) (t : Tx) (cause info : Nat) (lanes : Mask),
     Issues i s c → IdsInv s → exec i s = issue i s body → c.wp.tx = some t → t.lane = true →
     cause ∈ [0x0A, 0x0C, 0x0B, 0x0E, 0x1B, 0x0F, 0x1A] → c.pt.mask &&& lanes = lanes → c.pt.mask &&& ~~~ lanes ≠ 0#64 →
     (c.wp.paths.map (·.id)).Nodup → (∀ p ∈ c.wp.paths, p.id < s.serial) →
     let c := c.begun i
     body c = .error (.laneTrap cause info lanes) →
     let d := c.withoutLanes t cause lanes
     (c.mustAbort t lanes = true → exec i s = .next (c.s.stalled.abortTx c.b c.w 5 cause)) ∧
     (c.mustAbort t lanes = false → c.unknownRegs t = true → exec i s = .next c.s.stalled) ∧
     d.pt.mask = c.pt.mask &&& ~~~ lanes ∧ d.pt.pc = c.pt.pc ∧ d.wp.txlanes = c.wp.txlanes ||| lanes ∧
     (d.wp.tx.map fun x => x.writes) = some (t.writes.filter fun x => x.lanes &&& lanes == 0#64) ∧
     (∃ q ∈ d.wp.paths, q.mask = lanes ∧ q.pc = t.label ∧ q.hold = some .rolled ∧ q.clause = none) ∧
     (∀ l, lanes.has l = true → l < c.wp.threads.length → (d.wp.threads.getD l default).mr = t.ck.mr.getD l none) ∧
     d.wp.xi = c.wp.xi ∧ d.wp.lc = c.wp.lc ∧ d.pt.s = c.pt.s ∧ SameBytes c.s d.s ∧
     (c.mustAbort t lanes = false → c.unknownRegs t = false → c.wp.absent = [] → ∀ v, body d = .ok v →
       exec i s = .next (v.rollRegs c.b c.w t.ck lanes))) ∧
   ∀ (v : State) (b w : Nat) (t : Tx) (lanes : Mask), IdsInv v → (v.block? b).isSome = true → (v.block b).ended = false → (v.warp b w).tx = some t →
     let r := v.rollRegs b w t.ck lanes
     let core := (v.block b).core
     SameBytes v r ∧ (r.warp b w).xi = (v.warp b w).xi ∧ (r.warp b w).lc = (v.warp b w).lc ∧ (r.warp b w).tx = some t ∧
     (r.warp b w).txlanes = (v.warp b w).txlanes ∧
     ∀ p cls n l, (cls = .v ∧ n < 128 ∨ cls = .p ∧ n < 7) → l < (v.launch (v.block b).launch).w →
       (r.core core).laneVal (regPtr (r.warp b w) p cls n) l = (v.core core).laneVal
         (if lanes.has l then (alook n (if cls = .p then t.ck.p else t.ck.v)).getD 0 else regPtr (v.warp b w) p cls n) l)

/-! ### Loads, stores, atomics, fences, waits -/

/-- R28, R44, R49, R107, R202, R352: a load whose checks pass in every lane that takes part completes; a helper lane that fails
takes no part and receives 0. One that binds to no key: on the stack, in DET mode and in a transaction its lanes hold the
element of the bytes that the path sees, and in a transaction the sectors that it reads from memory join the read set, or
abort with code 3 beyond 64; elsewhere one access of each lane joins the warp's pending accesses, to the place that its own
address names. One that binds points to the key's results and counts in `BINDS`, whatever the scoreboard holds; while a
result is pending, a record of each lane waits for it. No byte of memory and no other register changes, once the release
buffer is performed where the load comes after it (R49, R182, R186). R209, R221, R229, R352: a load of whose lanes one fails
its checks takes the trap of the first such lane, with nothing written; one with a lane that has no translation parks whole
in the replay queue, for the lanes without one, and in a transaction takes `TRANSLATE`; with all the queue's entries in use
it stalls, whether its lanes find their translations or not. Under `TRY.L` the lanes that fail for the first cause, and
those alone, raise it. That an access of a lane is a pending record, performed by an event of its own, and when it first
performs a release buffer, is the model's reading (log 9, 30); what parks is its reading (log 29). -/
def Obligations.LoadsRead : Prop :=
  (∀ (i : Instr) (space : Space) (ty : MType) (acq : Bool) (f : L2u) (off words : Nat) (s : State) (c : Cx),
     ldForm i = some (space, ty, acq, f, off, words) → Issues i s c → IdsInv s →
     let d := dOp f.d onlyV (ty == .u64)
     let a := addrOp f.a f.pa space
     let size := mtypeSize ty
     let act := c.acting f.g
     let xs := (c.targets space (.load ty) size a off act).filter fun x => match x.2 with | .ok _ => true | _ => !c.wp.helpers.has x.1
     let lanes := xs.map fun x => x.1
     let ds := (List.range d.span).map fun j => ((c.dstReg d).1, (c.dstReg d).2 + j)
     c.checkOps [d, a] = .ok () → c.checkReads [a] f.g = .ok () → act ≠ 0#64 → laneFault xs = none → missing xs = [] →
     c.checkTx space 0xBD size (okLanes xs) = .ok () → c.wp.canPark = true →
     let as := mkAccs s.serial (c.access xs a off size s.serial (.load ty acq) [] []) lanes
     let looks := c.loadLooksUp space act (okLanes xs)
     let now := space ≠ .stk ∧ (c.atOnce space = true ∨ looks = true)
     c.checkQuiet space as = .ok () → c.stackMapped (okLanes xs) size true = true →
     (c.atOnce space = true → space ≠ .stk → c.lostNow as = false) →
     (∀ x ∈ okLanes xs, c.ownWrites x.2 (c.addrOf a off x.1) size = false) →
     (now → s.needsFlush c.b c.w as = false ∨ s.flushClear c.core = true) →
     let c0 := if now then c.at (s.flushFor c.b c.w as) else c
     let hit := if looks then c.lookup c0.s (c.loadKey space ty acq a off (okLanes xs) d.span) else none
     let reads := (okLanes xs).map fun x => (x.2.space, x.2.addr, x.2.span size)
     let tx := c0.wp.tx.map fun t => t.joinReads reads
     (∀ k, hit = some k → c.bindable k = true → (∀ x ∈ as, c.bindWaits k x = false) → k.results.length = ds.length →
       ∃ (u : State) (e : Cx), CompletesVia i s c words u e ∧ Unwritten c0.s c0 u e ds ∧ e.wp.binds = c.wp.binds + 1#32 ∧
         e.wp.keys = c.wp.keys ∧ (∀ (j : Nat) (cls : RegClass) (n : Nat), ds[j]? = some (cls, n) →
           k.results[j]? = some (regPtr e.wp e.pt cls n)) ∧
         ((∀ r ∈ k.results, (c0.s.core c.core).isReady r = true) → e.wp.pend.map (·.serial) = c0.wp.pend.map (·.serial)) ∧
         ∀ r, k.results.find? (fun x => !(c0.s.core c.core).isReady x) = some r →
           ∃ new, e.wp.pend = c0.wp.pend ++ new ∧ new.map (fun x => x.lane) = lanes ∧ ∀ x ∈ new, x.kind = .bound r acq) ∧
     (hit = none → c.checkBoard size true (okLanes xs) = .ok () → (act = fullMask c.width ∨ c.allMergeable act ds = .ok ()) →
       (∀ t, tx = some t → 64 < t.reads.length → exec i s = .next (c.stop i (.abort 3 0))) ∧
       (c.atOnce space = true ∨ lanes = [] → (∀ t, tx = some t → t.reads.length ≤ 64) →
         ∃ (u : State) (e : Cx) (n : Nat), CompletesVia i s c words u e ∧ Unwritten c0.s c0 u e ds ∧
         SameSpecial { c0 with wp := { c0.wp.pass n (maskOf lanes) with tx := tx } } e ∧
         ∀ l, l < c.width → ∀ j cls n, ds[j]? = some (cls, n) →
           e.get cls n l = (if act.has l then
             match c.laneAddr space (.load ty) size (c.addrOf a off l) with
             | .ok t =>
               let x := loadElem ty t.sx (c0.readNow t.space t.place t.addr (t.span size))
               if j = 1 then x.hi else x.lo
             | _ => 0#32
           else c.get cls n l)) ∧
       (c.atOnce space = false → lanes ≠ [] →
         ∃ (u : State) (e : Cx) (new : List Access), CompletesVia i s c words u e ∧ Unwritten c0.s c0 u e ds ∧
         SameSpecial { c0 with wp := { c0.wp with pend := c0.wp.pend ++ new } } e ∧ new.map (fun x => x.lane) = lanes ∧
         ∀ x ∈ new, x.kind = .load ty acq ∧ x.engine = none ∧ x.dests = ds.map (fun k => regPtr e.wp e.pt k.1 k.2) ∧
           ∃ t, c.laneAddr space (.load ty) size (c.addrOf a off x.lane) = .ok t ∧ x.place = t.place ∧
             x.addr = t.addr ∧ x.size = t.span size ∧ x.sx = t.sx))) ∧
  (∀ (i : Instr) (space : Space) (ty : MType) (acq : Bool) (f : L2u) (off words : Nat) (s : State) (c : Cx),
     ldForm i = some (space, ty, acq, f, off, words) → Issues i s c → IdsInv s →
     let d := dOp f.d onlyV (ty == .u64)
     let a := addrOp f.a f.pa space
     let size := mtypeSize ty
     let act := c.acting f.g
     let xs := (c.targets space (.load ty) size a off act).filter fun x => match x.2 with | .ok _ => true | _ => !c.wp.helpers.has x.1
     let ds := (List.range d.span).map fun j => ((c.dstReg d).1, (c.dstReg d).2 + j)
     c.checkOps [d, a] = .ok () → c.checkReads [a] f.g = .ok () → act ≠ 0#64 →
     (∀ l cause info, l < 64 → act.has l = true → c.wp.helpers.has l = false →
       c.laneAddr space (.load ty) size (c.addrOf a off l) = .bad cause info →
       (∀ k, k < l → act.has k = true → c.wp.helpers.has k = false →
         ∀ x y, c.laneAddr space (.load ty) size (c.addrOf a off k) ≠ .bad x y) →
       ((∀ t, c.wp.tx = some t → t.lane = false) → exec i s = .next (c.stop i (.trap cause info))) ∧
       ∃ m : Mask, runLoad i space ty acq f off words c = .error (.laneTrap cause info m) ∧
         ∀ k, k < 64 → (m.has k = true ↔ act.has k = true ∧ c.wp.helpers.has k = false ∧
           ∃ y, c.laneAddr space (.load ty) size (c.addrOf a off k) = .bad cause y)) ∧
     (laneFault xs = none → c.checkTx space 0xBD size (okLanes xs) = .ok () →
       (c.wp.canPark = false → exec i s = .next s.stalled) ∧
       (c.wp.canPark = true → missing xs ≠ [] → (∃ t, c.wp.tx = some t ∧ t.lane = false) → exec i s = .next (c.stop i (.trap 0x0B 1))) ∧
       (c.wp.canPark = true → missing xs ≠ [] → c.inTx = false → c.stackMapped (okLanes xs) size true = true →
         (∀ x ∈ okLanes xs, c.ownWrites x.2 (c.addrOf a off x.1) size = false) → c.checkBoard size true (okLanes xs) = .ok () →
         (act = fullMask c.width ∨ c.allMergeable act ds = .ok ()) →
         ∃ (u : State) (e : Cx) (r : Parked), CompletesVia i s c words u e ∧ Unwritten s c u e ds ∧ e.wp.pend = c.wp.pend ∧
           e.wp.replay.getLast? = some r ∧ r.kind = .ld ∧ r.va = c.addrOf a off ((missing xs).headD 0) ∧ r.mask = maskOf (missing xs) ∧
           r.stale = false ∧ r.line = false ∧ r.accs.map (fun x => x.lane) = xs.map (fun x => x.1) ∧
           ∀ x ∈ r.accs, x.kind = .load ty acq ∧ x.dests = ds.map (fun k => regPtr e.wp e.pt k.1 k.2))))

/-- R28, R83, R85, R107, R202, R242, R394: a store whose checks pass in every lane completes without writing a register. Outside
DET mode, transactions and the stack one access of each storing lane, or of each SX block that its lanes cover, joins the
warp's pending accesses with its data and its own address, and no byte of memory has changed yet. In a transaction its bytes
join the write buffer, or abort with code 3 beyond 64 sectors. In DET mode its block sees its bytes at once, memory outside
the block's own does not change, and without step lines it parks (R246). On the stack its bytes are stored at once, lane
after lane, and in the pages of the context's pool. R85, R209, R221, R229, R256, R394: a store of whose lanes one fails its
checks (alignment, protection, a lineage page's `LINEAGEWRITE`) takes the trap of the first such lane; lanes that cover an
SX block in part take `FMTPARTIAL`, and a `.sp` store outside the declared ranges of an ownership launch `OWNERSHIP`, all
with nothing stored. One with a lane that has no translation parks whole in the replay queue, with each lane's data, and in
a transaction takes `TRANSLATE`; with all the queue's entries in use it stalls, whether its lanes find their translations or
not. Under `TRY.L` the lanes that fail for the first cause, and those alone, raise it. That an access of a lane is a pending
record, performed by an event of its own, is the model's reading (log 9, 30). -/
def Obligations.StoresWrite : Prop :=
  (∀ (i : Instr) (space : Space) (ty : MType) (rel : Bool) (f : L2ab) (off words field : Nat) (s : State) (c : Cx),
     stForm i = some (space, ty, rel, f, off, words, field) → Issues i s c → IdsInv s → MemInv s →
     let a := addrOp f.a f.pa space
     let b : OpSpec := { bOp f.b f.pb (ty == .u64) (storeRt ty) with field := field }
     let ops := if field = 0 then [b, a] else [a, b]
     let size := mtypeSize ty
     let act := c.doing f.g
     let xs := c.targets space (.store ty) size a off act
     let data := fun l => leBytes size (c.read (c.resolve b) l).toNat
     let ps := (storePieces ty (okLanes xs) fun l => c.read (c.resolve b) l).1
     let sat := (storePieces ty (okLanes xs) fun l => c.read (c.resolve b) l).2
     let as := mkAccs s.serial (c.access xs a off size s.serial (.store ty rel) [] []) (xs.map (·.1))
     let wstat := if sat then c.wp.wstat ||| flFMTSAT else c.wp.wstat
     c.checkOps ops = .ok () → c.checkReads ops f.g = .ok () → act ≠ 0#64 →
     (∀ l, l < 64 → act.has l = true → ∃ t, c.laneAddr space (.store ty) size (c.addrOf a off l) = .ok t) →
     c.checkTx space 0xBE size (okLanes xs) = .ok () → sxBad (okLanes xs) = [] →
     (c.l.owncompat = false ∨ space ≠ .sp ∨ ∀ x ∈ xs, c.blk.owns (c.addrOf a off x.1) size = true) → c.wp.canPark = true →
     c.checkQuiet space as = .ok () → c.checkFlush space as = .ok () → c.checkBoard size false (okLanes xs) = .ok () →
     c.stackMapped (okLanes xs) size false = true → (c.det = true → c.inTx = false → space ≠ .stk → c.lostNow as = false) →
     let stored := fun k => ∃ l, l < 64 ∧ act.has l = true ∧ c.addrOf a off l ≤ k ∧ k < c.addrOf a off l + size
     ((∀ x ∈ okLanes xs, x.2.sx = none) → ps.map (fun p => (p.lane, p.data)) = act.lanes.map fun l => (l, data l)) ∧
     (space = .stk → c.inTx = false → ∃ (u : State) (e : Cx), CompletesVia i s c words u e ∧ SameRegs c e [] ∧
       SameSpecial { c with wp := c.wp.pass s.serial act } e ∧ SameFns s u ∧ u.pkgs = s.pkgs ∧ u.copies = s.copies ∧ SameLaunches s u ∧
       ((s.core c.core).stackCache.length ≤ 32768 → (u.core c.core).stackCache.length ≤ 32768) ∧
       (∀ l, l < 64 → act.has l = true →
         (∀ k, k < 64 → act.has k = true → k ≠ l → overlap (c.addrOf a off k) size (c.addrOf a off l) size = false) →
         ∀ j, j < size → alook (c.addrOf a off l + j) e.wp.stack = some ((data l).getD j 0#8) ∧
           ∀ pa, s.stackPa c.core c.l c.wp (c.addrOf a off l + j) = some pa →
             (∀ k, stored k → k ≠ c.addrOf a off l + j → s.stackPa c.core c.l c.wp k ≠ some pa) →
             u.scratch.get pa = (data l).getD j 0#8 ∧ u.stackByte c.b e.wp (c.addrOf a off l + j) = (data l).getD j 0#8) ∧
       (∀ k, ¬ stored k → alook k e.wp.stack = alook k c.wp.stack) ∧
       (∀ x k n, (x, n) ≠ (c.b, c.w) → alook k (u.warp x n).stack = alook k (s.warp x n).stack) ∧
       (∀ pa, (∀ k, stored k → s.stackPa c.core c.l c.wp k ≠ some pa) → u.scratch.get pa = s.scratch.get pa) ∧
       (∀ k, u.hbm.get k = s.hbm.get k) ∧ (∀ k, u.host.get k = s.host.get k) ∧
       ∀ x k, (u.block x).shared.get k = (s.block x).shared.get k) ∧
     (c.atOnce space = false → ∃ (u : State) (e : Cx) (new : List Access), CompletesVia i s c words u e ∧ Unwritten s c u e [] ∧
       SameSpecial { c with wp := { c.wp with pend := c.wp.pend ++ new, wstat := wstat } } e ∧
       new.map (fun x => (x.lane, x.lanes, x.place, x.addr, x.data)) =
         ps.map (fun p => (p.lane, p.lanes, p.target.place, p.target.addr, p.data)) ∧
       ∀ x ∈ new, x.kind = .store ty rel ∧ x.engine = none ∧
         ∃ t, c.laneAddr space (.store ty) size (c.addrOf a off x.lane) = .ok t ∧ x.place = t.place ∧ x.addr = t.addr) ∧
     (∀ t, c.wp.tx = some t →
       let t' := ps.foldl (fun t p => t.putAll p.target.space p.target.addr p.lanes (p.target.ord == .so) p.data) t
       (64 < t'.sectors.length → exec i s = .next ((c.begun i).stop i (.abort 3 0))) ∧
       (t'.sectors.length ≤ 64 → ∃ (u : State) (e : Cx), CompletesVia i s c words u e ∧ Unwritten s c u e [] ∧
         SameSpecial { c with wp := { c.wp with tx := some t', wstat := wstat } } e)) ∧
     (c.det = true → c.inTx = false → space ≠ .stk → c.blk.release = [] → s.releaseUsed c.core ≤ 65536 → (space = .span → c.l.contained = false) →
       let s1 := s.cacheLeaves c.core c.l.fn c.l.ctx (xs.map fun x => x.2)
       (∀ v, s1.drawLines c.b (pieceRanges ps) = .ok v → ∃ (u : State) (e : Cx), CompletesVia i s c words u e ∧ SameRegs c e [] ∧
         u.pkgs = s.pkgs ∧ u.copies = s.copies ∧ SameLaunches s u ∧ e.wp.wstat = wstat ∧ e.wp.retired = c.wp.retired ∧
         e.wp.pend.map (·.serial) = c.wp.pend.map (·.serial) ∧
         (∀ p ∈ ps, (∀ q ∈ ps, q ≠ p → q.target.place = p.target.place → overlap q.target.addr q.data.length p.target.addr p.data.length = false) →
           ps.filter (fun q => q == p) = [p] →
           ∀ j, j < p.data.length → u.seenByte c.b p.target.place (p.target.addr + j) = p.data.getD j 0#8) ∧
         (∀ k, (∀ p ∈ ps, p.target.place = .scratch → k < p.target.addr ∨ p.target.addr + p.data.length ≤ k) →
           u.seenByte c.b .scratch k = s.seenByte c.b .scratch k) ∧
         SameBut s u fun pl k => pl ≠ .scratch ∧ ∃ p ∈ ps, p.target.place = pl ∧ p.target.addr ≤ k ∧ k < p.target.addr + p.data.length) ∧
       (s1.drawLines c.b (pieceRanges ps) = .full → ∃ (u : State) (e : Cx) (r : Parked), CompletesVia i s c words u e ∧
         Unwritten s c u e [] ∧ e.wp.replay.getLast? = some r ∧ r.kind = .st ∧ r.line = true ∧ r.stale = false ∧
         r.accs.map (fun x => (x.lane, x.addr, x.data)) = ps.map (fun p => (p.lane, p.target.addr, p.data))))) ∧
  (∀ (i : Instr) (space : Space) (ty : MType) (rel : Bool) (f : L2ab) (off words field : Nat) (s : State) (c : Cx),
     stForm i = some (space, ty, rel, f, off, words, field) → Issues i s c → IdsInv s →
     let a := addrOp f.a f.pa space
     let b : OpSpec := { bOp f.b f.pb (ty == .u64) (storeRt ty) with field := field }
     let ops := if field = 0 then [b, a] else [a, b]
     let size := mtypeSize ty
     let act := c.doing f.g
     let xs := c.targets space (.store ty) size a off act
     let bad := sxBad (okLanes xs)
     c.checkOps ops = .ok () → c.checkReads ops f.g = .ok () → act ≠ 0#64 →
     (∀ l cause info, l < 64 → act.has l = true → c.laneAddr space (.store ty) size (c.addrOf a off l) = .bad cause info →
       (∀ k, k < l → act.has k = true → ∀ x y, c.laneAddr space (.store ty) size (c.addrOf a off k) ≠ .bad x y) →
       ((∀ t, c.wp.tx = some t → t.lane = false) → exec i s = .next ((c.begun i).stop i (.trap cause info))) ∧
       ∃ m : Mask, runStore space ty rel f off words field c = .error (.laneTrap cause info m) ∧
         ∀ k, k < 64 → (m.has k = true ↔ act.has k = true ∧ ∃ y, c.laneAddr space (.store ty) size (c.addrOf a off k) = .bad cause y)) ∧
     (laneFault xs = none → c.checkTx space 0xBE size (okLanes xs) = .ok () →
       (missing xs = [] → bad ≠ [] → runStore space ty rel f off words field c = .error (.laneTrap 0x0E 0 (maskOf bad)) ∧
         ((∀ t, c.wp.tx = some t → t.lane = false) → exec i s = .next ((c.begun i).stop i (.trap 0x0E 0)))) ∧
       (missing xs ≠ [] ∨ bad = [] →
         (c.l.owncompat = true → space = .sp → (∃ x ∈ xs, c.blk.owns (c.addrOf a off x.1) size = false) →
           exec i s = .next ((c.begun i).stop i (.trap 0x13 1))) ∧
         (c.l.owncompat = false ∨ space ≠ .sp ∨ (∀ x ∈ xs, c.blk.owns (c.addrOf a off x.1) size = true) →
           (c.wp.canPark = false → exec i s = .next (c.begun i).s.stalled) ∧
           (c.wp.canPark = true → missing xs ≠ [] → (∃ t, c.wp.tx = some t ∧ t.lane = false) →
             exec i s = .next ((c.begun i).stop i (.trap 0x0B 2))) ∧
           (c.wp.canPark = true → missing xs ≠ [] → c.inTx = false → c.checkBoard size false (okLanes xs) = .ok () →
             ∃ (u : State) (e : Cx) (r : Parked), CompletesVia i s c words u e ∧ Unwritten s c u e [] ∧ e.wp.pend = c.wp.pend ∧
               e.wp.wstat = c.wp.wstat ∧ e.wp.replay.getLast? = some r ∧ r.kind = .st ∧ r.va = c.addrOf a off ((missing xs).headD 0) ∧
               r.mask = maskOf (missing xs) ∧ r.stale = false ∧ r.line = false ∧
               (r.accs.map fun x => (x.lane, x.addr, x.data)) =
                 (act.lanes.map fun l => (l, c.addrOf a off l, leBytes size (c.read (c.resolve b) l).toNat)) ∧
               ∀ x ∈ r.accs, x.kind = .store ty rel)))))

/-- R28, R245, R246, R302, R377: an `ATOM` or `RED` whose checks pass in every lane that is no helper completes. Outside DET
mode one access of each such lane joins the warp's pending accesses, with the operation and the lane's data, and names the
atomic engine of a scratchpad word's cluster (R158); no byte changes yet, helper lanes receive 0, and lanes that do not act
keep their values. In DET mode the lanes act at once, in lane order: each returns what its block sees after the lower lanes
on its word, the block sees the new values, an atomic on scratchpad joins the block's atomics of the step, and without step
lines it parks; memory outside the block's own does not change. R28, R221, R229, R302, R377: an `ATOM` or `RED` of whose
lanes one fails its checks takes the trap of the first such lane that is no helper, with nothing written; one with a lane
that has no translation parks whole in the replay queue; with all the queue's entries in use it stalls, whether its lanes
find their translations or not. That an access of a lane is a pending record, performed by an event of its own, is the
model's reading (log 9, 30). -/
def Obligations.AtomicsIssue : Prop :=
  (∀ (i : Instr) (op : AtomOp) (space : Space) (ty : AtomTy) (ord : AtomOrd) (d : Option Opnd) (f : L2ab) (k : Option Opnd)
     (s : State) (c : Cx),
     atomForm i = some (op, space, ty, ord, d, f, k) → Issues i s c → IdsInv s → MemInv s →
     let size := atomSize ty
     let a := addrOp f.a f.pa space true
     let b := bOp f.b f.pb (ty == .u64) (atomRt ty)
     let kk := k.map fun o => cOp o (ty == .u64) (atomRt ty)
     let dst := d.map fun o => dOp o onlyV (ty == .u64)
     let ins := [a, b] ++ kk.toList
     let act := c.acting f.g
     let acc := act &&& ~~~ c.wp.helpers
     let xs := c.targets space .atom size a 0 acc
     let ds := match dst with | some x => (List.range x.span).map fun j => ((c.dstReg x).1, (c.dstReg x).2 + j) | none => []
     let data := fun l => c.read (c.resolve b) l
     let comp := fun l => match kk with | some y => c.read (c.resolve y) l | none => 0#64
     let as := mkAccs s.serial (c.access xs a 0 size s.serial (.atom op ty ord d.isSome 0 0) [] []) (xs.map fun x => x.1)
     c.wp.canPark = true → c.checkOps (dst.toList ++ ins) = .ok () → c.checkReads ins f.g = .ok () → act ≠ 0#64 →
     (∀ l, l < 64 → acc.has l = true → ∃ t, c.laneAddr space .atom size (c.addrOf a 0 l) = .ok t) →
     c.checkBoard size false (okLanes xs) = .ok () → (act = fullMask c.width ∨ c.allMergeable act ds = .ok ()) →
     (c.det = false → ∃ (u : State) (e : Cx) (new : List Access), CompletesVia i s c 2 u e ∧ Unwritten s c u e ds ∧
       SameSpecial { c with wp := { c.wp with pend := c.wp.pend ++ new } } e ∧ new.map (fun x => x.lane) = acc.lanes ∧
       (∀ (j : Nat) (cls : RegClass) (n l : Nat), ds[j]? = some (cls, n) → l < c.width → (act.has l = false → e.get cls n l = c.get cls n l) ∧
         (act.has l = true → acc.has l = false → e.get cls n l = 0#32)) ∧
       ∀ x ∈ new, x.kind = .atom op ty ord dst.isSome (data x.lane) (comp x.lane) ∧
         x.dests = ds.map (fun k => regPtr e.wp e.pt k.1 k.2) ∧
         ∃ t, c.laneAddr space .atom size (c.addrOf a 0 x.lane) = .ok t ∧ x.place = t.place ∧ x.addr = t.addr ∧
           x.engine = if t.space = 1 then some (t.addr / 2 ^ 23) else none) ∧
     (c.det = true → c.checkQuiet space as = .ok () → c.lostNow as = false → c.blk.release = [] → s.releaseUsed c.core ≤ 65536 →
       (space = .span → c.l.contained = false) →
       (∀ x ∈ okLanes xs, ∀ y ∈ okLanes xs, x.2.place = y.2.place → x.2.addr = y.2.addr ∨ overlap x.2.addr size y.2.addr size = false) →
       let word := fun (x y : Nat × Target) => decide (x.2.place = y.2.place) && decide (x.2.addr = y.2.addr)
       let after := fun (ys : List (Nat × Target)) (v : Dword) => ys.foldl (fun v y =>
         BitVec.ofNat 64 (leNat (leBytes size (atomNew op ty v (data y.1) (comp y.1)).toNat))) v
       let was := fun (x : Nat × Target) => BitVec.ofNat 64 (leNat (s.seenBytes c.b x.2.place x.2.addr size))
       let ranges := (okLanes xs).filterMap fun x => if x.2.space = 1 then some (x.2.addr, size) else none
       let s1 := s.cacheLeaves c.core c.l.fn c.l.ctx (xs.map fun x => x.2)
       (∀ v, s1.drawLines c.b ranges = .ok v → ∃ (u : State) (e : Cx), CompletesVia i s c 2 u e ∧ SameRegs c e ds ∧
         u.pkgs = s.pkgs ∧ u.copies = s.copies ∧ SameLaunches s u ∧ e.wp.wstat = c.wp.wstat ∧ e.wp.retired = c.wp.retired ∧
         e.wp.pend.map (·.serial) = c.wp.pend.map (·.serial) ∧
         (∀ (j : Nat) (cls : RegClass) (n l : Nat), ds[j]? = some (cls, n) → l < c.width →
           (∀ x ∈ okLanes xs, x.1 = l → e.get cls n l =
             let v : Dword := after ((okLanes xs).filter fun y => decide (y.1 < l) && word x y) (was x)
             if j = 1 then v.hi else v.lo) ∧
           (act.has l = false → e.get cls n l = c.get cls n l) ∧ (act.has l = true → acc.has l = false → e.get cls n l = 0#32)) ∧
         (∀ x ∈ okLanes xs, BitVec.ofNat 64 (leNat (u.seenBytes c.b x.2.place x.2.addr size)) = after ((okLanes xs).filter (word x)) (was x)) ∧
         (∀ k, (∀ x ∈ okLanes xs, x.2.place = .scratch → k < x.2.addr ∨ x.2.addr + size ≤ k) →
           u.seenByte c.b .scratch k = s.seenByte c.b .scratch k) ∧
         (u.block c.b).atoms = c.blk.atoms ++ ((okLanes xs).filter fun x => x.2.place == .scratch).map (fun x =>
           { addr := x.2.addr, op := op, ty := ty, b := data x.1, c := comp x.1 }) ∧
         SameBut s u fun pl k => pl ≠ .scratch ∧ ∃ x ∈ okLanes xs, x.2.place = pl ∧ x.2.addr ≤ k ∧ k < x.2.addr + size) ∧
       (s1.drawLines c.b ranges = .full → ∃ (u : State) (e : Cx) (r : Parked), CompletesVia i s c 2 u e ∧ Unwritten s c u e ds ∧
         e.wp.pend = c.wp.pend ∧ e.wp.replay.getLast? = some r ∧ r.kind = .atom ∧ r.line = true ∧ r.stale = false ∧
         r.accs.map (fun x => (x.lane, x.kind)) = acc.lanes.map fun l => (l, .atom op ty ord dst.isSome (data l) (comp l))))) ∧
  (∀ (i : Instr) (op : AtomOp) (space : Space) (ty : AtomTy) (ord : AtomOrd) (d : Option Opnd) (f : L2ab) (k : Option Opnd)
     (s : State) (c : Cx),
     atomForm i = some (op, space, ty, ord, d, f, k) → Issues i s c → IdsInv s →
     let size := atomSize ty
     let a := addrOp f.a f.pa space true
     let b := bOp f.b f.pb (ty == .u64) (atomRt ty)
     let kk := k.map fun o => cOp o (ty == .u64) (atomRt ty)
     let dst := d.map fun o => dOp o onlyV (ty == .u64)
     let ins := [a, b] ++ kk.toList
     let act := c.acting f.g
     let acc := act &&& ~~~ c.wp.helpers
     let xs := c.targets space .atom size a 0 acc
     let ds := match dst with | some x => (List.range x.span).map fun j => ((c.dstReg x).1, (c.dstReg x).2 + j) | none => []
     c.checkOps (dst.toList ++ ins) = .ok () → c.checkReads ins f.g = .ok () → act ≠ 0#64 →
     (∀ l cause info, l < 64 → acc.has l = true → c.laneAddr space .atom size (c.addrOf a 0 l) = .bad cause info →
       (∀ k, k < l → acc.has k = true → ∀ x y, c.laneAddr space .atom size (c.addrOf a 0 k) ≠ .bad x y) →
       exec i s = .next ((c.begun i).stop i (.trap cause info))) ∧
     (laneFault xs = none →
       (c.wp.canPark = false → exec i s = .next (c.begun i).s.stalled) ∧
       (c.wp.canPark = true → missing xs ≠ [] → c.checkBoard size false (okLanes xs) = .ok () →
         (act = fullMask c.width ∨ c.allMergeable act ds = .ok ()) →
         ∃ (u : State) (e : Cx) (r : Parked), CompletesVia i s c 2 u e ∧ Unwritten s c u e ds ∧ e.wp.pend = c.wp.pend ∧
           e.wp.replay.getLast? = some r ∧ r.kind = .atom ∧ r.va = c.addrOf a 0 ((missing xs).headD 0) ∧ r.mask = maskOf (missing xs) ∧
           r.stale = false ∧ r.line = false ∧ r.accs.map (fun x => x.lane) = acc.lanes ∧
           ∀ x ∈ r.accs, x.dests = ds.map (fun k => regPtr e.wp e.pt k.1 k.2) ∧
             x.kind = .atom op ty ord dst.isSome (c.read (c.resolve b) x.lane)
               (match kk with | some y => c.read (c.resolve y) x.lane | none => 0#64))))

/-- R158, R172, R177, R281, R302, R353: a pending access waits while the order of its warp's accesses or the scoreboard holds it
back, those performed together with it too; else it is performed, an atomic on scratchpad when its engine grants it. Lanes
of one load that share bytes are performed together, and so are the words of a wait: each gives its lane the element of the
bytes that the block sees. A store writes its bytes and no others; an atomic leaves the new value, and one that returns
gives its lane the old one. An access to a package with no path left is an uncorrectable error of its block. The warp's
other accesses stay; a bound load goes with its entry (R49), a retired wait may be woken (R194). What memory holds is said
outside DET mode and CONTAINED launches. R158: after four local grants in a row the atomic engine of a cluster grants the
oldest remote request; else, and with no remote one, the request of the next local core in turn, its oldest first; with
remote requests only it grants the oldest, and with none it does nothing. That an access acts on the one memory at once, for
all observers, is the model's reading (log 9); what it does to release buffers is its reading (log 30), and that an atomic
through `.span` is buffered is its choice (log 39). -/
def Obligations.AccessesArePerformed : Prop :=
  (∀ (b w : Nat) (a : Access) (s : State), MemInv s → IdsInv s → (s.block? b).isSome = true → (s.block b).saved = false →
     (s.warp b w).pend.find? (fun x => x.serial == a.serial) = some a →
     let set := (s.warp b w).together a
     let core := (s.block b).core
     let r := s.perform b w a.serial
     (a.engine = none → exec (.accessPerformed b w a.serial) s = .next r) ∧
     (a.engine.isSome = true → exec (.accessPerformed b w a.serial) s = .next s) ∧
     (set.all (s.mayPerform b (s.warp b w)) = false → r = s) ∧
     (set.all (s.mayPerform b (s.warp b w)) = true → set.any (s.accessLost b) = true → r = s.consume b) ∧
     (set.all (s.mayPerform b (s.warp b w)) = true → set.any (s.accessLost b) = false → s.uncompared →
       (∀ x ∈ set, ∀ y ∈ set, x.lane = y.lane → x = y) →
       (s.launch (s.block b).launch).det = false → (s.launch (s.block b).launch).contained = false → (s.block b).release = [] →
       s.releaseUsed core ≤ 65536 → (a.place = .scratch ∨ ∃ o, a.place = .shared o ∧ (s.block? o).isSome = true) →
       (∀ y ∈ (r.warp b w).pend, (∀ x ∈ set, x.serial ≠ y.serial) ∧ ∃ x ∈ (s.warp b w).pend, x.serial = y.serial) ∧
       (∀ x ∈ (s.warp b w).pend, (∀ y ∈ set, y.serial ≠ x.serial) → x.kind.bound? = none → x = x.woken →
         ∃ y ∈ (r.warp b w).pend, { y with passed := false } = { x with passed := false }) ∧
       let gives := fun (x : Access) (v : Dword) => ∀ j e y, x.dests[j]? = some e → x.dests.Nodup → (s.core core).entry? e = some y →
         y.cls = .v → y.dead = false → x.lane < y.value.length →
         (∃ k ∈ s.blocks, k.core = core ∧ k.ended = false ∧ ∃ v ∈ k.warps, e ∈ ptrIds v.v) →
         (∀ q ∈ (s.core core).entries, q.eid ∈ x.dests → q.copyOf = none) →
         (r.core core).laneVal e x.lane = if j = 0 then v.lo else v.hi
       (∀ ty acq, a.kind = .load ty acq → SameBytes s r ∧
         ∀ x ∈ set, ∀ ty acq, x.kind = .load ty acq → gives x (loadElem ty x.sx (s.seenBytes b x.place x.addr x.size))) ∧
       (∀ wide acq want, a.kind = .wait wide acq want → SameBytes s r ∧
         ∀ x ∈ set, ∀ wide acq want, x.kind = .wait wide acq want →
           gives x (loadElem (if wide then .u64 else .b32) x.sx (s.seenBytes b x.place x.addr x.size))) ∧
       (∀ ty rel, a.kind = .store ty rel → set = [a] →
         (∀ j, j < a.data.length → r.rawByte a.place (a.addr + j) = a.data.getD j 0#8) ∧
         SameBut s r fun p k => p = a.place ∧ a.addr ≤ k ∧ k < a.addr + a.data.length) ∧
       (∀ op ty ord returns v k, a.kind = .atom op ty ord returns v k → set = [a] →
         let old := BitVec.ofNat 64 (leNat (s.seenBytes b a.place a.addr (atomSize ty)))
         (List.range (atomSize ty)).map (fun j => r.rawByte a.place (a.addr + j)) =
           leBytes (atomSize ty) (atomNew op ty old v k).toNat ∧
         (SameBut s r fun p k => p = a.place ∧ a.addr ≤ k ∧ k < a.addr + atomSize ty) ∧ gives a old) ∧
       (a.kind.reads = false → a.kind.writes = false → SameBytes s r))) ∧
  (∀ (k : Nat) (s : State), let all := s.engineReqs k
     let near := all.filter fun y => clusterOf y.1 == k
     let far := all.filter fun y => clusterOf y.1 != k
     let turn := fun (y : Nat × Nat × Nat × Nat) => [(y.1 % 8 + 7 - (s.cluster k).lastCore) % 8, y.2.2.2]
     (all = [] → exec (.atomicEngineGrant k) s = .next s) ∧
     (∀ x ∈ far, (∀ y ∈ far, y ≠ x → x.2.2.2 < y.2.2.2) → (near = [] ∨ 4 ≤ (s.cluster k).locals) →
       exec (.atomicEngineGrant k) s =
         .next ((s.setCluster k { s.cluster k with locals := 0 }).perform x.2.1 x.2.2.1 x.2.2.2)) ∧
     (∀ x ∈ near, (∀ y ∈ near, y ≠ x → lexLt (turn x) (turn y) = true) → (far = [] ∨ (s.cluster k).locals < 4) →
       exec (.atomicEngineGrant k) s = .next
         ((s.setCluster k { s.cluster k with locals := (s.cluster k).locals + 1, lastCore := x.1 % 8 }).perform x.2.1 x.2.2.1 x.2.2.2)))

/-- R179, R328: `FENCE` completes: it is ordered behind the warp's accesses that are not yet performed, and with none it has no
effect, but that it has its block's release buffer performed where it orders what is buffered, which is the model's reading
(log 30). R196, R342: `IFENCE` empties the core's I-cache; that it first waits for the warp's accesses, and has the release
buffer performed, is the model's reading (log 30). R195, R403: `WAKE` completes and changes no register and no byte; outside
DET mode one wake of each acting lane, no helper lane, joins the warp's pending accesses, at the word that the lane's
address names. That accesses are pending records of the warp is the model's reading (log 9); that IFENCE stalls while the
warp has unperformed accesses, and which release buffers a fence performs first, is its reading (log 30). -/
def Obligations.FencesAndWakes : Prop :=
  ((∀ (kind : FenceKind) (scope : Scope) (s : State) (c : Cx), Issues (.fence kind scope) s c → IdsInv s →
     ∃ (u : State) (e : Cx) (new : List Access), CompletesVia (.fence kind scope) s c 1 u e ∧ Untouched s c u e [] ∧
       SameSpecial { c with wp := { c.wp with pend := c.wp.pend ++ new } } e ∧
       let flush := c.l.contained && !c.blk.release.isEmpty && c.l.fenceFlushes kind scope
       (c.allPerformed = true → flush = false → new = []) ∧
       (c.allPerformed = false ∨ flush = true → ∃ x, new = [x] ∧ x.kind = .fence kind scope ∧ x.lanes = c.active)) ∧
   (∀ (s : State) (c : Cx), Issues .ifence s c →
     let clear := c.blk.release = [] ∨ s.flushClear c.core = true
     (c.allPerformed = false ∨ ¬ clear → exec .ifence s = .next s.stalled) ∧
     (c.allPerformed = true → clear → ∃ (u : State) (e : Cx), CompletesVia .ifence s c 1 u e ∧
       (let c0 := c.at (s.flushNow c.b); Untouched c0.s c0 u e [] ∧ SameSpecial c0 e) ∧ (u.core c.core).icache = []))) ∧
  (∀ (space : Space3) (f : L2a) (s : State) (c : Cx), Issues (.wake space f) s c → IdsInv s →
     let a := addrOp f.a f.pa (space3 space)
     let act := c.doing f.g
     c.checkOps [a] = .ok () → c.checkReads [a] f.g = .ok () → c.wp.canPark = true →
     (∀ l, l < 64 → act.has l = true → ∃ t, c.laneAddr (space3 space) .wake 4 (c.addrOf a 0 l) = .ok t) →
     ∃ (u : State) (e : Cx) (new : List Access), CompletesVia (.wake space f) s c 2 u e ∧ Unwritten s c u e [] ∧
       SameSpecial { c with wp := { c.wp with pend := c.wp.pend ++ new } } e ∧ (c.det = true → new = []) ∧
       (c.det = false → new.map (fun x => x.lane) = act.lanes) ∧
       ∀ x ∈ new, x.kind = .wake ∧
         ∃ t, c.laneAddr (space3 space) .wake 4 (c.addrOf a 0 x.lane) = .ok t ∧ x.place = t.place ∧ x.addr = t.addr)

/-- R28, R194, R248, R402: a `WAITADDR` completes with the words that it reads when one of them differs from the value awaited,
in a lane that is no helper lane, or no such lane acts; when all are equal its path parks, with its results on their way,
until a wake. In DET mode it does not retire then: the turn ends, and the path waits. That it reads its words as it issues,
once its earlier accesses let it, is the model's reading (log 30). R169, R194, R195, R261, R281: a parked path goes on when
a wake has released it, and may go on at any time, once the scoreboard lets it read its words; it is no longer parked then,
and the instruction has retired. A word that has no path left to it or is marked as poisoned is an uncorrectable error. What
it does to release buffers is the model's reading (log 30). That WAITADDR reads its words as it issues, and so completes at
once when they differ, is the model's reading (log 30); that a parked access counts as SO is its reading (log 9). -/
def Obligations.WaitsAndContinuations : Prop :=
  (∀ (space : Space3) (wide acq : Bool) (f : L2) (s : State) (c : Cx), Issues (.waitaddr space wide acq f) s c → IdsInv s →
     let d := dOp f.d onlyV wide
     let a := addrOp f.a f.pa (space3 space)
     let b := bOp f.b f.pb wide (if wide then .w64 else .w32)
     let size := if wide then 8 else 4
     let act := c.acting f.g
     let xs := (c.targets (space3 space) .wait size a 0 act).filter fun x => match x.2 with | .ok _ => true | _ => !c.wp.helpers.has x.1
     let ds := (List.range d.span).map fun j => ((c.dstReg d).1, (c.dstReg d).2 + j)
     let want := fun l => if wide then c.read (c.resolve b) l else (c.read (c.resolve b) l).lo.setWidth 64
     let as := mkAccs s.serial (fun l n => c.access xs a 0 size s.serial (.wait wide acq (some (want l))) [] [] l n) (xs.map (·.1))
     let c0 := c.at (s.flushFor c.b c.w as)
     let seen := fun l => match c.laneAddr (space3 space) .wait size (c.addrOf a 0 l) with
       | .ok t => loadElem (if wide then .u64 else .b32) t.sx (c0.s.seenBytes c.b t.place t.addr (t.span size))
       | _ => 0#64
     let waits := fun l => l < 64 ∧ act.has l = true ∧ c.wp.helpers.has l = false
     c.checkOps [d, a, b] = .ok () → c.checkReads [a, b] f.g = .ok () → act ≠ 0#64 → c.awaits = false → laneFault xs = none →
     missing xs = [] → c.wp.canPark = true → c.clearFor as = true → (s.needsFlush c.b c.w as = false ∨ s.flushClear c.core = true) →
     c.lostNow as = false → c.checkBoard size true (okLanes xs) = .ok () → (act = fullMask c.width ∨ c.allMergeable act ds = .ok ()) →
     ((∀ l, ¬ waits l) ∨ (∃ l, waits l ∧ seen l ≠ want l) →
       ∃ (u : State) (e : Cx), CompletesVia (.waitaddr space wide acq f) s c 2 u e ∧ Unwritten c0.s c0 u e ds ∧
         SameSpecial { c0 with wp := c0.wp.pass s.serial (maskOf (xs.map (·.1))) } e ∧ ∀ l, l < c.width → ∀ j cls n, ds[j]? = some (cls, n) → e.get cls n l =
           (if act.has l then (if j = 1 then (seen l).hi else (seen l).lo) else c.get cls n l)) ∧
     ((∃ l, waits l) → (∀ l, waits l → seen l = want l) → c.det = true →
       ∃ (r : State) (e : Cx), exec (.waitaddr space wide acq f) s = .next r ∧ r.issuing = none ∧ r.cxOf c.b c.w c.pid = some e ∧
         e.pt.waiting.isSome = true ∧ e.blk.turnOver = true ∧ e.pt.pc = c.pt.pc ∧ e.wp.retired = c.wp.retired ∧ SameRegs c0 e [] ∧
         SameBytes c0.s r) ∧
     ((∃ l, waits l) → (∀ l, waits l → seen l = want l) → c.det = false →
       ∃ (r : State) (e : Cx) (k : Park), exec (.waitaddr space wide acq f) s = .next r ∧ r.issuing = none ∧
         r.cxOf c.b c.w c.pid = some e ∧ e.pt.park = some k ∧ k.released = false ∧ (∀ l, l < 64 → (k.lanes.has l = true ↔ waits l)) ∧
         k.words.map (fun x => x.lane) = xs.map (fun x => x.1) ∧ e.pt.pc = c.pt.pc ∧ SameRegs c0 e ds ∧ SameBytes c0.s r)) ∧
  (∀ (b w pid : Nat) (s : State) (c : Cx) (k : Park), s.cxOf b w pid = some c → s.resting b = false → c.pt.park = some k → IdsInv s →
     (k.released = false → exec (.waitaddrContinue b w pid) s = .next s) ∧
     (k.released = true → exec (.waitaddrContinue b w pid) s = .next (s.continueWait b w pid k)) ∧
     exec (.spuriousWakeup b w pid) s = .next (s.continueWait b w pid k) ∧
     let size := if k.wide then 8 else 4
     let near := k.words.any fun x => c.blk.reduces x.place x.addr size
     let held := (k.words.any fun x => s.placeBoarded x.place x.addr size true) || (near && !s.flushClear c.core)
     let lost := k.words.any fun x => s.placeLost b x.place x.addr || s.placeBad b x.place x.addr size
     (held = true → s.continueWait b w pid k = s) ∧ (held = false → lost = true → s.continueWait b w pid k = s.consume b) ∧
     (held = false → lost = false → c.wp.paths = [c.pt] → s.uncompared →
       SameBytes (if near then s.flushNow b else s) (s.continueWait b w pid k) ∧
       ((s.continueWait b w pid k).warp b w).retired = c.wp.retired + 1 ∧
       ∀ p ∈ ((s.continueWait b w pid k).warp b w).paths, p.park = none))

/-! ### Copies -/

/-- R159 to R163, R397: a `TCOPY` whose requests pass their checks starts one copy for each acting lane that is no helper, in
lane order, with the parts of its box; nothing is moved yet. The first request that fails is the instruction's trap. That
the copy comes after all that the block's release buffer holds, an outward one always, is the model's reading (log 30).
R165, R169, R299: an `ACOPY` whose lanes pass their checks starts one copy of 16 bytes for each lane, when no older `.in`
copy holds a byte of theirs; a counted one with its barrier object. That an outward copy first performs the whole block's
release buffer is the model's reading (log 30); the addresses beyond 2^57 and the request index 0 are its reading (log 31). -/
def Obligations.CopiesStart : Prop :=
  (∀ (m : TcMod) (f : L3) (s : State) (c : Cx), Issues (.tcopy m f) s c → IdsInv s →
     let d := copyOp f.d 0
     let a := copyOp f.a 1 f.pa
     let b := copyOp f.b 2
     let k := copyOp f.c 3
     let ops := if m.done = .none then [d, a, b] else [d, a, b, k]
     let req := fun l => ({ m := m, d := c.wordAt d l, recAt := c.wordAt a l, coord := c.wordAt b l,
                            comp := if m.done = .none then 0 else c.wordAt k l, lane := l, list := none, idx := 0 } : CopyReq)
     let qs := (c.doing f.g).lanes.map req
     c.checkOps ops = .ok () → c.checkReads ops f.g = .ok () → qs ≠ [] → c.allPerformed = true → c.wp.canPark = true →
     c.canFlush (m.dir == .out) = true →
     let c0 := c.at (s.flushEngine c.b (m.dir == .out))
     (∀ e, c0.planAll qs = .error e → exec (.tcopy m f) s = .next ((c.begun (.tcopy m f)).stop (.tcopy m f) e)) ∧
     (∀ ps, c0.planAll qs = .ok ps → c0.s.boardUsed c.core + ps.length ≤ 96 →
       ∃ (u : State) (e : Cx) (new : List Copy), CompletesVia (.tcopy m f) s c 2 u e ∧ u.copies = s.copies ++ new ∧
         new.map (fun x => x.lane) = (c.doing f.g).lanes ∧ new.map (fun x => x.parts) = ps.map (fun p => p.parts) ∧
         (∀ x ∈ new, x.block = c.b ∧ x.warp = c.w ∧ x.core = c.core ∧ x.dir = m.dir ∧ x.done = m.done ∧ x.reserved = false ∧
           x.fpc = c.pt.pc) ∧
         SameRegs c0 e [] ∧ SameSpecial c0 e ∧ SameBytes c0.s u)) ∧
  (∀ (dir : Dir) (counted : Bool) (d a k : Opnd) (g : Guard) (s : State) (c : Cx) (l0 : Nat), Issues (.acopy dir counted d a k g) s c →
     IdsInv s →
     let dd : OpSpec := { o := d, field := 0, acc := onlyV }
     let aa : OpSpec := { o := a, field := 1, pair := true, acc := onlyV, rt := .w64 }
     let kk := cOp k
     let ops := if counted then [dd, aa, kk] else [dd, aa]
     let comp := if counted then c.wordAt kk l0 else 0
     c.checkOps ops = .ok () → c.checkReads ops g = .ok () → (c.doing g).lanes.head? = some l0 → c.allPerformed = true →
     c.wp.canPark = true → c.canFlush (dir == .out) = true →
     let c0 := c.at (s.flushEngine c.b (dir == .out))
     (∀ e, c.planLanes dir counted dd aa comp (c.doing g).lanes = .error e →
       exec (.acopy dir counted d a k g) s = .next ((c.begun (.acopy dir counted d a k g)).stop (.acopy dir counted d a k g) e)) ∧
     (∀ ps, c.planLanes dir counted dd aa comp (c.doing g).lanes = .ok ps →
       (c.l.owncompat = true → dir = .out → ∀ l ∈ (c.doing g).lanes, c.blk.owns (c.read (c.resolve aa) l).toNat 16 = true) →
       c.s.boardUsed c.core + 1 ≤ 96 → s.inHeld c.b ((c.doing g).lanes.map fun l => (c.wordAt dd l, 16)) = false →
       ∃ (u : State) (e : Cx) (x : Copy), CompletesVia (.acopy dir counted d a k g) s c 2 u e ∧ u.copies = s.copies ++ [x] ∧
         x.acopy = true ∧ x.block = c.b ∧ x.warp = c.w ∧ x.dir = dir ∧ x.comp = comp ∧ x.done = (if counted then .bar else .none) ∧
         x.parts = (c.doing g).lanes.map (fun l =>
           ({ g := some (c.read (c.resolve aa) l).toNat, sh := c.wordAt dd l, len := 16, fill := [], lane := l } : Part)) ∧
         SameRegs c0 e [] ∧ SameSpecial c0 e ∧ SameBytes c0.s u))

/-- R161, R172: a part of an inward copy of a granted reservation, on a readable page, puts the bytes that the block's copy sees
in global memory into shared memory at its own place, and changes no other byte; an outward part likewise puts shared bytes
into HBM or scratchpad. A page that a table entry written so maps is zeroed where another context has used it (R157), which
is the model's reading (log 27); that an inward part on a word with a buffered reduction comes after that reduction is its
reading too (log 30). Outside DET mode. R164, R314: a `CKICK` whose list passes its checks puts it, with the records read at
issue, at the end of the core's request lists; an entry that fails its checks is the instruction's trap. The request engine
of a core that does not halt then starts the copy of the next entry of its oldest list when the scoreboard has room. That a
list comes after all that the block's release buffer holds, one with an outward copy always, is the model's reading (log
30). Which part moves when is the model's choice of events (log 2, 31); that an outward request list performs the block's
release buffer first is its reading (log 30); where a .shadow entry moves bytes whose pair has been released is its choice
(log 39). -/
def Obligations.CopiesMoveAndLists : Prop :=
  (∀ (i : Nat) (s : State) (cp : Copy) (p : Part) (va : Nat) (leaf : Leaf), MemInv s →
     s.copies.find? (fun k => k.id == cp.id) = some cp → cp.reserved = true → (s.block cp.block).saved = false →
     cp.parts[i]? = some p → s.partParked cp p = false → s.partHeld cp p = false → p.g = some va → va < 2 ^ 57 →
     let l := s.launch (s.block cp.block).launch
     s.translate (some (s.block cp.block).core) l.fn l.ctx va = .leaf leaf → l.det = false → cp.acopy = false → cp.done = .none → (s.block? cp.block).isSome = true →
     s.unreachable cp.core (packageOfPa leaf.attr.hbm (leaf.pa va)) = false →
     let s1 := s.cacheLeaf (s.block cp.block).core l.fn l.ctx leaf
     let late := !leaf.attr.hbm && (s.block cp.block).reduces .scratch (leaf.pa va) p.len
     let s2 := if late then s1.flushNow cp.block else s1
     (cp.dir = .inn → leaf.attr.rd = true → s.readsBad cp.block leaf.attr.hbm (leaf.pa va) p.len = false → late = true →
       s.flushClear (s.block cp.block).core = false → exec (.copyPart cp.id i) s = .next s1) ∧
     (cp.dir = .inn → leaf.attr.rd = true → s.readsBad cp.block leaf.attr.hbm (leaf.pa va) p.len = false →
       (late = false ∨ s.flushClear (s.block cp.block).core = true) →
       ∃ r, exec (.copyPart cp.id i) s = .next r ∧
       (∀ j, j < p.len → (r.block cp.block).shared.get (p.sh + j) = s2.globalByte cp.block leaf.attr.hbm (leaf.pa va + j)) ∧
       (SameBut s2 r fun pl k => pl = .shared cp.block ∧ p.sh ≤ k ∧ k < p.sh + p.len) ∧
       r.copies.find? (fun k => k.id == cp.id) =
         (if (cp.parts.eraseIdx i).isEmpty then none else some { cp with parts := cp.parts.eraseIdx i })) ∧
     (cp.dir = .out → leaf.attr.wr = true → leaf.attr.lro = false → s.sharedBad cp.block p.sh p.len = false →
       ∃ r, exec (.copyPart cp.id i) s = .next r ∧
       let bs := (s.block cp.block).shared.bytes p.sh p.len
       (leaf.attr.hbm = true → SameBytes ((s1.hbmWrite (leaf.pa va) bs).mapNew) r ∧ (s.liveCtxs.length < 2 →
         (∀ j, j < p.len → r.hbm.get (leaf.pa va + j) = (s.block cp.block).shared.get (p.sh + j)) ∧
         (∀ k, (k < leaf.pa va ∨ leaf.pa va + p.len ≤ k) → r.hbm.get k = s.hbm.get k) ∧
         SameBytes { s with hbm := [] } { r with hbm := [] })) ∧
       (leaf.attr.hbm = false → (∀ j, j < p.len → r.scratch.get (leaf.pa va + j) = (s.block cp.block).shared.get (p.sh + j)) ∧
         SameBut s r fun pl k => pl = .scratch ∧ leaf.pa va ≤ k ∧ k < leaf.pa va + p.len) ∧
       r.copies.find? (fun k => k.id == cp.id) =
         (if (cp.parts.eraseIdx i).isEmpty then none else some { cp with parts := cp.parts.eraseIdx i }))) ∧
  ((∀ (a b : Opnd) (pa : Perm) (g : Guard) (s : State) (c : Cx) (l : Nat) (es : List (List Word × List Word)),
     Issues (.ckick a b pa g) s c → IdsInv s → c.checkOps [copyOp a 1 pa, copyOp b 2] = .ok () →
     c.checkReads [copyOp a 1 pa, copyOp b 2] g = .ok () → c.leader g = some l →
     let x := c.wordAt (copyOp a 1 pa) l
     let n := c.wordAt (copyOp b 2) l
     (¬ (1 ≤ n ∧ n ≤ 64) → exec (.ckick a b pa g) s = .next ((c.begun (.ckick a b pa g)).stop (.ckick a b pa g) (.trap 0x03 2))) ∧
     (1 ≤ n → n ≤ 64 → x % 32 = 0 → x + 32 * n ≤ c.l.shBytes → c.allPerformed = true → c.canFlush false = true →
       ∀ c1, (c.at (s.flushEngine c.b false)).imageReady x (32 * n) = .ok c1 →
       let plan := c1.checkKick l (x, 32 * n) (wordGroups 8 (leWords (c1.s.seenBytes c.b (.shared c.b) x (32 * n))) n) 0
       (∀ w, plan = .error w → exec (.ckick a b pa g) s = .next ((c.begun (.ckick a b pa g)).stop (.ckick a b pa g) w)) ∧
       (plan = .ok es → c1.cst.kicks.length < 16 → c1.wp.canPark = true → c1.canFlush (kickOut es) = true →
       let c0 := c1.at (c1.s.flushEngine c.b (kickOut es))
       ∃ (u : State) (e : Cx) (k : Kick), CompletesVia (.ckick a b pa g) s c 2 u e ∧ (u.core c.core).kicks = c1.cst.kicks ++ [k] ∧
         k.entries = es ∧ k.block = c.b ∧ k.warp = c.w ∧ k.lane = l ∧ Untouched c0.s c0 u e [] ∧
         SameSpecial c0 e))) ∧
   ∀ (core : Nat) (s : State) (k : Kick) (e : List Word × List Word) (rest : List (List Word × List Word)) (p : Plan),
     (s.core core).halted = false → (s.core core).halting = none →
     (s.core core).kicks.find? (fun k => !(s.block k.block).saved) = some k → k.entries = e :: rest → s.boardUsed core < 96 →
     (s.block k.block).kickPlan k e = some p →
     ∃ (r : State) (x : Copy), exec (.requestEngineIssue core) s = .next r ∧ r.copies = s.copies ++ [x] ∧ x.parts = p.parts ∧
       x.op = k.id ∧ x.dir = p.dir ∧ x.done = p.done ∧ x.comp = p.comp ∧ x.ranges = [p.range] ∧ SameBytes s r)

/-- R166, R306: `BINIT` is one 8-byte store of the warp: the count and an empty flag word, at the address of the lowest acting
lane that is no helper; in DET mode it is performed at issue. R168, R319: `CWAIT` stalls while the word's low half is not 0,
an engine holds it (R169), or an earlier access that orders its read is not performed (R177), and then only retires; a word
that is marked as poisoned is an uncorrectable error of the block (R261). That what the release buffer holds of the word is
performed first is the model's reading (log 30). R170, R336: `GLAZE.reg` registers a pair that it accepts and takes
`COPYRANGE` 4 for another, `GLAZE.swap` exchanges the bytes of the two windows and changes no other byte, and is an
uncorrectable error of the block where a byte of them is marked as poisoned (R261), `GLAZE.rel` drops the pair. That the
swap comes after what the block's release buffer holds is the model's reading (log 30). That GLAZE.swap writes both windows
in one act is the model's reading (log 31). -/
def Obligations.BarrierObjectsAndGlazedPairs : Prop :=
  ((∀ (a b : Opnd) (pa : Perm) (g : Guard) (s : State) (c : Cx) (l : Nat) (t : Target), Issues (.binit a b pa g) s c → IdsInv s →
     c.checkOps [copyOp a 1 pa, copyOp b 2] = .ok () → c.checkReads [copyOp a 1 pa, copyOp b 2] g = .ok () → c.leader g = some l →
     c.wp.canPark = true → c.laneAddr .sh (.store .u64) 8 (c.addrOf (copyOp a 1 pa) 0 l) = .ok t →
     c.s.placeBoarded t.place t.addr 8 false = false →
     let data := leBytes 8 (c.wordAt (copyOp b 2) l)
     (c.det = false → ∃ (u : State) (e : Cx) (x : Access), CompletesVia (.binit a b pa g) s c 2 u e ∧ Untouched s c u e [] ∧
       SameSpecial { c with wp := { c.wp with pend := c.wp.pend ++ [x] } } e ∧ x.kind = .store .u64 false ∧ x.lane = l ∧
       x.place = .shared c.b ∧ x.addr = c.addrOf (copyOp a 1 pa) 0 l ∧ x.data = data) ∧
     (c.det = true → MemInv s → c.wp.queued = [] → c.blk.release = [] → s.releaseUsed c.core ≤ 65536 →
       ∃ (u : State) (e : Cx), CompletesVia (.binit a b pa g) s c 2 u e ∧ SameRegs c e [] ∧ e.wp.pend.map (·.serial) = c.wp.pend.map (·.serial) ∧
         (∀ j, j < 8 → e.blk.shared.get (c.addrOf (copyOp a 1 pa) 0 l + j) = data.getD j 0#8) ∧
         SameBut s u fun pl k => pl = .shared c.b ∧ c.addrOf (copyOp a 1 pa) 0 l ≤ k ∧ k < c.addrOf (copyOp a 1 pa) 0 l + 8)) ∧
   ∀ (f : L2a) (s : State) (c : Cx) (l : Nat) (t : Target), Issues (.cwait f) s c → c.checkOps [copyOp f.a 1 f.pa] = .ok () →
     c.checkReads [copyOp f.a 1 f.pa] f.g = .ok () → c.leader f.g = some l →
     c.laneAddr .sh (.load .u64) 8 (c.addrOf (copyOp f.a 1 f.pa) 0 l) = .ok t →
     c.ownWrites t (c.addrOf (copyOp f.a 1 f.pa) 0 l) 8 = false →
     let clear := c.clearFor [c.access (c.targets .sh (.load .u64) 8 (copyOp f.a 1 f.pa) 0 (1#64 <<< l)) (copyOp f.a 1 f.pa) 0 8 s.serial
       (.load .u64 false) [] [] l s.serial]
     let x := c.addrOf (copyOp f.a 1 f.pa) 0 l
     let own := c.blk.buffers (.shared c.b) x 4
     let c0 := if own then c.at (s.flushNow c.b) else c
     (s.placeBoarded t.place t.addr 8 true = true → exec (.cwait f) s = .next s.stalled) ∧
     (clear = false → exec (.cwait f) s = .next s.stalled) ∧
     (own = true → s.flushClear c.core = false → exec (.cwait f) s = .next s.stalled) ∧
     (s.placeBoarded t.place t.addr 8 true = false → clear = true → c.wp.canPark = true → (own = false ∨ s.flushClear c.core = true) →
       (c0.s.sharedBad c.b x 4 = true → exec (.cwait f) s = .next (s.stalled.consume c.b)) ∧
       (c0.s.sharedBad c.b x 4 = false → c0.readNow 0 t.place t.addr 4 ≠ [0#8, 0#8, 0#8, 0#8] → exec (.cwait f) s = .next s.stalled) ∧
       (c0.s.sharedBad c.b x 4 = false → c0.readNow 0 t.place t.addr 4 = [0#8, 0#8, 0#8, 0#8] →
         ∃ (u : State) (e : Cx), CompletesVia (.cwait f) s c 2 u e ∧ Untouched c0.s c0 u e [] ∧
           SameSpecial { c0 with wp := c0.wp.pass c0.s.serial (1#64 <<< l) } e))) ∧
  (∀ (pair : Fin 4) (a b : Opnd) (g : Guard) (s : State) (c : Cx) (l : Nat), IdsInv s → MemInv s → c.leader g = some l →
     (Issues (.glaze .reg pair a b g) s c → c.checkOps [copyOp a 1, copyOp b 2] = .ok () → c.checkReads [copyOp a 1, copyOp b 2] g = .ok () →
       let base := c.wordAt (copyOp a 1) l
       let len := c.wordAt (copyOp b 2) l
       (c.glazeOk pair.val base len = false →
         exec (.glaze .reg pair a b g) s = .next (c.stop (.glaze .reg pair a b g) (.trap 0x0D 4))) ∧
       (c.glazeOk pair.val base len = true → ∃ (u : State) (e : Cx), CompletesVia (.glaze .reg pair a b g) s c 2 u e ∧
         Untouched s c u e [] ∧ SameSpecial c e ∧ alook pair.val e.blk.glaze = some { base := base, len := len } ∧
         ∀ k, k ≠ pair.val → alook k e.blk.glaze = alook k c.blk.glaze)) ∧
     (∀ x, Issues (.glaze .swap pair a b g) s c → c.checkReads [] g = .ok () → alook pair.val c.blk.glaze = some x → c.allPerformed = true →
       s.boarded c.b x.base (2 * x.len) false = false → c.canFlush false = true →
       let c0 := c.at (s.flushEngine c.b false)
       (s.sharedBad c.b x.base (2 * x.len) = true → exec (.glaze .swap pair a b g) s = .next (s.stalled.consume c.b)) ∧
       (s.sharedBad c.b x.base (2 * x.len) = false →
       ∃ (u : State) (e : Cx), CompletesVia (.glaze .swap pair a b g) s c 2 u e ∧ SameRegs c0 e [] ∧
         SameSpecial { c0 with wp := { c0.wp with handler := e.wp.handler } } e ∧
         (∀ j, j < x.len → e.blk.shared.get (x.base + j) = c0.blk.shared.get (x.base + x.len + j) ∧
           e.blk.shared.get (x.base + x.len + j) = c0.blk.shared.get (x.base + j)) ∧
         SameBut c0.s u fun pl k => pl = .shared c.b ∧ x.base ≤ k ∧ k < x.base + 2 * x.len)) ∧
     (Issues (.glaze .rel pair a b g) s c → c.checkReads [] g = .ok () →
       (alook pair.val c.blk.glaze = none → exec (.glaze .rel pair a b g) s = .next (c.stop (.glaze .rel pair a b g) (.trap 0x0D 4))) ∧
       ((alook pair.val c.blk.glaze).isSome = true → ∃ (u : State) (e : Cx), CompletesVia (.glaze .rel pair a b g) s c 2 u e ∧
         Untouched s c u e [] ∧ SameSpecial c e ∧ alook pair.val e.blk.glaze = none ∧
         ∀ k, k ≠ pair.val → alook k e.blk.glaze = alook k c.blk.glaze)))

/-! ### Tables and chains -/

/-- R134, R136, R312, R354: `LDACT` and `CHLOAD` read the image in shared memory that their lowest acting lane names, and retire with
it on its way into the buffer; the current image stays until the flip, which makes the image current and raises the version
by 1. That what the release buffer holds of the image is performed first is the model's reading (log 30). -/
def Obligations.TablesLoadAndFlip : Prop :=
  (∀ (t : Fin 8) (f : L2a) (s : State) (c c1 : Cx) (l : Nat), Issues (.ldact t f) s c → IdsInv s →
    let a := addrOp f.a f.pa .sh
    let x := c.addrOf a 0 l
    let img := c1.s.seenBytes c.b (.shared c.b) x 3088
    c.checkOps [a] = .ok () → c.checkReads [a] f.g = .ok () → c.leader f.g = some l → x % 16 = 0 → x + 3088 ≤ c.l.shBytes →
    (c.cst.act c.l.ctxid t.val).incoming = [] → c.sfuFree = true → c.imageReady x 3088 = .ok c1 → (buffersOf 8 c.l.ctxid c.cst.acts).length = 8 →
    (actHeaderOk img = false → exec (.ldact t f) s = .next (c.stop (.ldact t f) (.trap 0x02 0))) ∧
    (actHeaderOk img = true → ∃ (u : State) (e : Cx), CompletesVia (.ldact t f) s c 2 u e ∧ Untouched c1.s c1 u e [] ∧ SameSpecial c1 e ∧
      (u.core c.core).act c.l.ctxid t.val = { c.cst.act c.l.ctxid t.val with incoming := [(c.b, c.w, c1.s.serial, img)] })) ∧
  (∀ (k : Fin 4) (f : L2a) (s : State) (c c1 c2 : Cx) (l : Nat), Issues (.chload k f) s c → IdsInv s →
    let a := addrOp f.a f.pa .sh
    let x := c.addrOf a 0 l
    let head := BitVec.ofNat 32 (leNat (c1.s.seenBytes c.b (.shared c.b) x 4))
    let size := 4 + 8 * chainN head
    let img := c2.s.seenBytes c.b (.shared c.b) x size
    c.checkOps [a] = .ok () → c.checkReads [a] f.g = .ok () → c.leader f.g = some l → x % 4 = 0 → x + size ≤ c.l.shBytes →
    (c.cst.chain c.l.ctxid k.val).incoming = [] → c.imageReady x 4 = .ok c1 → c1.imageReady x size = .ok c2 →
    (buffersOf 4 c.l.ctxid c.cst.chains).length = 4 →
    ((chainHeadOk head && (chainOps ((leWords img).drop 1)).isSome) = false → exec (.chload k f) s = .next (c.stop (.chload k f) (.trap 0x02 0))) ∧
    (chainHeadOk head = true → (chainOps ((leWords img).drop 1)).isSome = true →
      ∃ (u : State) (e : Cx), CompletesVia (.chload k f) s c 2 u e ∧ Untouched c2.s c2 u e [] ∧ SameSpecial c2 e ∧
        (u.core c.core).chain c.l.ctxid k.val = { c.cst.chain c.l.ctxid k.val with incoming := [(c.b, c.w, c2.s.serial, img)] })) ∧
  (∀ (core ctx t : Nat) (s : State), t < (buffersOf 8 (BitVec.ofNat 32 ctx) (s.core core).acts).length →
    let b := (s.core core).act (BitVec.ofNat 32 ctx) t
    (b.incoming = [] → exec (.tableFlip core ctx t) s = .next s) ∧
    (∀ x rest, b.incoming = x :: rest → ∃ r, exec (.tableFlip core ctx t) s = .next r ∧ SameBytes s r ∧
      (r.core core).act (BitVec.ofNat 32 ctx) t = { version := b.version + 1, image := x.2.2.2, incoming := rest })) ∧
  ∀ (core ctx k : Nat) (s : State), k < (buffersOf 4 (BitVec.ofNat 32 ctx) (s.core core).chains).length →
    let b := (s.core core).chain (BitVec.ofNat 32 ctx) k
    (b.incoming = [] → exec (.chainSlotFlip core ctx k) s = .next s) ∧
    (∀ x rest, b.incoming = x :: rest → ∃ r, exec (.chainSlotFlip core ctx k) s = .next r ∧ SameBytes s r ∧
      (r.core core).chain (BitVec.ofNat 32 ctx) k = { version := b.version + 1, image := x.2.2.2, incoming := rest })

/-! ### The matrix engine -/

/-- R115, R117, R122, R364: an `MMA` whose parameter block passes its checks enters the engine's queue, with A's image read and
the registers of B captured; the watermarks of its tiles become 0, STATE becomes 1, and no other byte changes but that word
15 of the block is written 0, which is the model's reading (log 31). With several acting lanes it takes `MATRIXPARAM` 1, for
a block that is not aligned or not in the allocation `MATRIXPARAM` 2. That the operation comes after what the block's
release buffer holds is the model's reading (log 30). R125: `MCLR` zeroes its tile and sets its watermark to 16; it stalls
while an operation of the block uses the tile, one that has only STATE 4 left to write aside (R126), which is the model's
reading (log 31). Holding tiles and watermarks with the block is the model's choice (log 6); that word 15 of the block is
written 0 at issue is its reading (log 31), and that the release buffer is performed first (log 30). -/
def Obligations.MmaAndMclr : Prop :=
  ((∀ (f : L2a) (s : State) (c : Cx) (l : Nat) (ls : List Nat), Issues (.mma f) s c →
     let a := addrOp f.a f.pa .sh
     let pb := c.addrOf a 0 l
     c.checkOps [a] = .ok () → c.checkReads [a] f.g = .ok () → (c.doing f.g).lanes = l :: ls →
     (ls ≠ [] → exec (.mma f) s = .next (c.stop (.mma f) (.trap 0x1D 1))) ∧
     (ls = [] → ¬ (pb % 64 = 0 ∧ pb + 64 ≤ c.l.shBytes) → exec (.mma f) s = .next (c.stop (.mma f) (.trap 0x1D 2)))) ∧
   ∀ (f : L2a) (s : State) (c c1 c2 : Cx) (l : Nat), Issues (.mma f) s c → IdsInv s → MemInv s →
     let a := addrOp f.a f.pa .sh
     let pb := c.addrOf a 0 l
     let ws := leWords (c1.s.seenBytes c.b (.shared c.b) pb 64)
     let tile := pbBits ws 0 18 17
     c.checkOps [a] = .ok () → c.checkReads [a] f.g = .ok () → (c.doing f.g).lanes = [l] → pb % 64 = 0 → pb + 64 ≤ c.l.shBytes →
     c.imageReady pb 64 = .ok c1 →
     (∀ k, c1.badParam ws = some k → exec (.mma f) s = .next (c.stop (.mma f) (.trap 0x1D k))) ∧
     (c1.badParam ws = none → (c1.s.matqOf c.core).length < 4 → c1.s.boardUsed c.core + (if c.det then 2 else 1) ≤ 96 →
       c1.canFlush false = true → c1.s.boarded c.b (pb + 48) 16 false = false → c1.imageReady (pbBits ws 2 17 0) (aLen ws) = .ok c2 →
       c2.absentImage ws = none → let c0 := c2.at (c2.s.flushEngine c.b false)
       ∃ (u : State) (e : Cx) (op : MatOp), CompletesVia (.mma f) s c 2 u e ∧ (u.core c.core).matq = c0.cst.matq ++ [op] ∧
         op.block = c.b ∧ op.warp = c.w ∧ op.pb = pb ∧ op.words = ws ∧
         op.a = c0.s.seenBytes c.b (.shared c.b) (pbBits ws 2 17 0) (aLen ws) ∧ op.caps = c0.captures ws ∧ op.progress = 0 ∧
         op.reserved = false ∧ op.quads = (if pbBits ws 0 1 0 = 0 then [c.wp.quad] else [0, 1, 2, 3]) ∧
         (∀ q ∈ op.quads, e.blk.mark q tile = 0) ∧ SameRegs c0 e [] ∧ SameSpecial { c0 with wp := { c0.wp with handler := e.wp.handler } } e ∧
         e.blk.shared.word (pb + 56) = 1#32 ∧ e.blk.shared.word (pb + 60) = 0#32 ∧
         SameBut c0.s u fun pl k => pl = .shared c.b ∧ pb + 56 ≤ k ∧ k < pb + 64)) ∧
  (∀ (t : BitVec 2) (s : State) (c : Cx), Issues (.mclr t) s c →
     let q := c.wp.quad
     let uses := c.cst.matq.any fun m => m.block == c.b && m.quads.contains q && m.tile == t.toNat && m.owes != 4
     (uses = true → exec (.mclr t) s = .next s.stalled) ∧
     (uses = false →
       ∃ (u : State) (e : Cx), CompletesVia (.mclr t) s c 1 u e ∧ Untouched s c u e [] ∧ SameSpecial c e ∧
         e.blk.tile q t.toNat = List.replicate 256 0#32 ∧ e.blk.mark q t.toNat = 16 ∧
         ∀ q' t', 4 * q' + t' ≠ 4 * q + t.toNat → e.blk.tile q' t' = c.blk.tile q' t' ∧ e.blk.mark q' t' = c.blk.mark q' t'))

/-- R114, R118, R121, R122: a chunk of an operation with a reservation enters its sub-arrays; when all are in, its rows become
final one by one, and a row changes only that row of its tiles. Neither changes a byte of memory before the last row, which
writes PROGRESS and STATE 4 with the flags, and no other byte but the zeros of words 13 and 15 (log 31); it waits while that
block is held, or reads that have been passed are not performed (R189); one that a pre-emption has finished has that write
alone left (R126). In a saggar launch the two accumulations are compared after each chunk, and a block whose accumulations
differ recovers (R127, R258, R261). R86, R89: an element of an integer operation accumulates the exact sum of its chunk's
products, modulo 2^32, and wraps exactly when the sum is outside the signed 32-bit range. Holding tiles and watermarks with
the block is the model's choice (log 6); whether a saggar comparison holds is a free value (log 15), and what a chunk that
meets two rows does is its choice (log 37). -/
def Obligations.MatrixOperationsAdvance : Prop :=
  (∀ (core op : Nat) (s : State) (m : MatOp), (s.core core).matq.find? (fun x => x.id == op) = some m →
     let last := (m.owes ≠ 4 ∧ m.reserved = true ∧ m.chunks ≤ m.progress ∧ m.rows = 15) ∨ (m.owes = 4 ∧ (s.block m.block).saved = false)
     (m.reserved = true → m.progress < m.chunks → ∃ r, exec (.matrixChunk core op) s = .next (if s.saggarOf m.block = true ∧ Config.pairsAgree s.tick = false
         then r.consume m.block else r) ∧ SameBytes s r ∧ (r.core core).matq.find? (fun x => x.id == op) = some m.chunk) ∧
     (m.owes ≠ 4 → m.reserved = true → m.chunks ≤ m.progress → m.rows < 15 → (s.block? m.block).isSome = true → (m.acc.map fun x => x.1).Nodup →
       ∃ r, exec (.rowFinal core op) s = .next r ∧ SameBytes s r ∧
         (r.core core).matq.find? (fun x => x.id == op) = some { m with rows := m.rows + 1 } ∧
         ∀ x ∈ m.acc, let old := (s.block m.block).tile x.1 m.tile
           (r.block m.block).tile x.1 m.tile =
             old.take (16 * m.rows) ++ (x.2.drop (16 * m.rows)).take 16 ++ old.drop (16 * m.rows + 16)) ∧
     (last → s.endHeld core m = true → exec (.rowFinal core op) s = .next s) ∧
     (last → s.endHeld core m = false → ∃ r, exec (.rowFinal core op) s = .next r ∧
       (r.core core).matq = (s.core core).matq.filter (fun x => x.id != m.id) ∧
       (SameBut s r fun pl k => pl = .shared m.block ∧ m.pb + 48 ≤ k ∧ k < m.pb + 64) ∧
       (MemInv s → (s.block? m.block).isSome = true → (r.block m.block).shared.word (m.pb + 48) = BitVec.ofNat 32 m.progress ∧
         (r.block m.block).shared.word (m.pb + 56) =
           BitVec.ofNat 32 (4 + m.flags.toNat % 32 * 256 + (if m.wrap then 8192 else 0))))) ∧
  (∀ (m : MatOp) (xs : List (Int × Int)) (acc : Word), pbBits m.words 0 12 12 = 1 → pbBits m.words 0 15 15 = 0 →
     let sum := acc.toInt + (xs.map fun x => x.1 * x.2).sum
     m.element (xs.map fun x => FVal.ofInt x.1) (xs.map fun x => FVal.ofInt x.2) acc =
       (BitVec.ofInt 32 sum, 0#32, decide (sum < -2 ^ 31) || decide (2 ^ 31 ≤ sum)))

/-! ### Sum trees -/

/-- R140, R404: `WCFG` makes a tree of zeros, or drops it, and takes `WTREE` 1 beyond the launch's leaves. R145, R401, R411:
`WSET` and `WADD` update the leaves of their acting lanes that are no helpers, in lane order; an index beyond the tree is
`WTREE` 3, a tree that is not configured `WTREE` 2. Other trees stay. R148, R408, R410: `WLOAD` takes its tree from the
image in shared memory, and other trees stay; its range is held until the unit completes it. `WSAVE` hands the unit the
image of its tree, which is written when the unit completes it (R149), and no other byte; until then its range is held. The
unit of a halted core completes nothing (R234). That a `WSAVE` comes after what the block's release buffer holds, and a
`WLOAD` after what it holds of the image, is the model's reading (log 30). That a tree instruction acts as it issues, in the
order of R149, and that WLOAD's range is held until the unit completes it, is the model's reading (log 24). -/
def Obligations.TreesAreConfiguredUpdatedAndSaved : Prop :=
  ((∀ (t : BitVec 4) (k : Option (Fin 11)) (g : Guard) (s : State) (c : Cx), Issues (.wcfg t k g) s c → IdsInv s →
     c.checkReads [] g = .ok () → c.doing g ≠ 0#64 →
     let n := match k with | some x => 2 ^ (x.val + 4) | none => 0
     (n ≠ 0 → c.l.leaves < c.blk.otherLeaves t.toNat + n → exec (.wcfg t k g) s = .next ((c.begun (.wcfg t k g)).stop (.wcfg t k g) (.trap 0x1C 1))) ∧
     (n = 0 ∨ c.blk.otherLeaves t.toNat + n ≤ c.l.leaves →
       ∃ (u : State) (e : Cx), CompletesVia (.wcfg t k g) s c 2 u e ∧ Untouched s c u e [] ∧ SameSpecial c e ∧
         e.blk.tree? t.toNat = (if n = 0 then none else some (List.replicate n 0)) ∧
         ∀ j, j ≠ t.toNat → e.blk.tree? j = c.blk.tree? j)) ∧
   (∀ (i : Instr) (t : BitVec 4) (f : L2ab) (rt : RT) (fn : Nat → Word → Nat × Bool) (s : State) (c : Cx) (xs : List Nat),
     ((∃ k, i = .wset t k f ∧ rt = (if k.isSome then .f32 else .w32) ∧ fn = setLeaf k) ∨
       ∃ b, i = .wadd t b f ∧ rt = .w32 ∧ fn = addLeaf b) →
     Issues i s c → IdsInv s →
     let a := treeA f.a f.pa
     let b : OpSpec := { bOp f.b f.pb false rt with acc := vsc }
     let act := (c.doing f.g).lanes
     let idx := fun l => (c.read (c.resolve a) l).lo.toNat
     c.checkOps [a, b] = .ok () → c.checkReads [a, b] f.g = .ok () →
     (c.blk.tree? t.toNat = none → exec i s = .next ((c.begun i).stop i (.trap 0x1C 2))) ∧
     (c.blk.tree? t.toNat = some xs → (∃ l ∈ act, xs.length ≤ idx l) → exec i s = .next ((c.begun i).stop i (.trap 0x1C 3))) ∧
     (c.blk.tree? t.toNat = some xs → (∀ l ∈ act, idx l < xs.length) →
       ∃ (u : State) (e : Cx), CompletesVia i s c 2 u e ∧ Untouched s c u e [] ∧
         SameSpecial { c with wp := { c.wp with wstat := e.wp.wstat } } e ∧
         e.blk.tree? t.toNat = some (updateLeaves fn (act.map fun l => (idx l, (c.read (c.resolve b) l).lo)) xs false).1 ∧
         (∀ l ∈ act, (∀ k ∈ act, idx k = idx l → k = l) →
           ((e.blk.tree? t.toNat).getD []).getD (idx l) 0 = (fn (xs.getD (idx l) 0) (c.read (c.resolve b) l).lo).1) ∧
         (∀ j, (∀ l ∈ act, idx l ≠ j) → ((e.blk.tree? t.toNat).getD []).getD j 0 = xs.getD j 0) ∧
         ∀ j, j ≠ t.toNat → e.blk.tree? j = c.blk.tree? j))) ∧
  ((∀ (t : BitVec 4) (f : L2a) (s : State) (c c1 : Cx) (xs : List Nat) (x : Nat), Issues (.wload t f) s c → IdsInv s →
     c.treeImage t f = .ok (xs, some x) → (c.begun (.wload t f)).imageReady x (4 * xs.length) = .ok c1 →
     ∃ (u : State) (e : Cx), CompletesVia (.wload t f) s c 2 u e ∧ Untouched c1.s c1 u e [] ∧ SameSpecial c1 e ∧
       e.blk.tree? t.toNat = some ((leWords (c1.s.seenBytes c.b (.shared c.b) x (4 * xs.length))).map BitVec.toNat) ∧
       (∀ j, j ≠ t.toNat → e.blk.tree? j = c.blk.tree? j) ∧
       ∃ (m : TreeOp) (h : RangeHold), (u.core c.core).trees = c1.cst.trees ++ [m] ∧ (u.core c.core).holds = c1.cst.holds ++ [h] ∧
         m.hold = some h.id ∧ m.save = none ∧ m.block = c.b ∧ h.block = c.b ∧ h.lo = x ∧ h.len = 4 * xs.length ∧ h.loads = true) ∧
   (∀ (t : BitVec 4) (f : L2a) (s : State) (c : Cx) (xs : List Nat) (x : Nat), Issues (.wsave t f) s c → IdsInv s →
     c.treeImage t f = .ok (xs, some x) → c.imageFree x (4 * xs.length) = .ok () → s.boarded c.b x (4 * xs.length) false = false →
     c.canFlush false = true → let c0 := c.at (s.flushEngine c.b false)
     ∃ (u : State) (e : Cx) (m : TreeOp) (h : RangeHold), CompletesVia (.wsave t f) s c 2 u e ∧ Untouched c0.s c0 u e [] ∧
       SameSpecial c0 e ∧ e.blk.trees = c.blk.trees ∧ (u.core c.core).trees = c.cst.trees ++ [m] ∧
       (u.core c.core).holds = c.cst.holds ++ [h] ∧ m.hold = some h.id ∧ m.save = some (x, xs.flatMap fun k => leBytes 4 k) ∧
       m.block = c.b ∧ h.block = c.b ∧ h.lo = x ∧ h.len = 4 * xs.length ∧ h.loads = true) ∧
   (∀ (core : Nat) (s : State), (s.core core).halted = true → exec (.sumTreeUnitComplete core) s = .next s) ∧
   ∀ (core : Nat) (s : State) (m : TreeOp), MemInv s → s.uncompared → (s.core core).halted = false → (s.core core).trees.find? (fun k => !(s.block k.block).saved) = some m →
     (s.block? m.block).isSome = true →
     (∀ e ∈ m.dests, ∀ x, (s.core core).entry? e = some x → x.known = true ∧ x.st ≠ .abandoned) →
     ∃ r, exec (.sumTreeUnitComplete core) s = .next r ∧ (r.core core).trees = (s.core core).trees.filter (fun k => k.id != m.id) ∧
       (r.core core).holds = (s.core core).holds.filter (fun h => some h.id != m.hold) ∧
       (∀ e ∈ m.dests, (r.core core).isReady e = true) ∧ (m.save = none → SameBytes s r) ∧
       ∀ a bs, m.save = some (a, bs) →
         (∀ j, j < bs.length → (r.block m.block).shared.get (a + j) = bs.getD j 0#8) ∧
         SameBut s r fun pl k => pl = .shared m.block ∧ a ≤ k ∧ k < a + bs.length)

/-- R142, R146, R406, R407, R409, R412: `WGET` reads a leaf, `WPRE` the inclusive prefix sum, `WFIND` the first leaf whose
prefix passes the target, `WSUM` the mass of the tree, in each acting lane; helper lanes receive 0. The tree stays as it is.
R147, R405: `WCUT` keeps the leaves up to the cut that the lowest acting lane's target gives, zeroes the others, and gives
the cut's index in each acting lane; helper lanes receive 0. That a tree instruction acts as it issues, in the order of
R149, is the model's reading (log 24). -/
def Obligations.TreeQueries : Prop :=
  ((∀ (i : Instr) (t : BitVec 4) (f : L2u) (dp ap : Bool) (val : List Nat → Nat → Nat) (s : State) (c : Cx) (xs : List Nat),
     ((i = .wget t f ∧ dp = false ∧ ap = false ∧ val = fun ys x => ys.getD x 0) ∨
       (i = .wpre t f ∧ dp = true ∧ ap = false ∧ val = fun ys x => ((ys.take (x + 1)).foldl (· + ·) 0)) ∨
       (i = .wfind t f ∧ dp = false ∧ ap = true ∧ val = fun ys x => findLeaf x ys 0 0)) →
     Issues i s c → IdsInv s → c.blk.tree? t.toNat = some xs →
     let d := dOp f.d onlyV dp
     let a := treeA f.a f.pa ap
     let x := fun l => (c.read (c.resolve a) l).toNat
     let ds := (List.range d.span).map fun j => ((c.dstReg d).1, (c.dstReg d).2 + j)
     let act := c.acting f.g
     c.checkOps [d, a] = .ok () → c.checkReads [a] f.g = .ok () → act ≠ 0#64 →
     (ap = false → ∀ l, l < 64 → (c.doing f.g).has l = true → (c.read (c.resolve a) l).lo.toNat < xs.length) →
     (act = fullMask c.width ∨ c.allMergeable act ds = .ok ()) →
     ∃ (u : State) (e : Cx), CompletesVia i s c 2 u e ∧ Untouched s c u e ds ∧ SameSpecial c e ∧ e.blk.trees = c.blk.trees ∧
       ∀ l, l < c.width → ∀ j cls n, ds[j]? = some (cls, n) → e.get cls n l =
         (if act.has l then
           if c.wp.helpers.has l then 0#32 else BitVec.ofNat 32 (val xs (x l) / 2 ^ (32 * j))
         else c.get cls n l)) ∧
   ∀ (t : BitVec 4) (o : Opnd) (g : Guard) (s : State) (c : Cx) (xs : List Nat), Issues (.wsum t o g) s c → IdsInv s →
     c.blk.tree? t.toNat = some xs →
     let d := dOp o onlyV true
     let ds := (List.range 2).map fun j => ((c.dstReg d).1, (c.dstReg d).2 + j)
     let act := c.acting g
     c.checkOps [d] = .ok () → c.checkReads [] g = .ok () → act ≠ 0#64 → (act = fullMask c.width ∨ c.allMergeable act ds = .ok ()) →
     ∃ (u : State) (e : Cx), CompletesVia (.wsum t o g) s c 2 u e ∧ Untouched s c u e ds ∧ SameSpecial c e ∧
       e.blk.trees = c.blk.trees ∧ ∀ l, l < c.width → ∀ j cls n, ds[j]? = some (cls, n) → e.get cls n l =
         (if act.has l then
           if c.wp.helpers.has l then 0#32 else BitVec.ofNat 32 (xs.foldl (· + ·) 0 / 2 ^ (32 * j))
         else c.get cls n l)) ∧
  (∀ (t : BitVec 4) (f : L2u) (s : State) (c : Cx) (xs : List Nat) (l0 : Nat), Issues (.wcut t f) s c → IdsInv s →
     c.blk.tree? t.toNat = some xs → c.leader f.g = some l0 →
     let d := dOp f.d onlyV
     let a := treeA f.a f.pa true
     let k := cutAtLeaf (c.read (c.resolve a) l0).toNat xs
     let act := c.acting f.g
     c.checkOps [d, a] = .ok () → c.checkReads [a] f.g = .ok () →
     (act = fullMask c.width ∨ c.allMergeable act [c.dstReg d] = .ok ()) →
     ∃ (u : State) (e : Cx), CompletesVia (.wcut t f) s c 2 u e ∧ Untouched s c u e [c.dstReg d] ∧ SameSpecial c e ∧
       e.blk.tree? t.toNat = some (xs.take (k + 1) ++ List.replicate (xs.length - (k + 1)) 0) ∧
       (∀ j, j ≠ t.toNat → e.blk.tree? j = c.blk.tree? j) ∧
       ∀ l, l < c.width → e.get (c.dstReg d).1 (c.dstReg d).2 l =
         (if act.has l then if c.wp.helpers.has l then 0#32 else BitVec.ofNat 32 k else c.get (c.dstReg d).1 (c.dstReg d).2 l))

/-! ### Events -/

/-- R18, R24, R25, R203, R219, R230, R234, R251: ISSUE_SELECT on a core that is not halted. What comes before a choice takes its
place. Else, among the ready paths, those whose next instruction does not stall, those that leave the cycle to others aside,
one whose age counter has run out goes first, and the chosen path issues, with a second 16-wide warp of the launch that
stands at the same words, the lower slot first: at a clause's start it stands at the clause's first instruction; at a bad
front it traps. With nothing to choose a cycle of the quadrant passes. AGEING_LIMIT chooses among the paths whose counters
have run out. TRAP_ENTRY gives a warp its delivered trap, or aborts its transaction. The quadrant's clock, one tick a
selection, that a path is ready when its next instruction, tried on a copy of the state, does not stall, and that a packed
pair issues in two steps with no event between are the model's choice (log 14), and so are the age of a class that has never
issued and the order of paths of several DET blocks (log 39); the addresses of bad fronts follow log 17, deliveries log 29. -/
def Obligations.IssueSelectionAndDeliveries : Prop :=
  (∀ (s : State) (core q : Nat), (s.core core).halted = false → (s.core core).halting = none → q < 4 →
     let u := (s.vecReady core q).beforeIssue core
     let asked := u.askLines (u.freePaths core q)
     let all := (u.survey core q).1
     let a := (u.survey core q).2
     let k := (a.core core).quad q
     let xs := unyielded k all
     (∀ x ∈ all, x ∈ candidates (asked.freePaths core q) ∧ ∃ y, x.stalls y = none) ∧
     (∀ t, u.insteadOfIssue core q = some t → exec (.issueSelect core q) s = .next t) ∧
     (u.insteadOfIssue core q = none → k.busy ≤ k.clock → ∀ x, choose k xs = some x →
       let mate := packMate xs x
       let z := x.first mate
       x ∈ all ∧ ((∃ y ∈ all, y.c.pt.yield ≠ some k.clock) → x.c.pt.yield ≠ some k.clock) ∧
       ((∃ y ∈ xs, y.c.pt.aged.isSome = true ∧ y.c.det = false) → x.c.pt.aged.isSome = true ∧ x.c.det = false) ∧
       (∀ y, mate = some y → y ∈ all ∧ x.c.l.physW = 16 ∧ y.c.blk.launch = x.c.blk.launch ∧ ¬ (y.c.b = x.c.b ∧ y.c.w = x.c.w) ∧
         x.words.isSome = true ∧ y.words = x.words) ∧
       (∀ cause info cl, x.front = .trap cause info cl →
         exec (.issueSelect core q) s = .next ((x.c.at (a.markReady all)).headerTrap cause info cl)) ∧
       ((∀ cause info cl, x.front ≠ .trap cause info cl) → Answers (.issueSelect core q) s fun t =>
         t.issuing = some z.issuing ∧ t.packed = (x.second mate).map Cand.issuing ∧ SameBytes u t ∧
         ∀ h, z.front = .start h → ∃ d : Cx, t.cx = some d ∧ d.pt.pc = z.c.pt.pc + 4#32 ∧
           d.pt.clause = some { at_ := z.c.pt.pc, header := h, done := 0 })) ∧
     (u.insteadOfIssue core q = none → a.choosePath core q all (fun _ => true) = none → q < (a.core core).quads.length →
       Answers (.issueSelect core q) s fun t =>
         ((t.core core).quad q).clock = k.clock + 1 ∧ t.issuing = a.issuing ∧ SameBytes u t)) ∧
  (∀ (s : State) (core q : Nat), (s.core core).halted = false → (s.core core).halting = none → q < 4 →
     let u := (s.vecReady core q).beforeIssue core
     let k := ((u.survey core q).2.core core).quad q
     let ys := unyielded k (u.survey core q).1
     let xs := ys.filter fun x => x.c.pt.aged.isSome && !x.c.det
     (∀ t, u.insteadOfIssue core q = some t → exec (.ageingLimit core q) s = .next t) ∧
     (u.insteadOfIssue core q = none → k.clock < k.busy → exec (.ageingLimit core q) s = .next u) ∧
     (u.insteadOfIssue core q = none → k.busy ≤ k.clock → choose k xs = none → exec (.ageingLimit core q) s = .next u) ∧
     (u.insteadOfIssue core q = none → k.busy ≤ k.clock → ∀ x, choose k xs = some x → (∀ cause info cl, x.front ≠ .trap cause info cl) →
       x.c.pt.aged.isSome = true ∧ x.c.det = false ∧ Answers (.ageingLimit core q) s fun t =>
         t.issuing = some (x.first (packMate ys x)).issuing ∧ t.packed = (x.second (packMate ys x)).map Cand.issuing ∧ SameBytes u t)) ∧
  (∀ (s : State) (core q : Nat), (s.core core).halted = true ∨ (s.core core).halting ≠ none →
     exec (.issueSelect core q) s = .next s ∧ exec (.ageingLimit core q) s = .next s) ∧
  (∀ (s : State) (b w pid : Nat) (d : Delivery), (s.warp b w).delivery = some (d, pid) →
     let u := s.modWarp b w fun x => { x with deliver := x.deliver.erase d }
     (s.resting b = true → exec (.trapEntry b w) s = .next s) ∧
     (s.resting b = false → (s.warp b w).tx.isSome = true → exec (.trapEntry b w) s = .next (u.abortTx b w 5 d.cause)) ∧
     (s.resting b = false → (s.warp b w).tx = none → (s.warp b w).quiet = false → (s.warp b w).handler = none →
       exec (.trapEntry b w) s = .next s) ∧
     (∀ c, s.resting b = false → (s.warp b w).tx = none → ((s.warp b w).quiet = true ∨ (s.warp b w).handler.isSome = true) →
       u.cxOf b w pid = some c →
       let t := if u.framesTrap c d.cause then u.drained c.core b w pid else u
       (c.intact t = false → exec (.trapEntry b w) s = .next t) ∧
       (c.intact t = true → exec (.trapEntry b w) s = .next (t.takeTrap b w pid ((c.at t).deliveryInfo d)) ∧
         ((c.at t).deliveryInfo d).cause = d.cause ∧ ((c.at t).deliveryInfo d).info = d.info)))

/-- R1, R37, R55, R65, R69, R94, R229, R230, R234, R258, R275, R283: what arrives. A computed result becomes ready, a saggar one
after its comparison, which abandons it where it fails. An absent piece is filled from the save area, lane by lane, beside a
result that is pending too, an absent `s` register on each path that lacks it; a slot that is lost, and a code line that is
poisoned, is an error of the block. A code line is read, and kept only when its tag is the one computed from it; else the
blocks of its span are gone. A walk without a translation posts its record; an answer of RETRY translates every lane again,
and one of DECLINE delivers TRANSLATE; while the core halts an answer waits. That a fill whose slot is lost is an error of
the block, and what an absent piece holds, is the model's reading (log 25), and that a block without a checkpoint ends then
(log 32). Which line leaves a full I-cache is a free value (log 7), and so is whether a saggar comparison holds (log 15);
the layout of the tag's inputs is the model's (log 12); repeated translation at a replay is its reading (log 29). -/
def Obligations.ResultsLinesAndAnswersArrive : Prop :=
  (∀ (s : State) (core eid : Nat) (e : Entry), (s.core core).entry? eid = some e → e.st = .pending → e.known = true → e.due = none →
     (∀ k ∈ (s.core core).trees, eid ∉ k.dests) →
     let p := e.producer.block
     (e.bearing = false ∧ e.key.any (·.saggar) = false ∨ Config.pairsAgree s.tick = true →
       Answers (.entryReady core eid) s fun t => SameBytes s t ∧ SameDevice s t ∧
         (∀ x, e.dead = false → (t.core core).entry? eid = some x → x.st = .ready ∧ x.verified = (e.bearing || e.key.any (·.saggar)) ∧ x.value = e.value) ∧
         (e.dead = true → (∀ x ∈ (s.core core).entries, x.eid = eid → x = e) → (t.core core).entry? eid = none)) ∧
     (e.bearing = true ∨ e.key.any (·.saggar) = true → Config.pairsAgree s.tick = false → Answers (.entryReady core eid) s fun t =>
       (∀ x, e.dead = false → (t.core core).entry? eid = some x → x.st ≠ .ready) ∧
       ∀ b, s.block? p = some b →
         (∀ k, b.ck = some k → b.eligible = true → b.rollbacks < 4 → ∃ y, t.block? p = some y ∧ y.rollbacks = b.rollbacks + 1) ∧
         ((b.ck = none ∨ b.eligible = false ∨ 4 ≤ b.rollbacks) → SpanGone s t b))) ∧
  (∀ (s : State) (b w r piece : Nat) (cls : RegClass) (c : Cx) (p : Path) (ps : List Path), IdsInv s →
     (s.warp b w).paths = p :: ps → s.cxOf b w p.id = some c → c.blk.saved = false → c.blk.ended = false →
     ((cls, r, piece) ∈ c.wp.absent → s.slotLost b w cls r = true → exec (.registerFill b w cls r piece) s = .next (s.consume b)) ∧
     let cur := regPtr c.wp c.pt cls r
     (s.slotLost b w cls r = false →
     (c.cst.isReady cur = true ∨ ∀ cl n, (cl, n) ≠ (cls, r) → regPtr c.wp c.pt cl n ≠ cur) →
     let word := fun (l : Nat) => if (c.wp.threads.getD l default).absent then 0#32 else s.savedLane b c.l c.wp cls r l c.wp.fromCtx
     (cls ≠ .s → (cls, r, piece) ∈ c.wp.absent → ∃ (t : State) (d : Cx), exec (.registerFill b w cls r piece) s = .next t ∧
       t.cxOf b w p.id = some d ∧ (cls, r, piece) ∉ d.wp.absent ∧ SameBytes s t ∧ SameDevice s t ∧ SameRegs c d [(cls, r)] ∧
       (cls = .v → ∀ l, l < c.width → d.get .v r l = if l / 16 = piece then word l else if (c.wp.threads.getD l default).absent then 0#32
         else c.get .v r l) ∧
       (cls = .p → r ≠ 7 → ∀ l, l < c.width → d.get .p r l = word l)) ∧
     (∀ old, cls = .s → alook r p.sAbsent = some old → ∃ (t : State) (d : Cx), exec (.registerFill b w cls r piece) s = .next t ∧
       t.cxOf b w p.id = some d ∧ alook r d.pt.sAbsent = none ∧ SameBytes s t ∧ SameDevice s t ∧ SameRegs c d [(cls, r)] ∧
       ∀ l, d.get .s r l = s.savedLane b c.l c.wp .s r 0 c.wp.fromCtx))) ∧
  (∀ (s : State) (id : Nat) (b : Block) (line : BitVec 64) (leaf : Leaf) (r : List Byte), s.block? id = some b → b.ended = false →
     b.saved = false →
     let l := s.launch b.launch
     let x := s.ctx l.fn l.ctx
     let va := line.toNat / 128 * 128
     let u := s.cacheLeaf b.core l.fn l.ctx leaf
     let bytes := (List.range 128).map fun i => u.codeByte id leaf.attr.hbm (leaf.pa va + i)
     let map := BitVec.ofNat 32 (leNat ((r.drop 8).take 4))
     let good := (∀ y ∈ r.drop 12, y = 0#8) ∧
       BitVec.ofNat 64 (leNat (r.take 8)) = lineTag (Config.codeKey l.ctxid) l.ctxid va bytes map
     b.fetchers va ≠ [] → (∀ k ∈ (s.core b.core).icache, k.is l id va = false) → x.cbase.toNat ≤ va →
     va + 128 ≤ x.cbase.toNat + x.csize.toNat → va < 2 ^ 57 → s.translate (some b.core) l.fn l.ctx va = .leaf leaf → leaf.attr.fx = true →
     let lost := u.codeBad id leaf.attr.hbm (leaf.pa va) 128 || u.tagBad id l x va
     (lost = true → exec (.icacheFill id line) s = .next (u.consume id)) ∧
     (lost = false → u.tagRecord id l x va = some r →
     (good → Answers (.icacheFill id line) s fun t =>
       { ctx := l.ctxid, owner := if l.det then some id else none, va := va, words := leWords bytes, map := map } ∈ (t.core b.core).icache ∧
       ((s.core b.core).icache.length ≤ icacheLines → (t.core b.core).icache.length ≤ icacheLines) ∧
       (t.block id).fetchers va = [] ∧ SameBytes s t) ∧
     (¬ good → Answers (.icacheFill id line) s fun t => SpanGone s t b))) ∧
  (∀ (s : State) (b w tag : Nat) (r : Parked), MemInv s → (s.warp b w).replay.find? (·.tag == tag) = some r →
     (s.resting b = true ∨ r.stale = true → exec (.translationWalk b w tag) s = .next s) ∧
     (s.resting b = false → r.stale = false →
     let l := s.launch (s.block b).launch
     let x := s.ctx l.fn l.ctx
     let size := 2 ^ x.fqsize
     let a := x.fqbase.toNat + 32 * (x.fqtail.toNat % size)
     let next := (s.warp b w).replay.find? fun y => !y.stale && y.answer == some true
     (r.posted = false → Answers (.translationWalk b w tag) s fun t =>
       ∃ q ∈ (t.warp b w).replay, q.posted = true ∧ q.answer = none ∧ q.accs = r.accs ∧ q.tag < tagLimit ∧ (r.tag < tagLimit → q.tag = r.tag) ∧
         (x.records = [] → (x.fqtail.toNat + 1) % size ≠ x.fqhead.toNat % size →
           t.host.word a = BitVec.ofNat 32 (r.recordKind + 16 * r.kind.code + 256 * q.tag) ∧ t.host.word (a + 4) = BitVec.ofNat 32 r.va ∧
           t.host.word (a + 8) = BitVec.ofNat 32 (r.va / 2 ^ 32) ∧ t.host.word (a + 12) = BitVec.ofNat 32 (s.block b).num ∧
           t.host.word (a + 16) = BitVec.ofNat 32 w ∧ (t.ctx l.fn l.ctx).fqtail = BitVec.ofNat 12 ((x.fqtail.toNat + 1) % size))) ∧
     (r.posted = true → r.answer = none → exec (.translationWalk b w tag) s = .next s) ∧
     (r.posted = true → r.answer = some false → exec (.translationWalk b w tag) s = .next (s.decline b w r)) ∧
     (∀ f, r.posted = true → r.answer = some true → next = some f → f.tag ≠ tag →
       Answers (.translationWalk b w tag) s fun t => .translationWalk b w tag ∈ t.agenda) ∧
     (r.posted = true → r.answer = some true → next = some r → r.kind = .fetch → Answers (.translationWalk b w tag) s fun t =>
       (∀ q ∈ (t.warp b w).replay, q.tag ≠ tag) ∧ t.agenda = s.agenda ++ [.icacheFill b (BitVec.ofNat 64 r.va)]) ∧
     (∀ id cp, r.posted = true → r.answer = some true → next = some r → r.kind ≠ .fetch → r.copy = some id →
       s.copies.find? (·.id == id) = some cp → cp.reserved = false → Answers (.translationWalk b w tag) s fun t =>
       (∀ q ∈ (t.warp b w).replay, q.tag ≠ tag) ∧ SameBytes s t ∧
         ∃ q ∈ (t.cluster (clusterOf cp.core)).reqs, q.cls = .copy ∧ q.core = cp.core ∧ q.who = cp.id) ∧
     (∀ (tgt : Access → Target), r.posted = true → r.answer = some true → next = some r → r.kind = .ld → r.copy = none → r.line = false →
       l.det = false → r.accs ≠ [] →
       (∀ k ∈ r.accs, (∃ ty p, k.kind = .load ty p) ∧ k.place = .scratch ∧
         (s.warpCx b w).laneAddr .sp (r.use k).1 (r.use k).2 k.va = .ok (tgt k)) →
       Answers (.translationWalk b w tag) s fun t => (∀ q ∈ (t.warp b w).replay, q.tag ≠ tag) ∧ SameBytes s t ∧
         (t.warp b w).pend = (s.warp b w).pend ++ r.accs.map fun (k : Access) =>
           { k with place := (tgt k).place, addr := (tgt k).addr, size := (tgt k).span (r.use k).2, ord := (tgt k).ord,
                    sx := (tgt k).sx, engine := none }))) ∧
  (∀ (s : State) (fn slot b w tag : Nat) (r : Parked), s.parkedOf fn slot tag = some (b, w, r) →
     (s.warp b w).replay.find? (·.tag == tag) = some r →
     (Answers (.frespRetry fn slot tag) s fun t => t.agenda = s.agenda ++ [.translationWalk b w tag] ∧ SameBytes s t ∧
       ∃ q, (t.warp b w).replay.find? (·.tag == tag) = some q ∧ q.answer = some true ∧ q.posted = true) ∧
     (s.resting b = true ∨ r.stale = true → Answers (.frespDecline fn slot tag) s fun t => SameBytes s t ∧
       ∃ q, (t.warp b w).replay.find? (·.tag == tag) = some q ∧ q.answer = some false) ∧
     (s.resting b = false → r.stale = false → r.kind ≠ .fetch → r.copy = none → (s.warp b w).exited = false → s.uncompared →
       Answers (.frespDecline fn slot tag) s fun t => (∀ q ∈ (t.warp b w).replay, q.tag ≠ tag) ∧ SameBytes s t ∧
         ∃ d ∈ (t.warp b w).deliver, d.cause = 0x0B ∧ d.fva = r.va ∧ d.fmask = r.mask ∧
           d.threads = (if r.accs = [] then r.mask else maskOf (r.accs.map (·.lane))) ∧ d.replay = true))

/-- R54, R127, R234, R237, R257, R261, R267: the arbiter picks a request passed over by 64 grants first, then by class and age,
and grants it only within 112 units; a halted core's request waits. A hanging matrix operation empties its queue, but for
operations that have only STATE 4 left to write, and is logged. An uncorrectable error rolls a block back to its checkpoint,
its cancelled matrix operations showing STATE 5, or its span is gone; one in data that nothing uses is logged and marked
poisoned. Counters of corrected errors rise by INC, saturating, and leak to 0. That a block without a checkpoint ends, that
a rollback restores the glazed pairs, and what it leaves of accesses, records and flags that are older than the interval, is
the model's reading (log 32). That errors which nothing uses are logged, and marked in memory, and change nothing else is
the model's choice (log 15); that the watchdog may end any running operation, and waits while a parameter block is held, is
its reading (log 29); the words of a log record are its choice (log 34). -/
def Obligations.ArbiterAndErrors : Prop :=
  (∀ (rs : List CurReq) (r : CurReq), pickReq rs = some r → r ∈ rs ∧
     ((∃ x ∈ rs, 64 ≤ x.passed) → 64 ≤ r.passed ∧ ∀ x ∈ rs, 64 ≤ x.passed → r.serial ≤ x.serial) ∧
     ((∀ x ∈ rs, x.passed < 64) → ∀ x ∈ rs, r.cls.order < x.cls.order ∨ r.cls.order = x.cls.order ∧ r.serial ≤ x.serial)) ∧
  (∀ (s : State) (k : Nat) (r : CurReq), (s.cluster k).reqs = [r] → s.holderLives r.cls r.core r.who = true → r.cls = .copy →
     (∀ h ∈ (s.cluster k).held, s.holderLives h.1 h.2.1 h.2.2.1 = true) →
     (∀ i, i < 8 → (s.core (8 * k + i)).matq = []) →
     let sum := ((s.cluster k).held.map fun h => h.2.2.2).sum
     ((s.core r.core).halted = false → sum + r.units ≤ 112 → Answers (.reservationGrant k) s fun t => (t.cluster k).reqs = [] ∧
       (t.cluster k).held = (s.cluster k).held ++ [(r.cls, r.core, r.who, r.units)] ∧
       (∀ c ∈ t.copies, c.id = r.who → c.reserved = true) ∧ SameBytes s t) ∧
     ((s.core r.core).halted = true ∨ 112 < sum + r.units → Answers (.reservationGrant k) s fun t => (t.cluster k).reqs = [r] ∧
       (t.cluster k).held = (s.cluster k).held ∧ t.copies = s.copies ∧ SameBytes s t)) ∧
  (∀ (s : State) (core : Nat) (m : MatOp), m ∈ (s.core core).matq → m.reserved = true → m.st = 2 →
     let held := (s.core core).matq.any fun m => m.owes != 4 && s.matHeld core m
     (held = true → exec (.watchdog core) s = .next s) ∧
     (held = false → Answers (.watchdog core) s fun t => (∀ x ∈ (t.core core).matq, x.owes = 4) ∧
       (t.pkg (packageOf core)).log = (s.pkg (packageOf core)).log ++ [.watchdog core])) ∧
  (∀ (s : State) (id : Nat) (b : Block), s.block? id = some b → b.ended = false → b.saved = false →
     (∀ k, b.ck = some k → b.eligible = true → b.rollbacks < 4 → Answers (.uncorrectableError id none) s fun t =>
       ∃ y, t.block? id = some y ∧ y.rollbacks = b.rollbacks + 1 ∧ y.trees = k.trees ∧ y.tiles = k.tiles ∧ y.glaze = k.glaze ∧
         y.undoLog = [] ∧ y.release = [] ∧
         y.shared = ((s.core b.core).matq.filter fun m => m.block == id && decide (k.serial ≤ m.id)).foldl
           (fun m o => m.setBytes (o.pb + 56) o.cancelled) (b.undoLog.foldl (fun m u => m.set u.1 u.2) b.shared) ∧
         ∀ (w q : Warp), w ∈ b.warps → k.warps.find? (·.idx == w.idx) = some q →
           let x := y.warp w.idx
           x.v = q.v ∧ x.p = q.p ∧ x.paths = q.paths ∧ x.threads = q.threads ∧ x.xi = q.xi ∧ x.lc = q.lc ∧ x.loops = q.loops ∧
             x.handler = q.handler ∧ x.flags = q.flags ∧ x.stack = q.stack ∧ x.tx = none ∧
             x.pend = (b.warp w.idx).pend.filter (fun a => decide (a.serial < k.serial)) ∧
             ∀ r ∈ x.replay, r.copy = none → r.stale = true ∨ ∃ a ∈ r.accs, a.serial < k.serial) ∧
     ((b.ck = none ∨ b.eligible = false ∨ 4 ≤ b.rollbacks) → ∀ l, s.launch? b.launch = some l →
       Answers (.uncorrectableError id none) s fun t => SpanGone s t b ∧ (t.launch b.launch).spanLost = true) ∧
     (∀ e, ((s.core b.core).entry? e).isSome = true → (s.poison b.core e).poisoned b.core = [] →
       Answers (.uncorrectableError id (some e)) s fun t =>
         (t.pkg (packageOf b.core)).log = (s.pkg (packageOf b.core)).log ++ [.poisoned e] ∧ SameBytes s t)) ∧
  (∀ (s : State) (id a : Nat), s.block? id = none → Answers (.uncorrectableError id (some a)) s fun t =>
     t = { s with pkgs := t.pkgs, badBytes := t.badBytes } ∧ (t.pkg 0).log = (s.pkg 0).log ++ [.poisoned a] ∧
     ∀ x, x ∈ t.badBytes ↔ x = a ∨ x ∈ s.badBytes) ∧
  (∀ (s : State) (pkg index : Nat) (kind : BucketKind),
     let b := (s.pkg pkg).bucket kind index
     let n := min 65535 (b.fill.toNat + if b.inc = 0#4 then 1 else b.inc.toNat)
     (Answers (.correctedError pkg kind index) s fun t => ((t.pkg pkg).bucket kind index).fill = BitVec.ofNat 16 n ∧
       ((t.pkg pkg).log = (s.pkg pkg).log ++
         if b.mark ≠ 0#16 ∧ b.fill.toNat < b.mark.toNat ∧ b.mark.toNat ≤ n then [.predictive pkg kind index] else []) ∧
       t = { s with pkgs := t.pkgs }) ∧
     ((b.leak = 0#12 ∨ b.fill = 0#16) → exec (.bucketLeak pkg kind index) s = .next s) ∧
     (b.leak ≠ 0#12 → b.fill ≠ 0#16 → Answers (.bucketLeak pkg kind index) s fun t =>
       ((t.pkg pkg).bucket kind index).fill = b.fill - 1#16 ∧ t = { s with pkgs := t.pkgs }))

/-- R30, R36, R210 to R218, R239 to R244, R323, R416: a launch is read from its queue slot, rejected with a status code or
accepted; its blocks start, end, and complete it; clusters gate and wake; a step's end merges the words that blocks wrote,
the lowest block ID's view standing in a conflict, whose other blocks trap, once no block holds a step write for a package
without a path; host writes are performed, held or discarded, and a page that another context has used is zeroed as a
mapping of it becomes valid (R157). That each is an event of its own is the model's choice (log 2); the merge and the
waiting of packets follow its readings (log 28, 35); the order of clusters rests on free values (log 19), and when a page
given to another context is zeroed is its reading (log 27). -/
def Obligations.LaunchesStepsAndClusters : Prop :=
  (∀ (s : State) (fn q : Nat), MemInv s → s.waitingIn fn q = none →
     let k := (alook q (s.fn fn).queues).getD Queue.init
     let n := 2 ^ k.size
     let slot := k.head.toNat % n
     k.en = true → 4 ≤ k.size → k.size ≤ 16 → slot ≠ k.door.toNat % n →
     Answers (.launchPacket fn q) s fun t =>
       ((alook q (t.fn fn).queues).getD Queue.init).head = BitVec.ofNat 16 ((slot + 1) % n) ∧
       ((∃ code, (code = 0x10 ∨ code = 0x11 ∨ code = 0x13 ∨ code = 0x14) ∧
           (t.queueMem k.loc).num (k.stat.toNat + 8 * slot) 4 = code ∧ ((s.ctx fn k.ctx).st = .empty → code = 0x10) ∧
           SameLaunches s t) ∨
        ((s.ctx fn k.ctx).st ≠ .empty ∧ SameBytes s t ∧ t.agenda = s.agenda ++ [.launchAccept fn q] ∧
          ∃ l ∈ t.launches, l.fn = fn ∧ l.queue = q ∧ l.slot = slot ∧ l.ctx = k.ctx ∧ l.phase = .waiting ∧
            l.words = leWords (s.queueBytes k.loc (k.base.toNat + 128 * slot) 128)))) ∧
  (∀ (s : State) (fn q : Nat) (l : Launch), MemInv s → s.waitingIn fn q = some l →
     let x := s.ctx fn l.ctx
     (x.st = .idle ∨ x.st = .active) → x.saving = [] → s.waitsHold l = true → l.maxp ≤ x.watts → l.minf ≤ x.minStep →
     (l.boost = true → x.boost = true) →
     (Config.routeOk s.tick = true → Answers (.launchAccept fn q) s fun t =>
       (∃ y ∈ t.launches, y.id = l.id ∧ y.phase = .running ∧ y.accepted = s.serial ∧ y.words = l.words) ∧
       (t.ctx fn l.ctx).st = .active ∧ (t.queueMem l.statLoc).num l.statAddr 4 = 1 ∧ t.agenda = s.agenda ++ [.blockDispatch l.id]) ∧
     (Config.routeOk s.tick = false → Answers (.launchAccept fn q) s fun t =>
       (∀ y ∈ t.launches, y.id ≠ l.id) ∧ (t.queueMem l.statLoc).num l.statAddr 4 = 0x12)) ∧
  (∀ (i : Instr) (s : State) (k : Nat) (l : Launch) (cores rest : List Nat) (bs : List Byte), i = .blockDispatch k ∨ i = .blockRefill k →
     s.launch? k = some l → s.queueOrder = k :: rest → s.dispatchable l = true → l.det = false →
     s.placeSpan l l.clusters = some cores → s.paramBytes l = some bs →
     Answers i s fun t =>
       ((t.blocks.drop s.blocks.length).map fun x => (x.launch, x.num, x.core, x.ended)) =
         ((List.range cores.length).map fun j => (k, l.next + j, cores.getD j 0, false)) ∧
       (t.launch k).next = l.next + cores.length ∧
       ∀ x ∈ t.blocks.drop s.blocks.length, (∀ j, j < bs.length → x.shared.get j = bs.getD j 0#8) ∧
         x.warps.length = l.warps ∧ x.trees = [] ∧ x.tiles = [] ∧
         ∀ w ∈ x.warps, w.v = [] ∧ w.p = [] ∧ w.xi = 0#32 ∧ w.wstat = 0#32 ∧ w.handler = none ∧ w.tx = none ∧ w.loops = [] ∧ w.absent = [] ∧
           ∃ p, w.paths = [p] ∧ p.pc = 0#32 ∧ p.clause = none ∧ p.s = [] ∧ p.sAbsent = [] ∧ p.hold = none ∧ p.park = none) ∧
  (∀ (s : State) (id : Nat) (b : Block) (l : Launch), s.block? id = some b → s.canEnd b = true → s.launch? b.launch = some l →
     s.uncompared → (∀ x ∈ b.release, s.placeBoarded x.place x.addr x.bytes.length false = false) →
     Answers (.blockEnd id) s fun t => (t.launch b.launch).ended = l.ended + 1 ∧ (∀ x ∈ t.blocks, x.id = id → x.ended = true) ∧
       (if l.det then .stepEnd b.launch else if l.blocks ≤ l.ended + 1 then .launchComplete b.launch else .blockRefill b.launch)
         ∈ t.agenda) ∧
  (∀ (s : State) (id : Nat) (l : Launch), MemInv s → s.launch? id = some l → l.phase = .running → l.blocks ≤ l.ended →
     (∀ b ∈ s.blocks, b.launch ≠ id) →
     let x := s.ctx l.fn l.ctx
     Answers (.launchComplete id) s fun t => (t.launch id).phase = .complete ∧
       (t.queueMem l.statLoc).num l.statAddr 4 = (if l.spanLost = true then 4 else if l.lost ≠ 0 then 3 else 2) ∧
       (t.queueMem l.statLoc).num (l.statAddr + 4) 4 = l.lost % 2 ^ 32 ∧
       (l.signal.1 = true → (alook l.signal.2 (t.ctx l.fn l.ctx).counters).getD 0#64 = (alook l.signal.2 x.counters).getD 0#64 + 1#64) ∧
       ((∀ y ∈ s.launches, y.id ≠ id → ¬ (y.fn = l.fn ∧ y.ctx = l.ctx ∧ y.phase = .running)) → x.st = .active → x.saving = [] →
         (t.ctx l.fn l.ctx).st = .idle)) ∧
  (∀ (s : State) (k : Nat),
     ((s.cluster k).gate = .active → s.emptyCluster k = true →
       (∀ j, j / 64 = k / 64 → j ≠ k → ¬ ((s.cluster j).gate = .active ∧ s.emptyCluster j = true)) →
       Answers (.idleTimer k) s fun t => (t.cluster k).gate = .gating ∧ t.agenda = s.agenda ++ [.clusterGated k] ∧ SameBytes s t) ∧
     ((s.cluster k).gate = .active → s.emptyCluster k = true → s.belowFloor (k / 64) = true →
       Answers (.idleTimer k) s fun t => (t.cluster k).gate = .gating ∧ t.agenda = s.agenda ++ [.clusterGated k] ∧ SameBytes s t) ∧
     ((s.cluster k).gate = .gating → Answers (.clusterGated k) s fun t => (t.cluster k).gate = .gated ∧ SameBytes s t) ∧
     ((s.cluster k).gate = .waking → Answers (.clusterWakeComplete k) s fun t => (t.cluster k).gate = .active ∧ SameBytes s t)) ∧
  (∀ (s : State) (id : Nat) (l : Launch) (b : Block), s.launch? id = some l → s.stepReady l = true → b ∈ s.gridBlocks id →
     s.writesLost b = true → s.block? b.id = some b → (b.ck = none ∨ b.ended = true) → Answers (.stepEnd id) s fun t => SpanGone s t b) ∧
  (∀ (s : State) (id : Nat) (l : Launch), MemInv s → s.launch? id = some l → s.stepReady l = true → l.held = [] →
     (∀ x ∈ s.gridBlocks id, s.writesLost x = false) → (∀ x ∈ s.gridBlocks id, ∀ y ∈ x.atoms, y.addr % 4 = 0) →
     (∀ x y, x ∈ s.gridBlocks id → y ∈ s.gridBlocks id → x.id = y.id → x = y) →
     let by_ := fun (a : Nat) => (s.gridBlocks id).filter fun x => x.stored.contains (false, a) || x.atomic.contains (false, a)
     let u := ((((s.gridBlocks id).flatMap fun b => b.stored ++ b.atomic).foldr putWord []).map (s.mergeWord l (s.gridBlocks id))).foldl
       State.mergeWrite s
     Answers (.stepEnd id) s fun t => (t.launch id).step = l.step + 1 ∧
       (∀ a, t.scratch.get a = u.mapNew.scratch.get a) ∧ (s.liveCtxs.length < 2 → ∀ a, t.scratch.get a = u.scratch.get a) ∧
       (∀ a, by_ (a / 4 * 4) = [] → u.scratch.get a = s.scratch.get a) ∧
       (∀ (a : Nat) (b : Block) (rest : List Block), by_ (a / 4 * 4) = b :: rest →
         (∃ x ∈ b :: rest, (false, a / 4 * 4) ∈ x.stored) →
         u.scratch.get a = (alook a b.view).getD (s.priorByte l false a) ∧
         ∀ (x : Block) (w : Warp), x ∈ rest → s.block? x.id = some x → x.ended = false → x.warps.find? (fun w => !w.exited) = some w →
           ∃ d ∈ (t.warp x.id w.idx).deliver, d.cause = 0x12) ∧
       ∀ a, by_ (a / 4 * 4) ≠ [] → (∀ x ∈ s.gridBlocks id, (false, a / 4 * 4) ∉ x.stored) →
         u.scratch.get a = (s.atomValue l (s.gridBlocks id) (false, a / 4 * 4)).getD (a % 4) 0#8) ∧
  (∀ (s : State) (kind : MemKind) (addr : Nat) (bytes : List Byte), MemInv s →
     (kind = .host → exec (.hostWrite kind addr bytes) s = .next { s with host := s.host.setBytes addr bytes }) ∧
     (kind = .scratch → s.mappers false addr = [] → Answers (.hostWrite kind addr bytes) s fun t =>
       (∀ j, j < bytes.length → t.scratch.get (addr + j) = bytes.getD j 0#8) ∧
       ∀ a, (a < addr ∨ addr + bytes.length ≤ a) → t.scratch.get a = s.scratch.get a) ∧
     (kind ≠ .host → (∃ x ∈ s.mappers (kind == .hbm) addr, x.2.attr.lro = true) →
       Answers (.hostWrite kind addr bytes) s fun t => SameBytes s t ∧ t = { s with pkgs := t.pkgs }) ∧
     (∀ x, kind ≠ .host → (∀ y ∈ s.mappers (kind == .hbm) addr, y.2.attr.lro = false) →
       (s.mappers (kind == .hbm) addr).find? (fun y => y.1.det) = some x → Answers (.hostWrite kind addr bytes) s fun t =>
         SameBytes s t ∧ ∀ y ∈ t.launches, y.id = x.1.id → (kind, addr, bytes) ∈ y.held) ∧
     (kind = .hbm → s.mappers true addr = [] →
       exec (.hostWrite kind addr bytes) s = .next (s.hbmWrite addr bytes).mapNew ∧
       (s.liveCtxs.length < 2 → Answers (.hostWrite kind addr bytes) s fun t =>
         (∀ j, j < bytes.length → t.hbm.get (addr + j) = bytes.getD j 0#8) ∧ t.scratch = s.scratch ∧
         ∀ a, (a < addr ∨ addr + bytes.length ≤ a) → t.hbm.get a = s.hbm.get a))) ∧
  (∀ (s : State) (fn slot : Nat) (x : Bool × Nat × Nat), MemInv s → hasFrame x (s.ctx fn slot).pages = false →
     (∃ o ∈ s.liveCtxs, o ≠ (fn, slot) ∧ (s.framesOf (s.ctx o.1 o.2)).any (sharesFrame x) = true) →
     let t := s.mapFrame fn slot x
     (∀ a, x.2.1 ≤ a → a < x.2.1 + x.2.2 → t.memGet x.1 a = 0#8) ∧ x ∈ (t.ctx fn slot).pages)

/-- R5, R6, R233 to R235, R265, R272, R274 to R278, R284: a register write reaches its register when the slot's state lets it,
and a read gives what the register holds; event counters are set, added to and read whole; a core's halt parks what is not
performed, and its save lets it go on, or loses a block that cannot be saved; each command of the ring is answered with its
code and has its effect. Reset values of registers without a stated one are the model's choice (log 18, 20); corner cases of
commands and the save areas are its readings (log 26, 27), and so are the bytes from which a tag is computed, and its place
in the record (log 12). -/
def Obligations.RegistersAndCommands : Prop :=
  (∀ (s : State) (fn q slot : Nat) (v : Word), fn < 65 → q < 256 → slot < 64 →
     let x := s.ctx fn slot
     (Answers (.registerWrite fn (32 * q + 0x0C) v) s fun t => t.agenda = s.agenda ++ [.launchPacket fn q] ∧
       ((alook q (t.fn fn).queues).getD Queue.init).door = v.setWidth 16 ∧ SameBytes s t) ∧
     (((alook q (s.fn fn).queues).getD Queue.init).en = true → Answers (.registerWrite fn (32 * q) v) s fun t =>
       (alook q (t.fn fn).queues).getD Queue.init = (alook q (s.fn fn).queues).getD Queue.init ∧ SameBytes s t) ∧
     (Answers (.registerWrite fn 0x200C v) s fun t => (t.fn fn).cmddoor = v.setWidth 12 ∧ (t.fn fn).queues = (s.fn fn).queues ∧
       SameBytes s t) ∧
     (x.st = .idle → Answers (.registerWrite fn (0x4000 + 256 * slot + 0x08) v) s fun t =>
       (t.ctx fn slot).vecbase.toNat = (x.vecbase.toNat / 2 ^ 32 * 2 ^ 32 + v.toNat) / 128 * 128 ∧ SameBytes s t) ∧
     (x.st ≠ .idle → exec (.registerWrite fn (0x4000 + 256 * slot + 0x08) v) s = .next s) ∧
     exec (.registerWrite fn (0x4000 + 256 * slot + 0x20) v) s = exec (.fqheadWrite fn slot (v.setWidth 12)) s ∧
     (let n := (x.stepsize.toNat / 2 ^ 32 * 2 ^ 32 + v.toNat) / 65536 * 65536
      (x.st = .idle ∨ x.stepsize.toNat ≤ n → Answers (.registerWrite fn (0x4000 + 256 * slot + 0x60) v) s fun t =>
        (t.ctx fn slot).stepsize.toNat = n ∧ SameBytes s t) ∧
      (x.st ≠ .idle → n < x.stepsize.toNat → Answers (.registerWrite fn (0x4000 + 256 * slot + 0x60) v) s fun t =>
        (t.ctx fn slot).stepsize = x.stepsize ∧ SameBytes s t))) ∧
  (∀ (s : State) (fn off : Nat), fn < 65 →
     (off ≠ 0x2028 → (s.hostRead fn off).2 = s) ∧
     (s.hostRead fn 0x2028).1 = (s.counter fn).lo ∧ (s.hostRead fn 0x2028).2.readRegister fn 0x202C = (s.counter fn).hi ∧
     SameBytes s (s.hostRead fn 0x2028).2 ∧
     ((s.ctx fn (s.fn fn).selected.1).st = .empty → s.counter fn = 0#64) ∧
     ∀ q slot, q < 256 → slot < 64 →
       let k := (alook q (s.fn fn).queues).getD Queue.init
       s.readRegister fn (32 * q + 0x0C) = k.door.setWidth 32 ∧ s.readRegister fn (32 * q + 0x18) = k.head.setWidth 32 ∧
       s.readRegister fn (32 * q + 0x08) &&& 0xFFFFFE00#32 = 0#32 ∧
       s.readRegister fn (0x4000 + 256 * slot) = (s.ctx fn slot).root.lo ∧ s.readRegister fn (0x4000 + 256 * slot + 4) = (s.ctx fn slot).root.hi ∧
       s.readRegister fn (0x4000 + 256 * slot + 0x1C) = (s.ctx fn slot).fqtail.setWidth 32 ∧
       s.readRegister fn (0x4000 + 256 * slot + 0x6C) = BitVec.ofNat 32 (s.ctx fn slot).st.code) ∧
  (∀ (s : State) (fn : Nat) (v : Word),
     let slot := (s.fn fn).selected.1
     let i := (s.fn fn).selected.2
     let val := fun (t : State) => (alook i (t.ctx fn slot).counters).getD 0#64
     ((s.ctx fn slot).st = .empty → exec (.evvalWrite fn v) s = .next s ∧ exec (.evaddWrite fn v) s = .next s) ∧
     ((s.ctx fn slot).st ≠ .empty →
       (Answers (.evvalWrite fn v) s fun t => val t = Dword.pair (s.fn fn).evvalLo v ∧ SameBytes s t) ∧
       (Answers (.evaddWrite fn v) s fun t => val t = val s + Dword.pair (s.fn fn).evaddLo v ∧ SameBytes s t))) ∧
  (∀ (s : State) (fn slot : Nat) (v : BitVec 12), (s.ctx fn slot).st ≠ .empty → (s.ctx fn slot).records = [] →
     Answers (.fqheadWrite fn slot v) s fun t => t.ctx fn slot = { s.ctx fn slot with fqhead := v } ∧ SameBytes s t) ∧
  (∀ (s : State) (pkg id : Nat) (b : Block), s.block? id = some b → packageOf b.core = pkg → b.ended = false → b.saved = false →
     Answers (.snapshotPin pkg) s fun t => SameBytes s t ∧ (t.block id).snap.step = (s.launch b.launch).step ∧
       (t.block id).snap.warps = b.warps.map fun w => (((sortPaths w.paths).head?.map (·.pc)).getD 0#32, w.retired, w.bars)) ∧
  (∀ (s : State) (fn : Nat) (ws : List Word), MemInv s → s.nextCmd fn = some ws →
     let slot := cmdSlot ws
     let x := s.ctx fn slot
     let is := fun (op : Nat) => cmdOp ws = op ∧ cmdPlain ws = true
     (¬ (1 ≤ cmdOp ws ∧ cmdOp ws ≤ 8 ∧ cmdPlain ws = true) → Answers (.badop fn) s fun t => Answered s t fn 0x10) ∧
     (is 1 → x.st ≠ .empty → Answers (.ctxcreate fn) s fun t => Answered s t fn 0x11 ∧ t.ctx fn slot = x) ∧
     (is 1 → x.st = .empty → s.ctxids.length + 1 < 2 ^ 32 → Answers (.ctxcreate fn) s fun t => Answered s t fn 1 ∧
       (t.ctx fn slot).st = .idle ∧ (∃ id, t.ctxids = id :: s.ctxids ∧ 0 < id ∧ id < 2 ^ 32 ∧ id ∉ s.ctxids ∧ (t.ctx fn slot).id = BitVec.ofNat 32 id) ∧
       (t.ctx fn slot).counters = [] ∧ (t.ctx fn slot).root = 0#64) ∧
     (is 2 → x.st = .empty → Answers (.ctxdestroy fn) s fun t => Answered s t fn 0x11) ∧
     (is 2 → x.st = .active ∨ x.st = .saved → Answers (.ctxdestroy fn) s fun t => Answered s t fn 0x12 ∧ t.ctx fn slot = x) ∧
     (is 2 → x.st = .idle → Answers (.ctxdestroy fn) s fun t => Answered s t fn 1 ∧ t.ctx fn slot = Ctx.init) ∧
     (is 3 → x.st = .empty → Answers (.inval fn) s fun t => Answered s t fn 0x11) ∧
     (is 3 → x.st ≠ .empty → cmdArg ws 3 = 0 ∨ cmdArg ws 1 + cmdArg ws 3 ≤ 2 ^ 57 → Answers (.inval fn) s fun t => Answered s t fn 1 ∧
       ∀ e ∈ (t.ctx fn slot).tlb, e ∈ x.tlb ∧ cmdArg ws 3 ≠ 0 ∧ overlap e.base e.size (cmdArg ws 1) (cmdArg ws 3) = false) ∧
     (∀ (leaf : Leaf) (pa : Nat) (bytes : List Byte), is 4 → x.st ≠ .empty → (ws.getD 3 0#32).toNat = 1 → cmdArg ws 1 % 128 = 0 →
       x.cbase.toNat ≤ cmdArg ws 1 → cmdArg ws 1 + 128 ≤ x.cbase.toNat + x.csize.toNat →
       s.recordPlace fn slot x (cmdArg ws 1) = some (leaf, pa) → (s.place none fn slot (cmdArg ws 1)).isSome = true →
       s.vread none fn slot (cmdArg ws 1) 128 = some bytes → let map := BitVec.ofNat 32 (leNat ((List.range 4).map fun i => s.memGet leaf.attr.hbm (pa + 8 + i)))
       let tag := (lineTag (Config.codeKey x.id) x.id (cmdArg ws 1) bytes map).toNat
       Answers (.seal fn) s fun t => Answered s t fn 1 ∧ (leaf.attr.hbm = false → t.scratch.num pa 8 = tag) ∧
         (leaf.attr.hbm = true → t.hbm = (s.hbmWrite pa (leBytes 8 tag ++ wordBytes map ++ leBytes 4 0)).mapNew.hbm ∧
           (s.liveCtxs.length < 2 → t.hbm.num pa 8 = tag))) ∧
     (is 5 → x.st = .active → s.coresWith x.id = [] → Answers (.preempt fn) s fun t => Answered s t fn 1 ∧
       (t.ctx fn slot).st = .saved) ∧
     (is 5 → x.st = .active → s.coresWith x.id ≠ [] → (∀ k ∈ s.coresWith x.id, (s.core k).halting = none) →
       Answers (.preempt fn) s fun t => (t.ctx fn slot).saving = s.coresWith x.id ∧ (t.fn fn).running.isSome = true ∧
         ∀ k ∈ s.coresWith x.id, (t.core k).halting = some x.id.toNat ∧ .coreHalt k ∈ t.agenda) ∧
     (∀ u, is 6 → x.st = .saved →
       let p := bitsOf (ws.getD 1 0#32).toNat 7 0
       let pkg := if p = 0xFF then x.pkg else p
       pkg < s.packages → featureOk x.feature (s.pkg pkg).feature = true →
       State.placeSaved pkg (s.savedSpans fn slot) s = some u → MemInv u → Answers (.resume fn) s fun t =>
         Answered u t fn 1 ∧ (t.ctx fn slot).pkg = pkg ∧
         (t.ctx fn slot).st = (if s.launches.any fun l => l.fn == fn && l.ctx == slot && l.phase == .running then .active else .idle) ∧
         (t.ctx fn slot).featver = (u.ctx fn slot).featver +
           if (s.savedSpans fn slot).any (fun bs => bs.any fun b => packageOf b.home != pkg) then 1#32 else 0#32) ∧
     (let at_ := fun (t : State) (n : Nat) =>
        t.host.word ((s.fn fn).cmdbase.toNat + 64 * ((s.fn fn).cmdhead.toNat % 2 ^ (s.fn fn).cmdsize) + 4 * n)
      let q := (ws.getD 1 0#32).toNat
      let n := (ws.getD 2 0#32).toNat
      (is 7 → x.st = .empty → Answers (.linfo fn) s fun t => Answered s t fn 0x11) ∧
      (is 8 → x.st = .empty → Answers (.cinfo fn) s fun t => Answered s t fn 0x11) ∧
      (is 7 → x.st ≠ .empty → s.slotLaunch fn q n = false → Answers (.linfo fn) s fun t => Answered s t fn 0x13) ∧
      (∀ l, is 7 → x.st ≠ .empty → s.slotLaunch fn q n = true →
        s.launches.find? (fun l => l.fn == fn && l.queue == q && l.slot == n && l.phase != .waiting) = some l →
        Answers (.linfo fn) s fun t => Answered s t fn 1 ∧ at_ t 3 = l.energy.lo ∧ at_ t 4 = l.energy.hi) ∧
      (is 8 → x.st ≠ .empty → Answers (.cinfo fn) s fun t =>
        Answered s t fn 1 ∧ at_ t 3 = x.energy.lo ∧ at_ t 4 = x.energy.hi ∧ at_ t 5 = x.id))) ∧
  (∀ (s : State) (core ctx : Nat), (s.core core).halting = some ctx →
     ((s.core core).halted = false → Answers (.coreHalt core) s fun t => (t.core core).halted = true ∧
       .contextSaveComplete core ctx ∈ t.agenda ∧
       ∀ b ∈ t.blocks, b.core = core → ∀ w ∈ b.warps, ∀ a ∈ w.pend, a.kind.fence?.isSome = true ∨ a.kind.bound?.isSome = true) ∧
     (∀ b, (s.core core).halted = true → b ∈ s.blocksOf core ctx → s.saveLost core b = true → s.block? b.id = some b → b.ck = none →
       Answers (.contextSaveComplete core ctx) s fun t => SpanGone s t b) ∧
     ((s.core core).halted = true → (∀ b ∈ s.blocksOf core ctx, s.saveLost core b = false) →
       Answers (.contextSaveComplete core ctx) s fun t => (t.core core).halted = false ∧
         (t.core core).halting = none ∧ ∀ e ∈ (t.core core).entries, e.ctx ≠ BitVec.ofNat 32 ctx))

/-- R218, R257, R263, R265, R268 to R270, R272, R280, R282: a management command on a package that exists has its effect on its
registers and is answered with a completion code; every `DRAIN` that is open is answered as it completes, or as a `RESTORE`
undoes it. Which case takes which completion code where R280 does not say, the banks of a core, and the layout of answer
words, are the model's choice (log 20, 34); a package's floor and frequency for a cap are free values (log 19), a test's
results too (log 13). -/
def Obligations.ManagementCommands : Prop :=
  ∀ (s : State) (pkg : Nat), pkg < s.packages →
    let p := s.pkg pkg
    let on := s.launchesOn pkg
    (∀ watts, 1600 ≤ watts → watts ≤ 2800 → Answers (.envelope pkg watts) s fun t =>
      PkgIs s t pkg (Package.say ({ p with envelope := watts }.refit pkg on) 0) ∧
      (p.group = [] → ∀ x ∈ (t.pkg pkg).freq,
        x ≤ if p.tokens < Config.floorTokens pkg then 0 else Config.freqFor pkg (min (5 * p.tokens) watts))) ∧
    (∀ watts, watts < 1600 ∨ 2800 < watts → Answers (.envelope pkg watts) s fun t => PkgIs s t pkg (p.say 2)) ∧
    (∀ n, p.tokinit = false → Answers (.tokinit pkg n) s fun t =>
      PkgIs s t pkg (Package.say ({ p with tokens := p.tokens + n, tokinit := true }.refit pkg on) 0)) ∧
    (∀ n, p.tokinit = true → Answers (.tokinit pkg n) s fun t => PkgIs s t pkg (p.say 3)) ∧
    (Answers (.floor pkg) s fun t => PkgIs s t pkg (p.say 0 [Config.floorTokens pkg])) ∧
    (∀ n, 1 ≤ n → n < 2 ^ 32 → Answers (.idlecount pkg n) s fun t => PkgIs s t pkg ({ p with idleCount := n }.say 0)) ∧
    (∀ (kind : BucketKind) (i : Nat) (set : BucketSet), i < counterCount kind → Answers (.bucket pkg kind i set) s fun t =>
      let b := p.bucket kind i
      let c := (t.pkg pkg).bucket kind i
      c.fill = b.fill ∧ c.leak = set.leak.getD b.leak ∧ c.inc = set.inc.getD b.inc ∧ c.mark = set.mark.getD b.mark ∧
        ∃ k, (t.pkg pkg).answers = p.answers ++ [{ code := 0, words := k }] ∧ t = { s with pkgs := t.pkgs }) ∧
    (∀ (kind : BucketKind) (i : Nat) (set : BucketSet), counterCount kind ≤ i → Answers (.bucket pkg kind i set) s fun t =>
      PkgIs s t pkg (p.say 2)) ∧
    (∀ die core bank, 8 ≤ die ∨ 64 ≤ core ∨ Config.banks ≤ bank → Answers (.spare pkg die core bank) s fun t => PkgIs s t pkg (p.say 2)) ∧
    (∀ die core bank, die < 8 → core < 64 → bank < Config.banks → (die, core, bank) ∉ p.spared → Answers (.spare pkg die core bank) s fun t =>
      PkgIs s t pkg ({ p with spared := p.spared ++ [(die, core, bank)] }.say 0)) ∧
    (∀ start, Answers (.events pkg start) s fun t => PkgIs s t pkg (p.say 0 ((p.log.drop start).flatMap LogEvent.words))) ∧
    (∀ code, Answers (.unknownCommand pkg code) s fun t => PkgIs s t pkg (p.say 1)) ∧
    (∀ image, Config.signed image = true → Answers (.fwload pkg image) s fun t => PkgIs s t pkg ({ p with image := some image }.say 0)) ∧
    (∀ image, Config.signed image = false → Answers (.fwload pkg image) s fun t =>
      PkgIs s t pkg ({ p with log := p.log ++ [LogEvent.rejected pkg] }.say 2)) ∧
    (∀ id l, s.launch? id = some l → Answers (.snapread pkg (.launch id)) s fun t =>
      PkgIs s t pkg (p.say 0 ((s.blocks.filter (·.launch == id)).flatMap Block.snapWords))) ∧
    (∀ q, q < s.packages → Answers (.snapread pkg (.package q)) s fun t =>
      PkgIs s t pkg (p.say 0 ((s.blocks.filter (·.package == q)).flatMap Block.snapWords))) ∧
    (∀ fn slot, Answers (.energy pkg fn (.context slot)) s fun t => PkgIs s t pkg
      (if (s.ctx fn slot).st = .empty then p.say 2 else p.say 0 [(s.ctx fn slot).energy.lo.toNat, (s.ctx fn slot).energy.hi.toNat])) ∧
    (∀ fn q slot l, s.slotLaunch fn q slot = true →
      s.launches.find? (fun l => l.fn == fn && l.queue == q && l.slot == slot && l.phase != .waiting) = some l →
      Answers (.energy pkg fn (.launch q slot)) s fun t => PkgIs s t pkg (p.say 0 [l.energy.lo.toNat, l.energy.hi.toNat])) ∧
    (∀ fn slot watts step boost, pkg = 0 → fn < 65 → slot < 64 → watts < 4096 → step < 256 → (s.ctx fn slot).st ≠ .empty →
      Answers (.grant fn slot watts step boost) s fun t => t.pkg 0 = p.say 0 ∧ SameBytes s t ∧
        t.ctx fn slot = { s.ctx fn slot with watts := watts, minStep := step, boost := boost }) ∧
    (∀ die cluster, die < 8 → cluster < 8 →
      let k := 64 * pkg + 8 * die + cluster
      let x := s.cluster k
      (Answers (.degrade pkg die cluster) s fun t => t.cluster k = { x with degraded := true } ∧ t.pkg pkg = p.say 0 ∧ SameBytes s t) ∧
      let repeated := fun (code : Nat) => (List.range x.drains).foldl (fun (p : Package) _ => p.say code) p
      (Answers (.restore pkg die cluster) s fun t => t.pkg pkg = (repeated 3).say 0 ∧ SameBytes s t ∧
        t.cluster k = { x with degraded := false, draining := false, drained := false, drains := 0, offline := false }) ∧
      (Answers (.drain pkg die cluster) s fun t => t.cluster k = { x with draining := true, drained := false, drains := x.drains + 1 } ∧
        t.agenda = s.agenda ++ [.drainComplete k] ∧ t.pkgs = s.pkgs ∧ SameBytes s t) ∧
      (x.draining = true → x.drained = false → s.emptyCluster k = true → Answers (.drainComplete k) s fun t =>
        t.cluster k = { x with drained := true, drains := 0 } ∧ t.pkg pkg = repeated 0 ∧ SameBytes s t) ∧
      (∀ image, Config.signed image = true → x.drained = true → s.emptyCluster k = true →
        Answers (.testpkg pkg die cluster image) s fun t => (t.cluster k).offline = true ∧ SameBytes s t ∧
          ∃ ws, t.pkg pkg = p.say 0 ws) ∧
      (∀ image, Config.signed image = false → Answers (.testpkg pkg die cluster image) s fun t =>
        PkgIs s t pkg ({ p with log := p.log ++ [LogEvent.rejected pkg] }.say 2)))

/-- R212, R264, R266, R268 to R271, R281, R282, R285, R286: tokens leave, arrive and return, packages take a frequency together
within their caps, firmware is applied, measurements are answered, links fail and strand the blocks that used them, and a
reset leaves no block, no launch and no token. That a package is cut off when its 16 Zhobor links are all down, and not
before, is the model's reading (log 27), and that a stranded block without a checkpoint ends (log 32). What a reset keeps
(host memory, firmware, re-measured curves) is the model's choice (log 20); a package's floor and frequency for a cap are
free values (log 19), signatures and measurements too (log 13). -/
def Obligations.TokensFirmwareLinksAndReset : Prop :=
  (∀ (s : State) (pkg dest : Nat) (link : Fin 16), pkg < s.packages → dest < s.packages → dest ≠ pkg → (s.pkg pkg).tokinit = true →
     Config.floorTokens pkg + 1 ≤ (s.pkg pkg).tokens → link ∉ (s.pkg pkg).zhobor →
     let q := { s.pkg pkg with tokens := (s.pkg pkg).tokens - 1, flight := (s.pkg pkg).flight ++ [(s.serial, dest, link.val)] }
     ((s.pkg pkg).group = [] ∨ (∀ x ∈ (s.pkg pkg).freq, x ≤ q.maxFreq pkg) → Answers (.tokenSend pkg dest link) s fun t =>
       t.pkg pkg = q.refit pkg (s.launchesOn pkg) ∧ (t.pkg pkg).tokens + 1 = (s.pkg pkg).tokens ∧
       (∀ x ∈ (t.pkg pkg).freq, x ≤ (t.pkg pkg).maxFreq pkg) ∧ t.pkg dest = s.pkg dest ∧ SameBytes s t) ∧
     ((s.pkg pkg).group ≠ [] → (∃ x ∈ (s.pkg pkg).freq, q.maxFreq pkg < x) → exec (.tokenSend pkg dest link) s = .next s)) ∧
  (∀ (s : State) (pkg serial src : Nat) (p : Package), s.pkgs.find? (fun p => p.2.flight.any fun t => t.1 == serial && t.2.1 == pkg) =
       some (src, p) → src ≠ pkg →
     Answers (.tokenArrive pkg serial) s fun t => (t.pkg pkg).tokens = (s.pkg pkg).tokens + 1 ∧
       (t.pkg src).tokens = (s.pkg src).tokens ∧ (t.pkg src).flight = (s.pkg src).flight.filter (·.1 != serial) ∧
       t = { s with pkgs := t.pkgs }) ∧
  (∀ (s : State) (pkg serial dest : Nat) (link : Fin 16), (serial, dest, link.val) ∈ (s.pkg pkg).flight → link ∈ (s.pkg pkg).zhobor →
     Answers (.tokenReturn pkg serial) s fun t => PkgIs s t pkg { s.pkg pkg with
       flight := (s.pkg pkg).flight.filter (·.1 != serial), tokens := (s.pkg pkg).tokens + 1 }) ∧
  (∀ (s : State) (group : List Nat) (step : Nat), Answers (.frequencyTimestamp group step) s fun t =>
     let ps := group.filter fun p => decide (p < s.packages)
     t = { s with pkgs := t.pkgs } ∧
     (∀ p, p ∉ ps → t.pkg p = s.pkg p) ∧
     ∀ p ∈ ps, t.pkg p = { s.pkg p with
         freq := (s.pkg p).freq.map fun _ => (s.pkg p).fit p (s.launchesOn p) step, group := if 1 < ps.length then ps else [] } ∧
       (∀ x ∈ (t.pkg p).freq, x ≤ if (s.pkg p).tokens < Config.floorTokens p then 0
         else Config.freqFor p (min (5 * (s.pkg p).tokens) (s.pkg p).envelope)) ∧
       (s.launchesOn p = [] → ∀ x ∈ (t.pkg p).freq, x ≤ step ∧ x ≤ Config.baseStep p)) ∧
  (∀ (s : State) (pkg : Nat) (image : List Byte), pkg < s.packages → (s.pkg pkg).image = some image → s.noneResident pkg = true →
     Answers (.firmwareApply pkg) s fun t => (t.pkg pkg).firmware = (s.pkg pkg).firmware + 1 ∧ (t.pkg pkg).image = none ∧
       (t.pkg pkg).feature = (s.pkg pkg).feature ∧ SameBytes s t ∧
       (∀ fn slot, t.ctx fn slot = if (s.ctx fn slot).st = .empty then s.ctx fn slot
         else { s.ctx fn slot with featver := (s.ctx fn slot).featver + 1#32 }) ∧
       ∀ b ∈ t.blocks, b.saved = true → ∀ w ∈ b.warps, w.wstat.getLsbD 11 = true) ∧
  (∀ (s : State) (pkg : Nat) (r : BitVec 64), pkg < s.packages → Answers (.spdmMeasurement pkg r) s fun t => ∃ x,
     PkgIs s t pkg { s.pkg pkg with spdm := (s.pkg pkg).spdm ++ [(r, x)] }) ∧
  (∀ (s : State) (pkg : Nat), pkg < s.packages →
     (∀ n, Answers (.linkDown pkg (.pcie n)) s fun t => n ∈ (t.pkg pkg).pcie ∧ t = { s with pkgs := t.pkgs }) ∧
     (∀ n, (∃ k, k ≠ n ∧ k ∉ (s.pkg pkg).zhobor) → Answers (.linkDown pkg (.zhobor n)) s fun t => n ∈ (t.pkg pkg).zhobor ∧
       t = { s with pkgs := t.pkgs }) ∧
     (∀ (n : Fin 16) (id : Nat) (b : Block), (∀ k, k ≠ n → k ∈ (s.pkg pkg).zhobor) → s.block? id = some b → s.strands b pkg = true → (b.ck = none ∨ b.ended = true) →
       Answers (.linkDown pkg (.zhobor n)) s fun t => SpanGone s t b ∧ n ∈ (t.pkg pkg).zhobor)) ∧
  (∀ (s : State), Answers .deviceReset s fun t => t.blocks = [] ∧ t.launches = [] ∧ t.copies = [] ∧ t.issuing = none ∧ t.badBytes = [] ∧
     t.scratch = [] ∧ t.hbm = [] ∧ t.host = s.host ∧ (∀ fn slot, (t.ctx fn slot).st = .empty) ∧
     ∀ p, (t.pkg p).tokens = 0 ∧ (t.pkg p).feature = (s.pkg p).feature ∧ (t.pkg p).firmware = (s.pkg p).firmware)
end

