-- ==== Sys2Proof/Laws/Memory.lean ====
section
/-! SUPPORT. Laws of memories: every operation keeps the canonical form, and a read after a write. -/

namespace Sys2Proof.Machine

open Sys2Proof

theorem Memory.wfAbove_mono {n m : Nat} (h : m ≤ n) : ∀ {xs : Memory}, Memory.wfAbove n xs = true → Memory.wfAbove m xs = true
  | [], _ => rfl
  | (a, v) :: rest, hx => by
    simp only [Memory.wfAbove, Bool.and_eq_true, decide_eq_true_eq] at hx ⊢
    exact ⟨⟨by omega, hx.1.2⟩, hx.2⟩

/-- A byte below the first listed address reads 0. -/
theorem Memory.get_below : ∀ {xs : Memory} {n a : Nat}, Memory.wfAbove n xs = true → a < n → Memory.get xs a = 0#8
  | [], _, _, _, _ => rfl
  | (k, v) :: rest, n, a, hx, ha => by
    simp only [Memory.wfAbove, Bool.and_eq_true, decide_eq_true_eq] at hx
    have : a < k := by omega
    simp [Memory.get, this]

theorem Memory.wfAbove_set : ∀ {xs : Memory} {n a : Nat} (v : Byte), Memory.wfAbove n xs = true → n ≤ a →
    Memory.wfAbove n (Memory.set xs a v) = true
  | [], n, a, v, _, ha => by
    by_cases hv : v = 0#8 <;> simp [Memory.set, Memory.wfAbove, hv, ha]
  | (k, w) :: rest, n, a, v, hx, ha => by
    have hx' := hx
    simp only [Memory.wfAbove, Bool.and_eq_true, decide_eq_true_eq] at hx
    obtain ⟨⟨h1, h2⟩, h3⟩ := hx
    simp only [Memory.set]
    split
    · split
      · exact hx'
      · simp only [Memory.wfAbove, Bool.and_eq_true, decide_eq_true_eq]
        exact ⟨⟨ha, by assumption⟩, ⟨by omega, h2⟩, h3⟩
    · split
      · split
        · exact Memory.wfAbove_mono (by omega) h3
        · simp only [Memory.wfAbove, Bool.and_eq_true, decide_eq_true_eq]
          exact ⟨⟨ha, by assumption⟩, Memory.wfAbove_mono (by omega) h3⟩
      · simp only [Memory.wfAbove, Bool.and_eq_true, decide_eq_true_eq]
        exact ⟨⟨h1, h2⟩, Memory.wfAbove_set v h3 (by omega)⟩

/-- Writing a byte keeps the canonical form. -/
theorem Memory.wf_set {m : Memory} (a : Nat) (v : Byte) (h : m.wf = true) : (m.set a v).wf = true :=
  Memory.wfAbove_set v h (Nat.zero_le a)

/-- Writing a run of bytes keeps the canonical form. -/
theorem Memory.wf_setBytes : ∀ (bs : List Byte) {m : Memory} (a : Nat), m.wf = true → (m.setBytes a bs).wf = true
  | [], _, _, h => h
  | b :: bs, _, a, h => Memory.wf_setBytes bs (a + 1) (Memory.wf_set a b h)

theorem Memory.wf_setWord {m : Memory} (a : Nat) (w : Word) (h : m.wf = true) : (m.setWord a w).wf = true := Memory.wf_setBytes _ a h
theorem Memory.wf_setDword {m : Memory} (a : Nat) (w : Dword) (h : m.wf = true) : (m.setDword a w).wf = true := Memory.wf_setBytes _ a h

theorem Memory.wfAbove_filter (p : Host.Cell → Bool) : ∀ {xs : Memory} {n : Nat}, Memory.wfAbove n xs = true →
    Memory.wfAbove n (xs.filter p) = true
  | [], _, _ => rfl
  | (a, v) :: rest, n, hx => by
    simp only [Memory.wfAbove, Bool.and_eq_true, decide_eq_true_eq] at hx
    have h := Memory.wfAbove_filter p hx.2
    by_cases hp : p (a, v) = true
    · simp [List.filter, hp, Memory.wfAbove, hx.1, h]
    · simpa [List.filter, hp] using Memory.wfAbove_mono (by omega) h

/-- Clearing a range keeps the canonical form. -/
theorem Memory.wf_clear {m : Memory} (a n : Nat) (h : m.wf = true) : (m.clear a n).wf = true := Memory.wfAbove_filter _ h

theorem Memory.get_set_same' : ∀ {xs : Memory} {n a : Nat} (v : Byte), Memory.wfAbove n xs = true →
    Memory.get (Memory.set xs a v) a = v
  | [], _, a, v, _ => by by_cases hv : v = 0#8 <;> simp [Memory.set, Memory.get, hv]
  | (k, w) :: rest, n, a, v, hx => by
    simp only [Memory.wfAbove, Bool.and_eq_true, decide_eq_true_eq] at hx
    simp only [Memory.set]
    split
    · split
      · rename_i h hv; simp [Memory.get, h, hv]
      · simp [Memory.get]
    · split
      · rename_i hk
        split
        · rename_i hv; subst hk; rw [hv]; exact Memory.get_below hx.2 (by omega)
        · simp [Memory.get]
      · rename_i h1 h2
        simp only [Memory.get, h1, h2, if_false]
        exact Memory.get_set_same' v hx.2

/-- A byte reads as it was last written. -/
theorem Memory.get_set_same {m : Memory} (a : Nat) (v : Byte) (h : m.wf = true) : (m.set a v).get a = v := Memory.get_set_same' v h

theorem Memory.get_set_ne' : ∀ {xs : Memory} {n a b : Nat} (v : Byte), Memory.wfAbove n xs = true → b ≠ a →
    Memory.get (Memory.set xs a v) b = Memory.get xs b
  | [], _, a, b, v, _, hb => by
    by_cases hv : v = 0#8
    · simp [Memory.set, hv]
    · simp only [Memory.set, hv, if_false, Memory.get, hb]; split <;> rfl
  | (k, w) :: rest, n, a, b, v, hx, hb => by
    simp only [Memory.wfAbove, Bool.and_eq_true, decide_eq_true_eq] at hx
    simp only [Memory.set]
    split
    · split
      · rfl
      · rename_i h _
        simp only [Memory.get, hb, if_false]
        split
        · have : b < k := by omega
          simp [this]
        · rfl
    · split
      · rename_i hk
        subst hk
        split
        · simp only [Memory.get, hb, if_false]
          split
          · exact Memory.get_below hx.2 (by omega)
          · rfl
        · simp [Memory.get, hb]
      · simp only [Memory.get]
        split
        · rfl
        · split
          · rfl
          · exact Memory.get_set_ne' v hx.2 hb

/-- A write leaves every other byte. -/
theorem Memory.get_set_ne {m : Memory} {a b : Nat} (v : Byte) (h : m.wf = true) (hb : b ≠ a) : (m.set a v).get b = m.get b :=
  Memory.get_set_ne' v h hb

/-- Reading a byte of a run that was just written, or any other byte. -/
theorem Memory.get_setBytes : ∀ (bs : List Byte) {m : Memory} (a b : Nat), m.wf = true →
    (m.setBytes a bs).get b = if a ≤ b ∧ b < a + bs.length then bs.getD (b - a) 0#8 else m.get b
  | [], m, a, b, _ => by simp [Memory.setBytes] <;> omega
  | x :: xs, m, a, b, h => by
    rw [Memory.setBytes, Memory.get_setBytes xs (a + 1) b (Memory.wf_set a x h)]
    by_cases h1 : a + 1 ≤ b ∧ b < a + 1 + xs.length
    · have h2 : a ≤ b ∧ b < a + (x :: xs).length := by simp; omega
      rw [if_pos h1, if_pos h2, show b - a = (b - (a + 1)) + 1 by omega, List.getD_cons_succ]
    · rw [if_neg h1]
      by_cases h2 : b = a
      · subst h2
        rw [if_pos (by simp), Memory.get_set_same b x h]; simp
      · rw [if_neg (by simp; omega), Memory.get_set_ne x h h2]

theorem Memory.bytes_eq (m : Memory) : ∀ (n a : Nat), m.bytes a n = (List.range n).map fun i => m.get (a + i)
  | 0, _ => rfl
  | n + 1, a => by
    rw [Memory.bytes, Memory.bytes_eq m n (a + 1), List.range_succ_eq_map, List.map_cons, List.map_map]
    simp [Function.comp_def, Nat.add_assoc, Nat.add_comm 1]

/-- A run of bytes reads as it was last written. -/
theorem Memory.bytes_setBytes {m : Memory} (a : Nat) (bs : List Byte) (h : m.wf = true) : (m.setBytes a bs).bytes a bs.length = bs := by
  rw [Memory.bytes_eq]
  apply List.ext_getElem (by simp)
  intro i h1 h2
  simp only [List.length_map, List.length_range] at h1
  simp [Memory.get_setBytes bs a (a + i) h, h1]

/-- The reset state's memories are in canonical form. -/
theorem reset_memInv : MemInv State.reset := by
  refine ⟨rfl, rfl, rfl, ?_⟩
  intro b hb
  simp [State.reset] at hb

end Sys2Proof.Machine
end

