-- ==== Sys2Proof/Laws/State.lean ====
section
/-! SUPPORT. What each update of the state leaves as it was, field by field, and what the keyed fields read after one. -/

namespace Sys2Proof.Machine

open Sys2Proof

/-! ### `setFn` -/

@[simp] theorem State.setFn_tick (s : State) (n : Nat) (f : Fn) : (s.setFn n f).tick = s.tick := rfl
@[simp] theorem State.setFn_serial (s : State) (n : Nat) (f : Fn) : (s.setFn n f).serial = s.serial := rfl
@[simp] theorem State.setFn_agenda (s : State) (n : Nat) (f : Fn) : (s.setFn n f).agenda = s.agenda := rfl
@[simp] theorem State.setFn_issuing (s : State) (n : Nat) (f : Fn) : (s.setFn n f).issuing = s.issuing := rfl
@[simp] theorem State.setFn_packed (s : State) (n : Nat) (f : Fn) : (s.setFn n f).packed = s.packed := rfl
@[simp] theorem State.setFn_packages (s : State) (n : Nat) (f : Fn) : (s.setFn n f).packages = s.packages := rfl
@[simp] theorem State.setFn_scratch (s : State) (n : Nat) (f : Fn) : (s.setFn n f).scratch = s.scratch := rfl
@[simp] theorem State.setFn_hbm (s : State) (n : Nat) (f : Fn) : (s.setFn n f).hbm = s.hbm := rfl
@[simp] theorem State.setFn_host (s : State) (n : Nat) (f : Fn) : (s.setFn n f).host = s.host := rfl
@[simp] theorem State.setFn_pkgs (s : State) (n : Nat) (f : Fn) : (s.setFn n f).pkgs = s.pkgs := rfl
@[simp] theorem State.setFn_clusters (s : State) (n : Nat) (f : Fn) : (s.setFn n f).clusters = s.clusters := rfl
@[simp] theorem State.setFn_cores (s : State) (n : Nat) (f : Fn) : (s.setFn n f).cores = s.cores := rfl
@[simp] theorem State.setFn_launches (s : State) (n : Nat) (f : Fn) : (s.setFn n f).launches = s.launches := rfl
@[simp] theorem State.setFn_blocks (s : State) (n : Nat) (f : Fn) : (s.setFn n f).blocks = s.blocks := rfl
@[simp] theorem State.setFn_copies (s : State) (n : Nat) (f : Fn) : (s.setFn n f).copies = s.copies := rfl
@[simp] theorem State.setFn_ctxids (s : State) (n : Nat) (f : Fn) : (s.setFn n f).ctxids = s.ctxids := rfl
@[simp] theorem State.setFn_badBytes (s : State) (n : Nat) (f : Fn) : (s.setFn n f).badBytes = s.badBytes := rfl

/-! ### `setPkg` -/

@[simp] theorem State.setPkg_tick (s : State) (n : Nat) (p : Package) : (s.setPkg n p).tick = s.tick := rfl
@[simp] theorem State.setPkg_serial (s : State) (n : Nat) (p : Package) : (s.setPkg n p).serial = s.serial := rfl
@[simp] theorem State.setPkg_agenda (s : State) (n : Nat) (p : Package) : (s.setPkg n p).agenda = s.agenda := rfl
@[simp] theorem State.setPkg_issuing (s : State) (n : Nat) (p : Package) : (s.setPkg n p).issuing = s.issuing := rfl
@[simp] theorem State.setPkg_packed (s : State) (n : Nat) (p : Package) : (s.setPkg n p).packed = s.packed := rfl
@[simp] theorem State.setPkg_packages (s : State) (n : Nat) (p : Package) : (s.setPkg n p).packages = s.packages := rfl
@[simp] theorem State.setPkg_scratch (s : State) (n : Nat) (p : Package) : (s.setPkg n p).scratch = s.scratch := rfl
@[simp] theorem State.setPkg_hbm (s : State) (n : Nat) (p : Package) : (s.setPkg n p).hbm = s.hbm := rfl
@[simp] theorem State.setPkg_host (s : State) (n : Nat) (p : Package) : (s.setPkg n p).host = s.host := rfl
@[simp] theorem State.setPkg_fns (s : State) (n : Nat) (p : Package) : (s.setPkg n p).fns = s.fns := rfl
@[simp] theorem State.setPkg_clusters (s : State) (n : Nat) (p : Package) : (s.setPkg n p).clusters = s.clusters := rfl
@[simp] theorem State.setPkg_cores (s : State) (n : Nat) (p : Package) : (s.setPkg n p).cores = s.cores := rfl
@[simp] theorem State.setPkg_launches (s : State) (n : Nat) (p : Package) : (s.setPkg n p).launches = s.launches := rfl
@[simp] theorem State.setPkg_blocks (s : State) (n : Nat) (p : Package) : (s.setPkg n p).blocks = s.blocks := rfl
@[simp] theorem State.setPkg_copies (s : State) (n : Nat) (p : Package) : (s.setPkg n p).copies = s.copies := rfl
@[simp] theorem State.setPkg_ctxids (s : State) (n : Nat) (p : Package) : (s.setPkg n p).ctxids = s.ctxids := rfl
@[simp] theorem State.setPkg_badBytes (s : State) (n : Nat) (p : Package) : (s.setPkg n p).badBytes = s.badBytes := rfl

/-! ### `setCluster` -/

@[simp] theorem State.setCluster_tick (s : State) (n : Nat) (c : Cluster) : (s.setCluster n c).tick = s.tick := rfl
@[simp] theorem State.setCluster_serial (s : State) (n : Nat) (c : Cluster) : (s.setCluster n c).serial = s.serial := rfl
@[simp] theorem State.setCluster_agenda (s : State) (n : Nat) (c : Cluster) : (s.setCluster n c).agenda = s.agenda := rfl
@[simp] theorem State.setCluster_issuing (s : State) (n : Nat) (c : Cluster) : (s.setCluster n c).issuing = s.issuing := rfl
@[simp] theorem State.setCluster_packed (s : State) (n : Nat) (c : Cluster) : (s.setCluster n c).packed = s.packed := rfl
@[simp] theorem State.setCluster_packages (s : State) (n : Nat) (c : Cluster) : (s.setCluster n c).packages = s.packages := rfl
@[simp] theorem State.setCluster_scratch (s : State) (n : Nat) (c : Cluster) : (s.setCluster n c).scratch = s.scratch := rfl
@[simp] theorem State.setCluster_hbm (s : State) (n : Nat) (c : Cluster) : (s.setCluster n c).hbm = s.hbm := rfl
@[simp] theorem State.setCluster_host (s : State) (n : Nat) (c : Cluster) : (s.setCluster n c).host = s.host := rfl
@[simp] theorem State.setCluster_fns (s : State) (n : Nat) (c : Cluster) : (s.setCluster n c).fns = s.fns := rfl
@[simp] theorem State.setCluster_pkgs (s : State) (n : Nat) (c : Cluster) : (s.setCluster n c).pkgs = s.pkgs := rfl
@[simp] theorem State.setCluster_cores (s : State) (n : Nat) (c : Cluster) : (s.setCluster n c).cores = s.cores := rfl
@[simp] theorem State.setCluster_launches (s : State) (n : Nat) (c : Cluster) : (s.setCluster n c).launches = s.launches := rfl
@[simp] theorem State.setCluster_blocks (s : State) (n : Nat) (c : Cluster) : (s.setCluster n c).blocks = s.blocks := rfl
@[simp] theorem State.setCluster_copies (s : State) (n : Nat) (c : Cluster) : (s.setCluster n c).copies = s.copies := rfl
@[simp] theorem State.setCluster_ctxids (s : State) (n : Nat) (c : Cluster) : (s.setCluster n c).ctxids = s.ctxids := rfl
@[simp] theorem State.setCluster_badBytes (s : State) (n : Nat) (c : Cluster) : (s.setCluster n c).badBytes = s.badBytes := rfl

/-! ### `setCore` -/

@[simp] theorem State.setCore_tick (s : State) (n : Nat) (c : CoreSt) : (s.setCore n c).tick = s.tick := rfl
@[simp] theorem State.setCore_serial (s : State) (n : Nat) (c : CoreSt) : (s.setCore n c).serial = s.serial := rfl
@[simp] theorem State.setCore_agenda (s : State) (n : Nat) (c : CoreSt) : (s.setCore n c).agenda = s.agenda := rfl
@[simp] theorem State.setCore_issuing (s : State) (n : Nat) (c : CoreSt) : (s.setCore n c).issuing = s.issuing := rfl
@[simp] theorem State.setCore_packed (s : State) (n : Nat) (c : CoreSt) : (s.setCore n c).packed = s.packed := rfl
@[simp] theorem State.setCore_packages (s : State) (n : Nat) (c : CoreSt) : (s.setCore n c).packages = s.packages := rfl
@[simp] theorem State.setCore_scratch (s : State) (n : Nat) (c : CoreSt) : (s.setCore n c).scratch = s.scratch := rfl
@[simp] theorem State.setCore_hbm (s : State) (n : Nat) (c : CoreSt) : (s.setCore n c).hbm = s.hbm := rfl
@[simp] theorem State.setCore_host (s : State) (n : Nat) (c : CoreSt) : (s.setCore n c).host = s.host := rfl
@[simp] theorem State.setCore_fns (s : State) (n : Nat) (c : CoreSt) : (s.setCore n c).fns = s.fns := rfl
@[simp] theorem State.setCore_pkgs (s : State) (n : Nat) (c : CoreSt) : (s.setCore n c).pkgs = s.pkgs := rfl
@[simp] theorem State.setCore_clusters (s : State) (n : Nat) (c : CoreSt) : (s.setCore n c).clusters = s.clusters := rfl
@[simp] theorem State.setCore_launches (s : State) (n : Nat) (c : CoreSt) : (s.setCore n c).launches = s.launches := rfl
@[simp] theorem State.setCore_blocks (s : State) (n : Nat) (c : CoreSt) : (s.setCore n c).blocks = s.blocks := rfl
@[simp] theorem State.setCore_copies (s : State) (n : Nat) (c : CoreSt) : (s.setCore n c).copies = s.copies := rfl
@[simp] theorem State.setCore_ctxids (s : State) (n : Nat) (c : CoreSt) : (s.setCore n c).ctxids = s.ctxids := rfl
@[simp] theorem State.setCore_badBytes (s : State) (n : Nat) (c : CoreSt) : (s.setCore n c).badBytes = s.badBytes := rfl

/-! ### `modCore` -/

@[simp] theorem State.modCore_tick (s : State) (n : Nat) (f : CoreSt → CoreSt) : (s.modCore n f).tick = s.tick := rfl
@[simp] theorem State.modCore_serial (s : State) (n : Nat) (f : CoreSt → CoreSt) : (s.modCore n f).serial = s.serial := rfl
@[simp] theorem State.modCore_agenda (s : State) (n : Nat) (f : CoreSt → CoreSt) : (s.modCore n f).agenda = s.agenda := rfl
@[simp] theorem State.modCore_issuing (s : State) (n : Nat) (f : CoreSt → CoreSt) : (s.modCore n f).issuing = s.issuing := rfl
@[simp] theorem State.modCore_packed (s : State) (n : Nat) (f : CoreSt → CoreSt) : (s.modCore n f).packed = s.packed := rfl
@[simp] theorem State.modCore_packages (s : State) (n : Nat) (f : CoreSt → CoreSt) : (s.modCore n f).packages = s.packages := rfl
@[simp] theorem State.modCore_scratch (s : State) (n : Nat) (f : CoreSt → CoreSt) : (s.modCore n f).scratch = s.scratch := rfl
@[simp] theorem State.modCore_hbm (s : State) (n : Nat) (f : CoreSt → CoreSt) : (s.modCore n f).hbm = s.hbm := rfl
@[simp] theorem State.modCore_host (s : State) (n : Nat) (f : CoreSt → CoreSt) : (s.modCore n f).host = s.host := rfl
@[simp] theorem State.modCore_fns (s : State) (n : Nat) (f : CoreSt → CoreSt) : (s.modCore n f).fns = s.fns := rfl
@[simp] theorem State.modCore_pkgs (s : State) (n : Nat) (f : CoreSt → CoreSt) : (s.modCore n f).pkgs = s.pkgs := rfl
@[simp] theorem State.modCore_clusters (s : State) (n : Nat) (f : CoreSt → CoreSt) : (s.modCore n f).clusters = s.clusters := rfl
@[simp] theorem State.modCore_launches (s : State) (n : Nat) (f : CoreSt → CoreSt) : (s.modCore n f).launches = s.launches := rfl
@[simp] theorem State.modCore_blocks (s : State) (n : Nat) (f : CoreSt → CoreSt) : (s.modCore n f).blocks = s.blocks := rfl
@[simp] theorem State.modCore_copies (s : State) (n : Nat) (f : CoreSt → CoreSt) : (s.modCore n f).copies = s.copies := rfl
@[simp] theorem State.modCore_ctxids (s : State) (n : Nat) (f : CoreSt → CoreSt) : (s.modCore n f).ctxids = s.ctxids := rfl
@[simp] theorem State.modCore_badBytes (s : State) (n : Nat) (f : CoreSt → CoreSt) : (s.modCore n f).badBytes = s.badBytes := rfl

/-! ### `modCluster` -/

@[simp] theorem State.modCluster_tick (s : State) (n : Nat) (f : Cluster → Cluster) : (s.modCluster n f).tick = s.tick := rfl
@[simp] theorem State.modCluster_serial (s : State) (n : Nat) (f : Cluster → Cluster) : (s.modCluster n f).serial = s.serial := rfl
@[simp] theorem State.modCluster_agenda (s : State) (n : Nat) (f : Cluster → Cluster) : (s.modCluster n f).agenda = s.agenda := rfl
@[simp] theorem State.modCluster_issuing (s : State) (n : Nat) (f : Cluster → Cluster) : (s.modCluster n f).issuing = s.issuing := rfl
@[simp] theorem State.modCluster_packed (s : State) (n : Nat) (f : Cluster → Cluster) : (s.modCluster n f).packed = s.packed := rfl
@[simp] theorem State.modCluster_packages (s : State) (n : Nat) (f : Cluster → Cluster) : (s.modCluster n f).packages = s.packages := rfl
@[simp] theorem State.modCluster_scratch (s : State) (n : Nat) (f : Cluster → Cluster) : (s.modCluster n f).scratch = s.scratch := rfl
@[simp] theorem State.modCluster_hbm (s : State) (n : Nat) (f : Cluster → Cluster) : (s.modCluster n f).hbm = s.hbm := rfl
@[simp] theorem State.modCluster_host (s : State) (n : Nat) (f : Cluster → Cluster) : (s.modCluster n f).host = s.host := rfl
@[simp] theorem State.modCluster_fns (s : State) (n : Nat) (f : Cluster → Cluster) : (s.modCluster n f).fns = s.fns := rfl
@[simp] theorem State.modCluster_pkgs (s : State) (n : Nat) (f : Cluster → Cluster) : (s.modCluster n f).pkgs = s.pkgs := rfl
@[simp] theorem State.modCluster_cores (s : State) (n : Nat) (f : Cluster → Cluster) : (s.modCluster n f).cores = s.cores := rfl
@[simp] theorem State.modCluster_launches (s : State) (n : Nat) (f : Cluster → Cluster) : (s.modCluster n f).launches = s.launches := rfl
@[simp] theorem State.modCluster_blocks (s : State) (n : Nat) (f : Cluster → Cluster) : (s.modCluster n f).blocks = s.blocks := rfl
@[simp] theorem State.modCluster_copies (s : State) (n : Nat) (f : Cluster → Cluster) : (s.modCluster n f).copies = s.copies := rfl
@[simp] theorem State.modCluster_ctxids (s : State) (n : Nat) (f : Cluster → Cluster) : (s.modCluster n f).ctxids = s.ctxids := rfl
@[simp] theorem State.modCluster_badBytes (s : State) (n : Nat) (f : Cluster → Cluster) : (s.modCluster n f).badBytes = s.badBytes := rfl

/-! ### `modPkg` -/

@[simp] theorem State.modPkg_tick (s : State) (n : Nat) (f : Package → Package) : (s.modPkg n f).tick = s.tick := rfl
@[simp] theorem State.modPkg_serial (s : State) (n : Nat) (f : Package → Package) : (s.modPkg n f).serial = s.serial := rfl
@[simp] theorem State.modPkg_agenda (s : State) (n : Nat) (f : Package → Package) : (s.modPkg n f).agenda = s.agenda := rfl
@[simp] theorem State.modPkg_issuing (s : State) (n : Nat) (f : Package → Package) : (s.modPkg n f).issuing = s.issuing := rfl
@[simp] theorem State.modPkg_packed (s : State) (n : Nat) (f : Package → Package) : (s.modPkg n f).packed = s.packed := rfl
@[simp] theorem State.modPkg_packages (s : State) (n : Nat) (f : Package → Package) : (s.modPkg n f).packages = s.packages := rfl
@[simp] theorem State.modPkg_scratch (s : State) (n : Nat) (f : Package → Package) : (s.modPkg n f).scratch = s.scratch := rfl
@[simp] theorem State.modPkg_hbm (s : State) (n : Nat) (f : Package → Package) : (s.modPkg n f).hbm = s.hbm := rfl
@[simp] theorem State.modPkg_host (s : State) (n : Nat) (f : Package → Package) : (s.modPkg n f).host = s.host := rfl
@[simp] theorem State.modPkg_fns (s : State) (n : Nat) (f : Package → Package) : (s.modPkg n f).fns = s.fns := rfl
@[simp] theorem State.modPkg_clusters (s : State) (n : Nat) (f : Package → Package) : (s.modPkg n f).clusters = s.clusters := rfl
@[simp] theorem State.modPkg_cores (s : State) (n : Nat) (f : Package → Package) : (s.modPkg n f).cores = s.cores := rfl
@[simp] theorem State.modPkg_launches (s : State) (n : Nat) (f : Package → Package) : (s.modPkg n f).launches = s.launches := rfl
@[simp] theorem State.modPkg_blocks (s : State) (n : Nat) (f : Package → Package) : (s.modPkg n f).blocks = s.blocks := rfl
@[simp] theorem State.modPkg_copies (s : State) (n : Nat) (f : Package → Package) : (s.modPkg n f).copies = s.copies := rfl
@[simp] theorem State.modPkg_ctxids (s : State) (n : Nat) (f : Package → Package) : (s.modPkg n f).ctxids = s.ctxids := rfl
@[simp] theorem State.modPkg_badBytes (s : State) (n : Nat) (f : Package → Package) : (s.modPkg n f).badBytes = s.badBytes := rfl

/-! ### `modCtx` -/

@[simp] theorem State.modCtx_tick (s : State) (fn slot : Nat) (f : Ctx → Ctx) : (s.modCtx fn slot f).tick = s.tick := rfl
@[simp] theorem State.modCtx_serial (s : State) (fn slot : Nat) (f : Ctx → Ctx) : (s.modCtx fn slot f).serial = s.serial := rfl
@[simp] theorem State.modCtx_agenda (s : State) (fn slot : Nat) (f : Ctx → Ctx) : (s.modCtx fn slot f).agenda = s.agenda := rfl
@[simp] theorem State.modCtx_issuing (s : State) (fn slot : Nat) (f : Ctx → Ctx) : (s.modCtx fn slot f).issuing = s.issuing := rfl
@[simp] theorem State.modCtx_packed (s : State) (fn slot : Nat) (f : Ctx → Ctx) : (s.modCtx fn slot f).packed = s.packed := rfl
@[simp] theorem State.modCtx_packages (s : State) (fn slot : Nat) (f : Ctx → Ctx) : (s.modCtx fn slot f).packages = s.packages := rfl
@[simp] theorem State.modCtx_scratch (s : State) (fn slot : Nat) (f : Ctx → Ctx) : (s.modCtx fn slot f).scratch = s.scratch := rfl
@[simp] theorem State.modCtx_hbm (s : State) (fn slot : Nat) (f : Ctx → Ctx) : (s.modCtx fn slot f).hbm = s.hbm := rfl
@[simp] theorem State.modCtx_host (s : State) (fn slot : Nat) (f : Ctx → Ctx) : (s.modCtx fn slot f).host = s.host := rfl
@[simp] theorem State.modCtx_pkgs (s : State) (fn slot : Nat) (f : Ctx → Ctx) : (s.modCtx fn slot f).pkgs = s.pkgs := rfl
@[simp] theorem State.modCtx_clusters (s : State) (fn slot : Nat) (f : Ctx → Ctx) : (s.modCtx fn slot f).clusters = s.clusters := rfl
@[simp] theorem State.modCtx_cores (s : State) (fn slot : Nat) (f : Ctx → Ctx) : (s.modCtx fn slot f).cores = s.cores := rfl
@[simp] theorem State.modCtx_launches (s : State) (fn slot : Nat) (f : Ctx → Ctx) : (s.modCtx fn slot f).launches = s.launches := rfl
@[simp] theorem State.modCtx_blocks (s : State) (fn slot : Nat) (f : Ctx → Ctx) : (s.modCtx fn slot f).blocks = s.blocks := rfl
@[simp] theorem State.modCtx_copies (s : State) (fn slot : Nat) (f : Ctx → Ctx) : (s.modCtx fn slot f).copies = s.copies := rfl
@[simp] theorem State.modCtx_ctxids (s : State) (fn slot : Nat) (f : Ctx → Ctx) : (s.modCtx fn slot f).ctxids = s.ctxids := rfl
@[simp] theorem State.modCtx_badBytes (s : State) (fn slot : Nat) (f : Ctx → Ctx) : (s.modCtx fn slot f).badBytes = s.badBytes := rfl

/-! ### `modLaunch` -/

@[simp] theorem State.modLaunch_tick (s : State) (id : Nat) (f : Launch → Launch) : (s.modLaunch id f).tick = s.tick := rfl
@[simp] theorem State.modLaunch_serial (s : State) (id : Nat) (f : Launch → Launch) : (s.modLaunch id f).serial = s.serial := rfl
@[simp] theorem State.modLaunch_agenda (s : State) (id : Nat) (f : Launch → Launch) : (s.modLaunch id f).agenda = s.agenda := rfl
@[simp] theorem State.modLaunch_issuing (s : State) (id : Nat) (f : Launch → Launch) : (s.modLaunch id f).issuing = s.issuing := rfl
@[simp] theorem State.modLaunch_packed (s : State) (id : Nat) (f : Launch → Launch) : (s.modLaunch id f).packed = s.packed := rfl
@[simp] theorem State.modLaunch_packages (s : State) (id : Nat) (f : Launch → Launch) : (s.modLaunch id f).packages = s.packages := rfl
@[simp] theorem State.modLaunch_scratch (s : State) (id : Nat) (f : Launch → Launch) : (s.modLaunch id f).scratch = s.scratch := rfl
@[simp] theorem State.modLaunch_hbm (s : State) (id : Nat) (f : Launch → Launch) : (s.modLaunch id f).hbm = s.hbm := rfl
@[simp] theorem State.modLaunch_host (s : State) (id : Nat) (f : Launch → Launch) : (s.modLaunch id f).host = s.host := rfl
@[simp] theorem State.modLaunch_fns (s : State) (id : Nat) (f : Launch → Launch) : (s.modLaunch id f).fns = s.fns := rfl
@[simp] theorem State.modLaunch_pkgs (s : State) (id : Nat) (f : Launch → Launch) : (s.modLaunch id f).pkgs = s.pkgs := rfl
@[simp] theorem State.modLaunch_clusters (s : State) (id : Nat) (f : Launch → Launch) : (s.modLaunch id f).clusters = s.clusters := rfl
@[simp] theorem State.modLaunch_cores (s : State) (id : Nat) (f : Launch → Launch) : (s.modLaunch id f).cores = s.cores := rfl
@[simp] theorem State.modLaunch_blocks (s : State) (id : Nat) (f : Launch → Launch) : (s.modLaunch id f).blocks = s.blocks := rfl
@[simp] theorem State.modLaunch_copies (s : State) (id : Nat) (f : Launch → Launch) : (s.modLaunch id f).copies = s.copies := rfl
@[simp] theorem State.modLaunch_ctxids (s : State) (id : Nat) (f : Launch → Launch) : (s.modLaunch id f).ctxids = s.ctxids := rfl
@[simp] theorem State.modLaunch_badBytes (s : State) (id : Nat) (f : Launch → Launch) : (s.modLaunch id f).badBytes = s.badBytes := rfl

/-! ### `modBlock` -/

@[simp] theorem State.modBlock_tick (s : State) (id : Nat) (f : Block → Block) : (s.modBlock id f).tick = s.tick := rfl
@[simp] theorem State.modBlock_serial (s : State) (id : Nat) (f : Block → Block) : (s.modBlock id f).serial = s.serial := rfl
@[simp] theorem State.modBlock_agenda (s : State) (id : Nat) (f : Block → Block) : (s.modBlock id f).agenda = s.agenda := rfl
@[simp] theorem State.modBlock_issuing (s : State) (id : Nat) (f : Block → Block) : (s.modBlock id f).issuing = s.issuing := rfl
@[simp] theorem State.modBlock_packed (s : State) (id : Nat) (f : Block → Block) : (s.modBlock id f).packed = s.packed := rfl
@[simp] theorem State.modBlock_packages (s : State) (id : Nat) (f : Block → Block) : (s.modBlock id f).packages = s.packages := rfl
@[simp] theorem State.modBlock_scratch (s : State) (id : Nat) (f : Block → Block) : (s.modBlock id f).scratch = s.scratch := rfl
@[simp] theorem State.modBlock_hbm (s : State) (id : Nat) (f : Block → Block) : (s.modBlock id f).hbm = s.hbm := rfl
@[simp] theorem State.modBlock_host (s : State) (id : Nat) (f : Block → Block) : (s.modBlock id f).host = s.host := rfl
@[simp] theorem State.modBlock_fns (s : State) (id : Nat) (f : Block → Block) : (s.modBlock id f).fns = s.fns := rfl
@[simp] theorem State.modBlock_pkgs (s : State) (id : Nat) (f : Block → Block) : (s.modBlock id f).pkgs = s.pkgs := rfl
@[simp] theorem State.modBlock_clusters (s : State) (id : Nat) (f : Block → Block) : (s.modBlock id f).clusters = s.clusters := rfl
@[simp] theorem State.modBlock_cores (s : State) (id : Nat) (f : Block → Block) : (s.modBlock id f).cores = s.cores := rfl
@[simp] theorem State.modBlock_launches (s : State) (id : Nat) (f : Block → Block) : (s.modBlock id f).launches = s.launches := rfl
@[simp] theorem State.modBlock_copies (s : State) (id : Nat) (f : Block → Block) : (s.modBlock id f).copies = s.copies := rfl
@[simp] theorem State.modBlock_ctxids (s : State) (id : Nat) (f : Block → Block) : (s.modBlock id f).ctxids = s.ctxids := rfl
@[simp] theorem State.modBlock_badBytes (s : State) (id : Nat) (f : Block → Block) : (s.modBlock id f).badBytes = s.badBytes := rfl

/-! ### `modWarp` -/

@[simp] theorem State.modWarp_tick (s : State) (b w : Nat) (f : Warp → Warp) : (s.modWarp b w f).tick = s.tick := rfl
@[simp] theorem State.modWarp_serial (s : State) (b w : Nat) (f : Warp → Warp) : (s.modWarp b w f).serial = s.serial := rfl
@[simp] theorem State.modWarp_agenda (s : State) (b w : Nat) (f : Warp → Warp) : (s.modWarp b w f).agenda = s.agenda := rfl
@[simp] theorem State.modWarp_issuing (s : State) (b w : Nat) (f : Warp → Warp) : (s.modWarp b w f).issuing = s.issuing := rfl
@[simp] theorem State.modWarp_packed (s : State) (b w : Nat) (f : Warp → Warp) : (s.modWarp b w f).packed = s.packed := rfl
@[simp] theorem State.modWarp_packages (s : State) (b w : Nat) (f : Warp → Warp) : (s.modWarp b w f).packages = s.packages := rfl
@[simp] theorem State.modWarp_scratch (s : State) (b w : Nat) (f : Warp → Warp) : (s.modWarp b w f).scratch = s.scratch := rfl
@[simp] theorem State.modWarp_hbm (s : State) (b w : Nat) (f : Warp → Warp) : (s.modWarp b w f).hbm = s.hbm := rfl
@[simp] theorem State.modWarp_host (s : State) (b w : Nat) (f : Warp → Warp) : (s.modWarp b w f).host = s.host := rfl
@[simp] theorem State.modWarp_fns (s : State) (b w : Nat) (f : Warp → Warp) : (s.modWarp b w f).fns = s.fns := rfl
@[simp] theorem State.modWarp_pkgs (s : State) (b w : Nat) (f : Warp → Warp) : (s.modWarp b w f).pkgs = s.pkgs := rfl
@[simp] theorem State.modWarp_clusters (s : State) (b w : Nat) (f : Warp → Warp) : (s.modWarp b w f).clusters = s.clusters := rfl
@[simp] theorem State.modWarp_cores (s : State) (b w : Nat) (f : Warp → Warp) : (s.modWarp b w f).cores = s.cores := rfl
@[simp] theorem State.modWarp_launches (s : State) (b w : Nat) (f : Warp → Warp) : (s.modWarp b w f).launches = s.launches := rfl
@[simp] theorem State.modWarp_copies (s : State) (b w : Nat) (f : Warp → Warp) : (s.modWarp b w f).copies = s.copies := rfl
@[simp] theorem State.modWarp_ctxids (s : State) (b w : Nat) (f : Warp → Warp) : (s.modWarp b w f).ctxids = s.ctxids := rfl
@[simp] theorem State.modWarp_badBytes (s : State) (b w : Nat) (f : Warp → Warp) : (s.modWarp b w f).badBytes = s.badBytes := rfl

/-! ### `modPath` -/

@[simp] theorem State.modPath_tick (s : State) (b w p : Nat) (f : Path → Path) : (s.modPath b w p f).tick = s.tick := rfl
@[simp] theorem State.modPath_serial (s : State) (b w p : Nat) (f : Path → Path) : (s.modPath b w p f).serial = s.serial := rfl
@[simp] theorem State.modPath_agenda (s : State) (b w p : Nat) (f : Path → Path) : (s.modPath b w p f).agenda = s.agenda := rfl
@[simp] theorem State.modPath_issuing (s : State) (b w p : Nat) (f : Path → Path) : (s.modPath b w p f).issuing = s.issuing := rfl
@[simp] theorem State.modPath_packed (s : State) (b w p : Nat) (f : Path → Path) : (s.modPath b w p f).packed = s.packed := rfl
@[simp] theorem State.modPath_packages (s : State) (b w p : Nat) (f : Path → Path) : (s.modPath b w p f).packages = s.packages := rfl
@[simp] theorem State.modPath_scratch (s : State) (b w p : Nat) (f : Path → Path) : (s.modPath b w p f).scratch = s.scratch := rfl
@[simp] theorem State.modPath_hbm (s : State) (b w p : Nat) (f : Path → Path) : (s.modPath b w p f).hbm = s.hbm := rfl
@[simp] theorem State.modPath_host (s : State) (b w p : Nat) (f : Path → Path) : (s.modPath b w p f).host = s.host := rfl
@[simp] theorem State.modPath_fns (s : State) (b w p : Nat) (f : Path → Path) : (s.modPath b w p f).fns = s.fns := rfl
@[simp] theorem State.modPath_pkgs (s : State) (b w p : Nat) (f : Path → Path) : (s.modPath b w p f).pkgs = s.pkgs := rfl
@[simp] theorem State.modPath_clusters (s : State) (b w p : Nat) (f : Path → Path) : (s.modPath b w p f).clusters = s.clusters := rfl
@[simp] theorem State.modPath_cores (s : State) (b w p : Nat) (f : Path → Path) : (s.modPath b w p f).cores = s.cores := rfl
@[simp] theorem State.modPath_launches (s : State) (b w p : Nat) (f : Path → Path) : (s.modPath b w p f).launches = s.launches := rfl
@[simp] theorem State.modPath_copies (s : State) (b w p : Nat) (f : Path → Path) : (s.modPath b w p f).copies = s.copies := rfl
@[simp] theorem State.modPath_ctxids (s : State) (b w p : Nat) (f : Path → Path) : (s.modPath b w p f).ctxids = s.ctxids := rfl
@[simp] theorem State.modPath_badBytes (s : State) (b w p : Nat) (f : Path → Path) : (s.modPath b w p f).badBytes = s.badBytes := rfl

/-! ### `fresh` -/

@[simp] theorem State.fresh_tick (s : State) : (s.fresh).tick = s.tick := rfl
@[simp] theorem State.fresh_agenda (s : State) : (s.fresh).agenda = s.agenda := rfl
@[simp] theorem State.fresh_issuing (s : State) : (s.fresh).issuing = s.issuing := rfl
@[simp] theorem State.fresh_packed (s : State) : (s.fresh).packed = s.packed := rfl
@[simp] theorem State.fresh_packages (s : State) : (s.fresh).packages = s.packages := rfl
@[simp] theorem State.fresh_scratch (s : State) : (s.fresh).scratch = s.scratch := rfl
@[simp] theorem State.fresh_hbm (s : State) : (s.fresh).hbm = s.hbm := rfl
@[simp] theorem State.fresh_host (s : State) : (s.fresh).host = s.host := rfl
@[simp] theorem State.fresh_fns (s : State) : (s.fresh).fns = s.fns := rfl
@[simp] theorem State.fresh_pkgs (s : State) : (s.fresh).pkgs = s.pkgs := rfl
@[simp] theorem State.fresh_clusters (s : State) : (s.fresh).clusters = s.clusters := rfl
@[simp] theorem State.fresh_cores (s : State) : (s.fresh).cores = s.cores := rfl
@[simp] theorem State.fresh_launches (s : State) : (s.fresh).launches = s.launches := rfl
@[simp] theorem State.fresh_blocks (s : State) : (s.fresh).blocks = s.blocks := rfl
@[simp] theorem State.fresh_copies (s : State) : (s.fresh).copies = s.copies := rfl
@[simp] theorem State.fresh_ctxids (s : State) : (s.fresh).ctxids = s.ctxids := rfl
@[simp] theorem State.fresh_badBytes (s : State) : (s.fresh).badBytes = s.badBytes := rfl

/-! ### `due` -/

@[simp] theorem State.due_tick (s : State) (e : Instr) : (s.due e).tick = s.tick := rfl
@[simp] theorem State.due_serial (s : State) (e : Instr) : (s.due e).serial = s.serial := rfl
@[simp] theorem State.due_issuing (s : State) (e : Instr) : (s.due e).issuing = s.issuing := rfl
@[simp] theorem State.due_packed (s : State) (e : Instr) : (s.due e).packed = s.packed := rfl
@[simp] theorem State.due_packages (s : State) (e : Instr) : (s.due e).packages = s.packages := rfl
@[simp] theorem State.due_scratch (s : State) (e : Instr) : (s.due e).scratch = s.scratch := rfl
@[simp] theorem State.due_hbm (s : State) (e : Instr) : (s.due e).hbm = s.hbm := rfl
@[simp] theorem State.due_host (s : State) (e : Instr) : (s.due e).host = s.host := rfl
@[simp] theorem State.due_fns (s : State) (e : Instr) : (s.due e).fns = s.fns := rfl
@[simp] theorem State.due_pkgs (s : State) (e : Instr) : (s.due e).pkgs = s.pkgs := rfl
@[simp] theorem State.due_clusters (s : State) (e : Instr) : (s.due e).clusters = s.clusters := rfl
@[simp] theorem State.due_cores (s : State) (e : Instr) : (s.due e).cores = s.cores := rfl
@[simp] theorem State.due_launches (s : State) (e : Instr) : (s.due e).launches = s.launches := rfl
@[simp] theorem State.due_blocks (s : State) (e : Instr) : (s.due e).blocks = s.blocks := rfl
@[simp] theorem State.due_copies (s : State) (e : Instr) : (s.due e).copies = s.copies := rfl
@[simp] theorem State.due_ctxids (s : State) (e : Instr) : (s.due e).ctxids = s.ctxids := rfl
@[simp] theorem State.due_badBytes (s : State) (e : Instr) : (s.due e).badBytes = s.badBytes := rfl

/-! ### `logEvent` -/

@[simp] theorem State.logEvent_tick (s : State) (n : Nat) (e : LogEvent) : (s.logEvent n e).tick = s.tick := rfl
@[simp] theorem State.logEvent_serial (s : State) (n : Nat) (e : LogEvent) : (s.logEvent n e).serial = s.serial := rfl
@[simp] theorem State.logEvent_agenda (s : State) (n : Nat) (e : LogEvent) : (s.logEvent n e).agenda = s.agenda := rfl
@[simp] theorem State.logEvent_issuing (s : State) (n : Nat) (e : LogEvent) : (s.logEvent n e).issuing = s.issuing := rfl
@[simp] theorem State.logEvent_packed (s : State) (n : Nat) (e : LogEvent) : (s.logEvent n e).packed = s.packed := rfl
@[simp] theorem State.logEvent_packages (s : State) (n : Nat) (e : LogEvent) : (s.logEvent n e).packages = s.packages := rfl
@[simp] theorem State.logEvent_scratch (s : State) (n : Nat) (e : LogEvent) : (s.logEvent n e).scratch = s.scratch := rfl
@[simp] theorem State.logEvent_hbm (s : State) (n : Nat) (e : LogEvent) : (s.logEvent n e).hbm = s.hbm := rfl
@[simp] theorem State.logEvent_host (s : State) (n : Nat) (e : LogEvent) : (s.logEvent n e).host = s.host := rfl
@[simp] theorem State.logEvent_fns (s : State) (n : Nat) (e : LogEvent) : (s.logEvent n e).fns = s.fns := rfl
@[simp] theorem State.logEvent_clusters (s : State) (n : Nat) (e : LogEvent) : (s.logEvent n e).clusters = s.clusters := rfl
@[simp] theorem State.logEvent_cores (s : State) (n : Nat) (e : LogEvent) : (s.logEvent n e).cores = s.cores := rfl
@[simp] theorem State.logEvent_launches (s : State) (n : Nat) (e : LogEvent) : (s.logEvent n e).launches = s.launches := rfl
@[simp] theorem State.logEvent_blocks (s : State) (n : Nat) (e : LogEvent) : (s.logEvent n e).blocks = s.blocks := rfl
@[simp] theorem State.logEvent_copies (s : State) (n : Nat) (e : LogEvent) : (s.logEvent n e).copies = s.copies := rfl
@[simp] theorem State.logEvent_ctxids (s : State) (n : Nat) (e : LogEvent) : (s.logEvent n e).ctxids = s.ctxids := rfl
@[simp] theorem State.logEvent_badBytes (s : State) (n : Nat) (e : LogEvent) : (s.logEvent n e).badBytes = s.badBytes := rfl

/-! ### Keyed lists -/

@[simp] theorem alook_aput {α : Type} (k : Nat) (v : α) (xs : List (Nat × α)) : alook k (aput k v xs) = some v := by
  induction xs with
  | nil => simp [aput, alook]
  | cons x xs ih => rcases x with ⟨j, y⟩; by_cases h : j = k <;> simp [aput, alook, h, ih]

theorem alook_aput_ne {α : Type} {k j : Nat} (v : α) (xs : List (Nat × α)) (h : j ≠ k) : alook j (aput k v xs) = alook j xs := by
  induction xs with
  | nil => simp [aput, alook, Ne.symm h]
  | cons x xs ih =>
    rcases x with ⟨i, y⟩
    by_cases hi : i = k
    · subst hi; simp [aput, alook, Ne.symm h]
    · by_cases hj : i = j
      · subst hj; simp [aput, alook, hi]
      · simp [aput, alook, hi, hj, ih]

@[simp] theorem State.fn_setFn (s : State) (n : Nat) (f : Fn) : (s.setFn n f).fn n = f := by simp [State.fn, State.setFn]
@[simp] theorem State.pkg_setPkg (s : State) (n : Nat) (p : Package) : (s.setPkg n p).pkg n = p := by simp [State.pkg, State.setPkg]
@[simp] theorem State.cluster_setCluster (s : State) (n : Nat) (c : Cluster) : (s.setCluster n c).cluster n = c := by
  simp [State.cluster, State.setCluster]
@[simp] theorem State.core_setCore (s : State) (n : Nat) (c : CoreSt) : (s.setCore n c).core n = c := by
  simp [State.core, State.setCore]
@[simp] theorem State.ctx_modCtx (s : State) (fn slot : Nat) (f : Ctx → Ctx) : (s.modCtx fn slot f).ctx fn slot = f (s.ctx fn slot) := by
  simp [State.ctx, State.modCtx]
@[simp] theorem State.core_modCore (s : State) (n : Nat) (f : CoreSt → CoreSt) : (s.modCore n f).core n = f (s.core n) := by
  simp [State.modCore]
@[simp] theorem State.pkg_modPkg (s : State) (n : Nat) (f : Package → Package) : (s.modPkg n f).pkg n = f (s.pkg n) := by
  simp [State.modPkg]
@[simp] theorem State.cluster_modCluster (s : State) (n : Nat) (f : Cluster → Cluster) : (s.modCluster n f).cluster n = f (s.cluster n) := by
  simp [State.modCluster]

theorem State.fn_setFn_ne (s : State) {n k : Nat} (f : Fn) (h : k ≠ n) : (s.setFn n f).fn k = s.fn k := by
  simp [State.fn, State.setFn, alook_aput_ne f s.fns h]
theorem State.pkg_setPkg_ne (s : State) {n k : Nat} (p : Package) (h : k ≠ n) : (s.setPkg n p).pkg k = s.pkg k := by
  simp [State.pkg, State.setPkg, alook_aput_ne p s.pkgs h]
theorem State.cluster_setCluster_ne (s : State) {n k : Nat} (c : Cluster) (h : k ≠ n) : (s.setCluster n c).cluster k = s.cluster k := by
  simp [State.cluster, State.setCluster, alook_aput_ne c s.clusters h]
theorem State.core_setCore_ne (s : State) {n k : Nat} (c : CoreSt) (h : k ≠ n) : (s.setCore n c).core k = s.core k := by
  simp [State.core, State.setCore, alook_aput_ne c s.cores h]

/-! ### Blocks, warps, paths -/

theorem find_map_key {α : Type} (key : α → Nat) (k : Nat) (f : α → α) (hf : ∀ x, key (f x) = key x) (xs : List α) :
    (xs.map fun x => if key x = k then f x else x).find? (fun x => key x == k) = (xs.find? fun x => key x == k).map f := by
  induction xs with
  | nil => rfl
  | cons x xs ih =>
    by_cases h : key x = k
    · simp [h, hf]
    · simp [h, ih]

theorem State.block?_modBlock (s : State) (b : Nat) (f : Block → Block) (hf : ∀ x, (f x).id = x.id) :
    (s.modBlock b f).block? b = (s.block? b).map f := find_map_key Block.id b f hf s.blocks

theorem State.launch?_modLaunch (s : State) (n : Nat) (f : Launch → Launch) (hf : ∀ x, (f x).id = x.id) :
    (s.modLaunch n f).launch? n = (s.launch? n).map f := find_map_key Launch.id n f hf s.launches

theorem Block.find_modWarp (b : Block) (i : Nat) (f : Warp → Warp) (hf : ∀ x, (f x).idx = x.idx) :
    (b.modWarp i f).warps.find? (·.idx == i) = (b.warps.find? (·.idx == i)).map f := find_map_key Warp.idx i f hf b.warps

theorem Warp.path?_modPath (w : Warp) (i : Nat) (f : Path → Path) (hf : ∀ x, (f x).id = x.id) :
    (w.modPath i f).path? i = (w.path? i).map f := find_map_key Path.id i f hf w.paths

end Sys2Proof.Machine
end

