-- ==== Sys2Proof/Laws/Ops.lean ====
section
/-! SUPPORT. What each shared operation can do, said once: the frame of an instruction, a lane operation, a kill, an error. -/

namespace Sys2Proof.Machine

open Sys2Proof

/-! ### The frame of an instruction -/

/-- Outside R201, and where a saggar launch compares it with its pairs agreeing (R258), an instruction answers its body's state, or
how it fails. -/
theorem issue_next {i : Instr} {s : State} {c : Cx} (body : Cx → Except Stop State) (h : s.cx = some c)
    (hn : (notxInstr i && c.inTx) = false) (hp : c.compares i = false ∨ Config.pairsAgree c.s.tick = true) :
    issue i s body = .next (match body (c.begun i) with | .ok t => t | .error e => (c.begun i).fail i body e) := by
  by_cases hc : c.compares i = true
  · have hp : Config.pairsAgree c.s.tick = true := hp.resolve_left (by simp [hc])
    simp only [issue, h, hn, hc, State.compared, hp, Cx.begun, if_true, Bool.false_eq_true, if_false]
    cases body { c with s := { c.s with tick := c.s.tick + 1 } } <;> rfl
  · have hc : c.compares i = false := by simpa using hc
    simp only [issue, h, hn, hc, Cx.begun, Bool.false_eq_true, if_false]
    cases body c <;> rfl

/-- A compared instruction that would complete, with pairs that disagree, performs nothing, and its block recovers (R258, R261). -/
theorem issue_disagree {i : Instr} {s t : State} {c : Cx} (body : Cx → Except Stop State) (h : s.cx = some c)
    (hn : (notxInstr i && c.inTx) = false) (hc : c.compares i = true) (hp : Config.pairsAgree c.s.tick = false)
    (hb : body (c.begun i) = .ok t) : issue i s body = .next (c.s.compared.2.stalled.consume c.b) := by
  simp only [Cx.begun, hc, if_true] at hb
  simp only [issue, h, hn, hc, State.compared, hp, if_true, Bool.false_eq_true, if_false] at hb ⊢
  rw [hb]

/-- An instruction that R201 names aborts an open transaction before anything else. -/
theorem issue_notx {i : Instr} {s : State} {c : Cx} (body : Cx → Except Stop State) (h : s.cx = some c)
    (hn : (notxInstr i && c.inTx) = true) :
    issue i s body = .next (c.stop i (.abort 4 ((encodePair i).1.fld 24 8).toNat)) := by
  simp [issue, h, hn]

/-- An instruction with an issuing path answers a next state. -/
theorem issue_answers (i : Instr) {s : State} (body : Cx → Except Stop State) (h : s.cx.isSome = true) :
    ∃ t, issue i s body = .next t := by
  cases hc : s.cx with
  | none => simp [hc] at h
  | some c =>
    simp only [issue, hc]
    split
    · exact ⟨_, rfl⟩
    · split
      · cases body { c with s := c.s.compared.2 } <;> exact ⟨_, rfl⟩
      · cases body c <;> exact ⟨_, rfl⟩

/-- The state of an issuing path's context is the state itself. -/
theorem State.cxOf_state {s : State} {b w p : Nat} {c : Cx} (h : s.cxOf b w p = some c) : c.s = s ∧ c.b = b ∧ c.w = w ∧ c.pid = p := by
  simp only [State.cxOf] at h
  split at h
  · simp at h
  · split at h
    · injection h with h; subst h; exact ⟨rfl, rfl, rfl, rfl⟩
    · simp at h

theorem State.cx_state {s : State} {c : Cx} (h : s.cx = some c) : c.s = s := by
  simp only [State.cx] at h
  split at h
  · simp at h
  · exact (State.cxOf_state h).1

/-! ### Lane operations -/

/-- A lane operation whose checks pass and in which no lane acts only retires. -/
theorem runLane_idle {i : Instr} {c : Cx} {m : Sem} (hr : LaneReady c m) (ha : c.acting m.guard = 0#64) :
    runLane i m c = .ok (c.advance (c.endWaits c.s) m.words) := by
  simp [runLane, hr.1, hr.2.1, hr.2.2.1, ha, bind, Except.bind]
  exact fun h => by simp [hr.2.2.2 h]

/-- A lane operation that finds its key, and may bind to it, binds. -/
theorem runLane_hit {i : Instr} {c : Cx} {m : Sem} {k : KeyRec} (hr : LaneReady c m)
    (ha : c.acting m.guard ≠ 0#64) (hk : c.laneHit m = some k) (hb : c.bindable k = true) :
    runLane i m c = .ok (c.advance (c.endWaits (c.bind c.s k (c.dests m) (c.raises m) m.lat.isNone)) m.words) := by
  simp only [Cx.laneHit] at hk
  simp [runLane, hr.1, hr.2.1, hr.2.2.1, ha, hk, hb, require, bind, Except.bind]
  exact fun h => by simp [hr.2.2.2 h]

/-- A lane operation that finds no key, and that nothing delays, finishes its lanes. -/
theorem runLane_miss {i : Instr} {c : Cx} {m : Sem} (hr : LaneReady c m)
    (ha : c.acting m.guard ≠ 0#64) (hk : c.laneHit m = none) (hf : LaneFree c m) :
    runLane i m c = .ok (c.finishLane i m (if c.looksUp m then some (c.keyOf m) else none) (c.dests m)
      (c.destValues (c.dests m) m.dst.pair (c.acting m.guard) (m.f (c.args m))) (c.laneFlags m) (c.raises m)) := by
  obtain ⟨h1, h2, h3⟩ := hf
  simp only [Cx.laneHit] at hk
  have h1' : (m.sfu == 0 || c.sfuFree) = true := by simpa using h1
  have hl : c.laneRes m = m.f (c.args m) := rfl
  have h5 : (c.acting m.guard == 0#64) = false := by simpa using ha
  have h3' : (c.raises m && c.laneFlags m &&& c.l.fptrap != 0#32) = false := by
    rcases h3 with h3 | h3 <;> simp [h3]
  simp only [Cx.laneFlags, hl] at h3' ⊢
  simp only [runLane, hr.1, hr.2.1, hr.2.2.1, h5, hk, bind, Except.bind, require, h1']
  by_cases hd : m.readsDst = true <;> rcases h2 with h2 | h2
  · simp [hd, hr.2.2.2 hd, h2, h3']
  · simp [hd, hr.2.2.2 hd, h2, h3']
  · simp [hd, h2, h3']
  · simp [hd, h2, h3']

/-! ### Kills and errors -/

/-- Freeing in nobody's name changes no block. -/
theorem State.sweep_blocks (s : State) (core : Nat) (keep : List Nat) : (s.sweep core none keep).blocks = s.blocks := by
  simp only [State.sweep]; split <;> rfl

/-- Loads that wait for an entry no more change their warps only. -/
theorem State.unbind_blocks (s : State) (eid : Nat) :
    (s.unbind eid).blocks.map (fun b => { b with warps := [] }) = s.blocks.map fun b => { b with warps := [] } := by
  simp [State.unbind, Function.comp_def]

/-- The same for several entries. -/
theorem State.unbinds_blocks : ∀ (ids : List Nat) (s : State),
    (ids.foldl State.unbind s).blocks.map (fun b => { b with warps := [] }) = s.blocks.map fun b => { b with warps := [] }
  | [], _ => rfl
  | e :: es, s => by rw [List.foldl_cons, State.unbinds_blocks es, State.unbind_blocks]

/-- Abandoning entries changes, of the blocks, the pending accesses of their warps only. -/
theorem State.abandon_blocks (s : State) (core : Nat) (f : Entry → Bool) :
    (s.abandon core f).blocks.map (fun b => { b with warps := [] }) = s.blocks.map fun b => { b with warps := [] } := by
  simp only [State.abandon]
  split
  · rfl
  · rw [State.sweep_blocks, State.modCore_blocks, State.unbinds_blocks]

/-- An error rolls a block back to its checkpoint, or kills it with its span. -/
theorem State.consume_cases (s : State) (b : Nat) :
    (∃ k, (s.block b).ended = false ∧ (s.block b).ck = some k ∧ (s.block b).eligible = true ∧ (s.block b).rollbacks < 4 ∧ s.consume b = s.rollback b k) ∨
    s.consume b = (s.modLaunch (s.block b).launch fun l => { l with spanLost := true }).kill b := by
  simp only [State.consume]
  split
  · rename_i k hk
    split
    · rename_i h
      simp only [Bool.and_eq_true, decide_eq_true_eq] at h
      refine .inl ⟨k, ?_, ?_, h.1, h.2, rfl⟩ <;> cases he : (s.block b).ended <;> simp_all
    · exact .inr rfl
  · exact .inr rfl

/-- A production that is not known, or no longer pending, stays; a known one becomes ready, a lineage-bearing one of a saggar launch when
its pairs agree; else it is abandoned and its producer's block recovers (R55, R258). -/
theorem State.complete_cases (s : State) (core id : Nat) :
    s.complete core id = s ∨ ∃ e, (s.core core).entry? id = some e ∧ e.st = .pending ∧ e.known = true ∧
      let compares := e.bearing || e.key.any (·.saggar)
      ((compares = false ∧ s.complete core id = s.makeReady core e false) ∨
       (compares = true ∧ Config.pairsAgree s.tick = true ∧ s.complete core id = s.compared.2.makeReady core e true) ∨
       (compares = true ∧ Config.pairsAgree s.tick = false ∧
         s.complete core id = (s.compared.2.abandon core fun x => x.eid == id).consume e.producer.block)) := by
  simp only [State.complete]
  split
  · exact .inl rfl
  · rename_i e he
    split
    · exact .inl rfl
    · rename_i hp
      have hp' : e.st = .pending ∧ e.known = true := by
        constructor <;> (cases h1 : e.st <;> cases h2 : e.known <;> simp_all)
      refine .inr ⟨e, he, hp'.1, hp'.2, ?_⟩
      cases hs : e.bearing || e.key.any (·.saggar) <;> cases ha : Config.pairsAgree s.tick <;> simp [State.compared, ha]

/-- A delivered trap joins the warp's deliveries; one for a warp that has exited kills its block. -/
theorem State.deliverTrap_cases (s : State) (b w : Nat) (d : Delivery) :
    ((s.warp b w).exited = true ∧ s.deliverTrap b w d = s.kill b) ∨
    ((s.warp b w).exited = false ∧ s.deliverTrap b w d = s.modWarp b w fun x => { x with deliver := x.deliver ++ [d] }) := by
  simp only [State.deliverTrap]
  cases h : (s.warp b w).exited <;> simp

/-! ### Trying an instruction -/

/-- An instruction of a program is tried as it is executed. -/
theorem tryInstr_eq_exec {i : Instr} (h : isEvent i = false) : tryInstr i = exec i := by
  cases i <;> first | exact absurd (show true = false from h) (by decide) | rfl

/-- The ready paths are among those that were looked at. -/
theorem readyOf_sublist : ∀ (xs : List Cand) (s : State), (readyOf xs s).1.Sublist xs
  | [], _ => .slnil
  | x :: xs, s => by
    simp only [readyOf]
    split
    · exact (readyOf_sublist xs _).cons x
    · exact (readyOf_sublist xs s).cons_cons x

/-- A path that stalls is noted as tried: device memory, packages and launches are as before. -/
theorem Cand.halts_frame (x : Cand) (s t : State) : let u := x.halts s t
    u.scratch = s.scratch ∧ u.hbm = s.hbm ∧ u.host = s.host ∧ u.fns = s.fns ∧ u.pkgs = s.pkgs ∧ u.launches = s.launches ∧ u.copies = s.copies ∧
    u.issuing = s.issuing ∧ u.packed = s.packed := ⟨rfl, rfl, rfl, rfl, rfl, rfl, rfl, rfl, rfl⟩

/-- What a stall leaves is all that trying a path changes. -/
theorem Cand.stalls_halts {x : Cand} {s u : State} (h : x.stalls s = some u) : ∃ t, u = x.halts s t := by
  simp only [Cand.stalls] at h
  split at h
  · simp at h
  · split at h
    · split at h
      · exact ⟨_, (Option.some.inj h).symm⟩
      · simp at h
    · simp at h
  · simp at h

/-! ### Management and commands -/

@[simp] theorem State.answer_pkg (s : State) (pkg code : Nat) (ws : List Nat) : (s.answer pkg code ws).pkg pkg = (s.pkg pkg).say code ws := by
  simp [State.answer, Package.say]

/-- A management command on a package that exists answers the state after its effect. -/
theorem State.onPkg_next (s : State) {pkg : Nat} (f : State → State) (h : pkg < s.packages) : s.onPkg pkg f = .next (f s) := by
  simp [State.onPkg, h]

/-- Each of several answers is appended in turn. -/
theorem State.answers_pkg (s : State) (pkg code n : Nat) :
    (s.answers pkg code n).pkg pkg = (List.range n).foldl (fun p _ => p.say code) (s.pkg pkg) := by
  unfold State.answers
  generalize List.range n = xs
  induction xs generalizing s with
  | nil => rfl
  | cons x xs ih => simp [ih]

/-- The command at the head of a ring, when it is the one that an event names. -/
theorem State.command_next {s : State} {fn op : Nat} {ws : List Word} (f : Nat → List Word → State) (h : s.nextCmd fn = some ws)
    (ho : cmdOp ws = op) (hp : cmdPlain ws = true) : s.command fn op f = .next (f (cmdSlot ws) ws) := by
  simp [State.command, h, ho, hp]

/-! ### Release buffers and translation buffers -/

/-- A write takes its place among buffered ones, and each of them stays (R260). -/
theorem insertReleased_perm (x : Buffered) (ys : List Buffered) : (insertReleased x ys).Perm (x :: ys) := by
  have h := List.takeWhile_append_dropWhile (p := fun (y : Buffered) =>
    decide (x.warp < y.warp)) (l := ys.reverse)
  refine List.perm_middle.trans (.cons x ?_)
  rw [← List.reverse_append, h, List.reverse_reverse]

/-- The order in which a release buffer is performed has each of its writes once (R260). -/
theorem releaseOrder_perm (xs : List Buffered) : (releaseOrder xs).Perm xs := by
  have h : ∀ (xs ys : List Buffered), (xs.foldl (fun ys x => insertReleased x ys) ys).Perm (xs ++ ys) := by
    intro xs
    induction xs with
    | nil => exact fun ys => .refl ys
    | cons x xs ih => exact fun ys => (ih _).trans ((List.Perm.append_left xs (insertReleased_perm x ys)).trans List.perm_middle)
  simpa [releaseOrder] using h xs []

/-- A path in another state is of the same block. -/
theorem Cx.at_b (c : Cx) (s : State) : (c.at s).b = c.b := by
  unfold Cx.at
  cases h : s.cxOf c.b c.w c.pid with
  | none => rfl
  | some d => exact (State.cxOf_state h).2.1

/-- The block's own bytes are read in the state that its release buffer has been performed in, where it holds some of them; none of them
is poisoned then (R49, R182, R261). -/
theorem Cx.ownReady_ok {c c1 : Cx} {x n : Nat} (h : c.ownReady x n = .ok c1) :
    let own := c.blk.buffers (.shared c.b) x n
    c1 = (if own then c.at (c.s.flushNow c.b) else c) ∧ (own = true → c.s.flushClear c.core = true) ∧ c1.s.sharedBad c.b x n = false := by
  have hb (d : Cx) (g : (require (!d.s.sharedBad d.b x n) .lost).bind (fun _ => Except.ok d) = .ok c1) : d = c1 ∧ d.s.sharedBad d.b x n = false := by
    cases hd : d.s.sharedBad d.b x n <;> simp_all [require, Except.bind]
  unfold Cx.ownReady at h
  cases ho : c.blk.buffers (.shared c.b) x n <;> cases hf : c.s.flushClear c.core <;> simp only [ho, hf] at h ⊢
  · obtain ⟨rfl, g⟩ := hb c h
    exact ⟨rfl, by simp, g⟩
  · obtain ⟨rfl, g⟩ := hb c h
    exact ⟨rfl, by simp, g⟩
  · simp [require, Bind.bind, Except.bind] at h
  · obtain ⟨rfl, g⟩ := hb (c.at (c.s.flushNow c.b)) h
    exact ⟨rfl, fun _ => trivial, by rwa [Cx.at_b] at g⟩

/-- An engine's image is free of other holds, and read as the block's own bytes are. -/
theorem Cx.imageReady_ok {c c1 : Cx} {x n : Nat} (h : c.imageReady x n = .ok c1) : c.imageFree x n = .ok () ∧ c.ownReady x n = .ok c1 := by
  unfold Cx.imageReady at h
  cases hf : c.imageFree x n <;> simp_all [Bind.bind, Except.bind]

/-- A core's stack cache never outgrows its room (R1), and holds the byte that has come in. -/
theorem State.stackKeep_room {s : State} {core b w off : Nat} (h : (s.core core).stackCache.length ≤ stackRoom) :
    ((s.stackKeep core b w off).core core).stackCache.length ≤ stackRoom ∧ (b, w, off) ∈ ((s.stackKeep core b w off).core core).stackCache := by
  simp only [State.stackKeep]
  split
  · rename_i hc
    exact ⟨h, by simpa using hc⟩
  · split
    · rename_i hr
      exact ⟨by simpa using Nat.succ_le_of_lt hr, by simp⟩
    · rename_i hr
      refine ⟨?_, by simp⟩
      have hn : (s.core core).stackCache.length = stackRoom := by omega
      have : Config.evictStack s.tick % stackRoom < stackRoom := Nat.mod_lt _ (by decide)
      simp only [State.core_modCore, List.length_cons, List.length_eraseIdx, hn, this, if_true]
      omega

/-- Noting a frame that a context reaches changes no memory. -/
theorem State.notePage_bytes (s : State) (fn slot : Nat) (l : Leaf) :
    (s.notePage fn slot l).scratch = s.scratch ∧ (s.notePage fn slot l).hbm = s.hbm ∧ (s.notePage fn slot l).blocks = s.blocks := by
  unfold State.notePage
  split <;> exact ⟨rfl, rfl, rfl⟩

/-- A leaf that a translation buffer gives is that of an entry which holds the address (R233). -/
theorem tlbFind_covers {tlb : List TlbEntry} {u : TlbUnit} {va : Nat} {l : Leaf} (h : tlbFind tlb u va = some l) :
    ∃ e ∈ tlb, e.unit = u ∧ e.base ≤ va ∧ va < e.base + e.size ∧ e.leaf? = some l := by
  obtain ⟨e, he, hl⟩ := Option.bind_eq_some_iff.mp h
  have hp := List.find?_some he
  simp only [Bool.and_eq_true, beq_iff_eq, decide_eq_true_eq] at hp
  exact ⟨e, List.mem_of_find?_eq_some he, hp.1.1, hp.1.2, hp.2, hl⟩

/-- Room in a translation buffer that is not full costs no entry (R233). -/
theorem State.tlbRoom_of_room {s : State} {u : TlbUnit} (h : (s.tlbOf u).length < u.size) : s.tlbRoom u = s := by
  simp [State.tlbRoom, h]

end Sys2Proof.Machine
end

