-- ==== Sys2Proof/Laws/Search.lean ====
section
/-! SUPPORT. The search for an unused identity (R275, R276) finds one while there is one. -/

namespace Sys2Proof.Machine

/-- Fewer numbers in use than there are: the search finds one, in range and not in use. -/
theorem unused_some (k n : Nat) (used : List Nat) (h : used.length < n) :
    ∃ x, unused k n used = some x ∧ 0 < x ∧ x ≤ n ∧ x ∉ used := by
  have hn : 0 < n := by omega
  have inj : ∀ i j, i < n → j < n → (k + i) % n = (k + j) % n → i = j := by
    intro i j hi hj e
    have : i ≡ j [MOD n] := Nat.ModEq.add_left_cancel' k e
    exact Nat.ModEq.eq_of_lt_of_lt this hi hj
  cases hf : unused k n used with
  | some x =>
    have hx := List.find?_some hf
    have hm := List.mem_of_find?_eq_some hf
    obtain ⟨i, -, rfl⟩ := List.mem_map.1 hm
    have := Nat.mod_lt (k + i) hn
    exact ⟨_, rfl, by omega, by omega, by simpa using hx⟩
  | none =>
    exfalso
    have nd : ((List.range (used.length + 1)).map fun i => (k + i) % n + 1).Nodup := by
      refine List.Nodup.map_on ?_ List.nodup_range
      intro a ha b hb e
      simp only [List.mem_range] at ha hb
      exact inj a b (by omega) (by omega) (by omega)
    have sub : ((List.range (used.length + 1)).map fun i => (k + i) % n + 1) ⊆ used := by
      intro x hx
      have := List.find?_eq_none.1 hf x hx
      simpa using this
    have := (nd.subperm sub).length_le
    simp at this

end Sys2Proof.Machine
end

