-- ==== Sys2Proof/Tests/Slice0.lean ====
section
/-! SUPPORT. Tests: ill-formed instructions are refused, the words of the spec decode to their instructions, single steps give
the values that hand calculation from the rules gives, and every statement that has hypotheses has a witness that meets them. -/

namespace Sys2Proof.Tests

open Sys2Proof Sys2Proof.Machine

/-! ### Well-formedness -/

/-- Two-word and branch forms with a guard (part 1). -/
def badGuards1 (bad : Guard) : List Instr :=
  [.acopy default default default default default bad, .actv { (default : L2u) with g := bad } default default, .andLong { (default : L2) with g := bad },
   .atom default default .s32 default default default default default bad, .bfi { (default : L3) with g := bad }, .bfx { (default : L3) with g := bad } default,
   .binit default default default bad, .bra default { (default : Br) with g := bad }, .brevLong { (default : L2u) with g := bad },
   .call { (default : Br) with g := bad }, .chload default { (default : L2a) with g := bad }, .chrun { (default : L3) with g := bad } default,
   .ckick default default default bad, .clzLong { (default : L2u) with g := bad }, .cosLong { (default : L2u) with g := bad } default,
   .cvt { (default : L2u) with g := bad } default default default, .cwait { (default : L2a) with g := bad }, .dadd { (default : L2) with g := bad } default,
   .declw default default default bad, .dfma { (default : L3) with g := bad } default, .exp2Long { (default : L2u) with g := bad } default,
   .faddLong { (default : L2) with g := bad } default, .fclass { (default : L2u) with g := bad } default, .fcmp { (default : L2) with g := bad } default default,
   .ffma { (default : L3) with g := bad } default, .fmaxLong { (default : L2) with g := bad } default, .fminLong { (default : L2) with g := bad } default,
   .fmulLong { (default : L2) with g := bad } default, .frnd { (default : L2u) with g := bad } default default default, .fsubLong { (default : L2) with g := bad } default,
   .getsr default default bad, .glaze default default default default bad, .halfmad { (default : L3) with g := bad } default default,
   .iabsLong { (default : L2u) with g := bad } default, .iaddLong { (default : L2) with g := bad } default, .iaddc default default default default default bad,
   .icmp { (default : L2) with g := bad } default default, .imad { (default : L3) with g := bad } default, .imadw { (default : L3) with g := bad } default,
   .imaxLong { (default : L2) with g := bad } default, .iminLong { (default : L2) with g := bad } default, .imulLong { (default : L2) with g := bad } default,
   .imulhiLong { (default : L2) with g := bad } default, .isubLong { (default : L2) with g := bad } default, .isubb default default default default default bad,
   .ldLong default default default { (default : L2u) with g := bad } default, .ldact default { (default : L2a) with g := bad }, .lea { (default : L3) with g := bad } default,
   .log2Long { (default : L2u) with g := bad } default, .logic3 { (default : L3) with g := bad } default, .ltag default default bad]

/-- R101: G = 7 with GN = 1 is no guard (part 1). -/
theorem test_wf_guard_1 :
    (badGuards1 { p := 7, neg := true }).all (fun i => !i.wf) = true ∧ (badGuards1 Guard.always).all (fun i => i.wf) = true := by decide

/-- Two-word and branch forms with a guard (part 2). -/
def badGuards2 (bad : Guard) : List Instr :=
  [.ltag default default bad, .matchLanes { (default : L2u) with g := bad } default default, .meet { (default : Br) with g := bad },
   .mma { (default : L2a) with g := bad }, .movLong { (default : L2u) with g := bad } default, .mrd { (default : L2u) with g := bad } default,
   .orLong { (default : L2) with g := bad }, .plop default default default default bad, .pmov default { (default : L2u) with g := bad },
   .popcLong { (default : L2u) with g := bad }, .qfeat default bad, .qswz { (default : L2) with g := bad } default,
   .rcpLong { (default : L2u) with g := bad } default, .red default default .s32 default { (default : L2ab) with g := bad }, .redux { (default : L2u) with g := bad } default,
   .rng default default bad, .rsqLong { (default : L2u) with g := bad } default, .sarLong { (default : L2) with g := bad } default,
   .scan { (default : L2u) with g := bad } default default, .sel { (default : L3) with g := bad } default, .setsr default { (default : L2a) with g := bad },
   .shfl { (default : L2) with g := bad } default default, .shlLong { (default : L2) with g := bad } default, .shrLong { (default : L2) with g := bad } default,
   .sinLong { (default : L2u) with g := bad } default, .sqrtLong { (default : L2u) with g := bad } default, .stLong default default default { (default : L2ab) with g := bad } default,
   .tanhLong { (default : L2u) with g := bad } default, .tcopy default { (default : L3) with g := bad }, .vote default default default bad,
   .wadd default default { (default : L2ab) with g := bad }, .waitaddr default default default { (default : L2) with g := bad }, .wake default { (default : L2a) with g := bad },
   .wcfg default default bad, .wcut default { (default : L2u) with g := bad }, .wfind default { (default : L2u) with g := bad },
   .wget default { (default : L2u) with g := bad }, .wload default { (default : L2a) with g := bad }, .wpre default { (default : L2u) with g := bad },
   .wsave default { (default : L2a) with g := bad }, .wset default default { (default : L2ab) with g := bad }, .wsum default default bad,
   .xorLong { (default : L2) with g := bad }]

/-- R101: G = 7 with GN = 1 is no guard (part 2). -/
theorem test_wf_guard_2 :
    (badGuards2 { p := 7, neg := true }).all (fun i => !i.wf) = true ∧ (badGuards2 Guard.always).all (fun i => i.wf) = true := by decide

/-- R102, R104, R302, R378: the other combinations that no encoding holds, and a well-formed neighbour of each. -/
theorem test_wf_fields :
    [Instr.acopy .inn false (.v 1) (.v 2) (.v 3) Guard.always, .atom .add .sh .b32 .plain (.v 1) (.v 2) (.v 3) (.v 0) Guard.always,
     .atom .min .sh .f32 .plain (.v 1) (.v 2) (.v 3) (.v 0) Guard.always, .atom .and .sh .s32 .plain (.v 1) (.v 2) (.v 3) (.v 0) Guard.always,
     .atom .add .sh .s32 .plain (.v 1) (.v 2) (.v 3) (.v 4) Guard.always, .red .or .sh .u32 false default,
     .glaze .swap 0 (.v 1) (.v 0) Guard.always, .glaze .rel 0 (.v 0) (.v 1) Guard.always,
     .redux default { op := .add, ty := .b32, rnd := .rne, ftz := false }, .redux default { op := .xor, ty := .s32, rnd := .rne, ftz := false },
     .redux default { op := .min, ty := .f32, rnd := .rtz, ftz := false }, .scan default { op := .add, ty := .s32, rnd := .rtz, ftz := false } false,
     .scan default { op := .add, ty := .u32, rnd := .rne, ftz := true } false, .tcopy { dir := .inn, done := .none, shadow := false } { (default : L3) with c := .v 1 },
     .tcopy { dir := .out, done := .none, shadow := true } default, .wset 0 (some 3) { (default : L2ab) with pb := .rot 1 }].all (fun i => !i.wf) = true ∧
    [Instr.acopy .inn true (.v 1) (.v 2) (.v 3) Guard.always, .atom .cas .sh .b32 .plain (.v 1) (.v 2) (.v 3) (.v 4) Guard.always,
     .red .or .sh .u64 false default, .glaze .reg 0 (.v 1) (.v 2) Guard.always, .redux default { op := .add, ty := .f32, rnd := .rtz, ftz := true },
     .tcopy { dir := .inn, done := .bar, shadow := true } { (default : L3) with c := .v 1 },
     .wset 0 none { (default : L2ab) with pb := .rot 1 }].all (fun i => i.wf) = true := by decide

/-- Events have no words: none is well formed. -/
theorem test_wf_events :
    [Instr.issueSelect 0 0, .deviceReset, .badop 0, .ctxcreate 0, .unknownCommand 0 0, .hostWrite .host 0 []].all (fun i => !i.wf && i.isEvent) = true := by
  decide

/-! ### Words of the spec -/

/-- Do the words decode to the instruction, and does it encode to them? -/
def readsAs (xs : List (Word × Word × Instr)) : Bool :=
  xs.all fun x => decide ((decodeWords x.1 x.2.1).toOption = some x.2.2) && (encode x.2.2 == if x.1.getLsbD 31 then [x.1, x.2.1] else [x.1])

/-- Words of the spec for `ABORT` to `CALL`. -/
theorem test_decode_abort_to_call : readsAs [
    (0x66000003, 0, .abort 3),
    (0xC7040600, 0x090002E0, .acopy .inn true (.v 4) (.v 6) (.v 9) Guard.always),
    (0xB4050402, 0x000090E0, .actv { d := .v 5, a := .v 4, pa := .ident, g := Guard.always } 2 false),
    (0x11341CCF, 0, .and { d := 26, a := 7, b := 25, g := 7 }),
    (0x911C06B1, 0x000000E0, .andLong { d := .v 28, a := .v 6, b := .const .i1, pa := .ident, pb := .ident, g := Guard.always }),
    (0xBF040109, 0x00000480, .atom .add .sh .s32 .plain (.v 4) (.v 1) (.v 9) (.v 0) { p := 4, neg := false }),
    (0x45000000, 0, .bar false),
    (0x99050102, 0x030000E0, .bfi { d := .v 5, a := .v 1, b := .v 2, c := .v 3, pa := .ident, g := Guard.always }),
    (0x98050102, 0x030020E0, .bfx { d := .v 5, a := .v 1, b := .v 2, c := .v 3, pa := .ident, g := Guard.always } .u32),
    (0xCA000102, 0x00000020, .binit (.v 1) (.v 2) .ident { p := 1, neg := false }),
    (0x68000000, 0, .bkpt 0),
    (0x5C180005, 0, .bra false { g := { p := 1, neg := true }, off := 5 }),
    (0x17040407, 0, .brev { d := 2, a := 1, g := 7 }),
    (0x97030100, 0x000000E0, .brevLong { d := .v 3, a := .v 1, pa := .ident, g := Guard.always }),
    (0x5D003007, 0, .brx 12 7),
    (0x5E70000A, 0, .call { g := Guard.always, off := 10 })] = true := by decide

/-- Words of the spec for `CHLOAD` to `EXP2_LONG`. -/
theorem test_decode_chload_to_exp2Long : readsAs [
    (0xD0010800, 0x000000E0, .chload 1 { a := .v 8, pa := .ident, g := Guard.always }),
    (0xD1090405, 0x060001E0, .chrun { d := .v 9, a := .v 4, b := .v 5, c := .v 6, pa := .ident, g := Guard.always } 1),
    (0xC80004B3, 0x000000E0, .ckick (.v 4) (.const .i4) .ident Guard.always),
    (0x16040407, 0, .clz { d := 2, a := 1, g := 7 }),
    (0x96030100, 0x000000E0, .clzLong { d := .v 3, a := .v 1, pa := .ident, g := Guard.always }),
    (0x65000007, 0, .commit),
    (0x32060807, 0, .cos { d := 3, a := 2, g := 7 }),
    (0xB2030100, 0x000092E0, .cosLong { d := .v 3, a := .v 1, pa := .ident, g := Guard.always } true),
    (0xAB080600, 0x000092E0, .cvt { d := .v 8, a := .v 6, pa := .ident, g := Guard.always } .rne .f32 .u32),
    (0xC9000100, 0x000000E0, .cwait { a := .v 1, pa := .ident, g := Guard.always }),
    (0xA8040002, 0x0000A0E0, .dadd { d := .v 4, a := .v 0, b := .v 2, pa := .ident, pb := .ident, g := Guard.always } { rnd := .rne, ftz := false }),
    (0xF1020406, 0x000000E0, .declw 2 (.v 4) (.v 6) Guard.always),
    (0xA9080002, 0x0400A0E0, .dfma { d := .v 8, a := .v 0, b := .v 2, c := .v 4, pa := .ident, g := Guard.always } { rnd := .rne, ftz := false }),
    (0x61000007, 0, .exit 7),
    (0x2F060807, 0, .exp2 { d := 3, a := 2, g := 7 }),
    (0xAF038200, 0x000092E0, .exp2Long { d := .v 3, a := .s 2, pa := .ident, g := Guard.always } true)] = true := by decide

/-- Words of the spec for `FADD` to `GETSR`. -/
theorem test_decode_fadd_to_getsr : readsAs [
    (0x1F060417, 0, .fadd { d := 3, a := 1, b := 2, g := 7 }),
    (0x9F030102, 0x000098E0, .faddLong { d := .v 3, a := .v 1, b := .v 2, pa := .ident, pb := .ident, g := Guard.always } { rnd := .rup, ftz := false }),
    (0xA6020100, 0x000090E0, .fclass { d := .v 2, a := .v 1, pa := .ident, g := Guard.always } .f32),
    (0xA5A20102, 0x00009AE0, .fcmp { d := .p 2, a := .v 1, b := .v 2, pa := .ident, pb := .ident, g := Guard.always } .f32 .ltu),
    (0x41000005, 0, .fence .rel .block),
    (0xA2040102, 0x030090E0, .ffma { d := .v 4, a := .v 1, b := .v 2, c := .v 3, pa := .ident, g := Guard.always } { rnd := .rne, ftz := false }),
    (0x24060417, 0, .fmax { d := 3, a := 1, b := 2, g := 7 }),
    (0xA4030102, 0x000092E0, .fmaxLong { d := .v 3, a := .v 1, b := .v 2, pa := .ident, pb := .ident, g := Guard.always } true),
    (0x23060417, 0, .fmin { d := 3, a := 1, b := 2, g := 7 }),
    (0xA3030102, 0x000092E0, .fminLong { d := .v 3, a := .v 1, b := .v 2, pa := .ident, pb := .ident, g := Guard.always } true),
    (0x21162057, 0, .fmul { d := 11, a := 8, b := 10, g := 7 }),
    (0xA1030102, 0x000092E0, .fmulLong { d := .v 3, a := .v 1, b := .v 2, pa := .ident, pb := .ident, g := Guard.always } { rnd := .rne, ftz := true }),
    (0xA7020100, 0x00009CE0, .frnd { d := .v 2, a := .v 1, pa := .ident, g := Guard.always } .f32 { rnd := .rdn, ftz := false } false),
    (0x20060417, 0, .fsub { d := 3, a := 1, b := 2, g := 7 }),
    (0xA0030102, 0x000092E0, .fsubLong { d := .v 3, a := .v 1, b := .v 2, pa := .ident, pb := .ident, g := Guard.always } { rnd := .rne, ftz := true }),
    (0xEB000000, 0x000004E0, .getsr (.v 0) 4 Guard.always)] = true := by decide

/-- Words of the spec for `GLAZE` to `IMUL`. -/
theorem test_decode_glaze_to_imul : readsAs [
    (0xCB000405, 0x000000E0, .glaze .reg 0 (.v 4) (.v 5) Guard.always),
    (0xAA040102, 0x0300B0E0, .halfmad { d := .v 4, a := .v 1, b := .v 2, c := .v 3, pa := .ident, g := Guard.always } .f16 { rnd := .rne, ftz := false }),
    (0x0B427C07, 0, .iabs { d := 33, a := 31, g := 7 }),
    (0x8B030100, 0x000010E0, .iabsLong { d := .v 3, a := .v 1, pa := .ident, g := Guard.always } .s32),
    (0x03060417, 0, .iadd { d := 3, a := 1, b := 2, g := 7 }),
    (0x83040002, 0x000040E0, .iaddLong { d := .v 4, a := .v 0, b := .v 2, pa := .ident, pb := .ident, g := Guard.always } .u64),
    (0x85040206, 0x000924E0, .iaddc (.v 4) (.v 2) (.v 6) .ident { cin := some 1, cout := 2 } Guard.always),
    (0x9AA10001, 0x000012E0, .icmp { d := .p 1, a := .v 0, b := .v 1, pa := .ident, pb := .ident, g := Guard.always } .s32 .lt),
    (0x42000007, 0, .ifence),
    (0x89050102, 0x030010E0, .imad { d := .v 5, a := .v 1, b := .v 2, c := .v 3, pa := .ident, g := Guard.always } .s32),
    (0x8A040001, 0x020026E0, .imadw { d := .v 4, a := .v 0, b := .v 1, c := .v 2, pa := .ident, g := Guard.always } 3),
    (0x0D060417, 0, .imax { d := 3, a := 1, b := 2, g := 7 }),
    (0x8D030102, 0x000020E0, .imaxLong { d := .v 3, a := .v 1, b := .v 2, pa := .ident, pb := .ident, g := Guard.always } .u32),
    (0x0C060417, 0, .imin { d := 3, a := 1, b := 2, g := 7 }),
    (0x8C030102, 0x000020E0, .iminLong { d := .v 3, a := .v 1, b := .v 2, pa := .ident, pb := .ident, g := Guard.always } .u32),
    (0x0708003F, 0, .imul { d := 4, a := 0, b := 7, g := 7 })] = true := by decide

/-- Words of the spec for `IMUL_LONG` to `LTAG`. -/
theorem test_decode_imulLong_to_ltag : readsAs [
    (0x87030102, 0x000020E0, .imulLong { d := .v 3, a := .v 1, b := .v 2, pa := .ident, pb := .ident, g := Guard.always } .u32),
    (0x080A0417, 0, .imulhi { d := 5, a := 1, b := 2, g := 7 }),
    (0x88030102, 0x000020E0, .imulhiLong { d := .v 3, a := .v 1, b := .v 2, pa := .ident, pb := .ident, g := Guard.always } .u32),
    (0x04081047, 0, .isub { d := 4, a := 4, b := 8, g := 7 }),
    (0x84030102, 0x000020E0, .isubLong { d := .v 3, a := .v 1, b := .v 2, pa := .ident, pb := .ident, g := Guard.always } .u32),
    (0x862F2822, 0x000028E0, .isubb (.v 47) (.v 40) (.v 34) .ident { cin := none, cout := 4 } Guard.always),
    (0x70000000, 0, .kstep),
    (0x3D142480, 0, .ld { d := 10, a := 9, off := 128 }),
    (0xBD0B0400, 0x000021E0, .ldLong .sp .b32 true { d := .v 11, a := .v 4, pa := .ident, g := Guard.always } 0),
    (0xB5020800, 0x000000E0, .ldact 2 { a := .v 8, pa := .ident, g := Guard.always }),
    (0x9C040206, 0xB30040E0, .lea { d := .v 4, a := .v 2, b := .v 6, c := .const .i4, pa := .ident, g := Guard.always } .u64),
    (0x30060807, 0, .log2 { d := 3, a := 2, g := 7 }),
    (0xB0030100, 0x000092E0, .log2Long { d := .v 3, a := .v 1, pa := .ident, g := Guard.always } true),
    (0x94050102, 0x0300CAE0, .logic3 { d := .v 5, a := .v 1, b := .v 2, c := .v 3, pa := .ident, g := Guard.always } 202),
    (0xE2000B01, 0x00000010, .loop 1 11 (.imm 16)),
    (0xF2030200, 0x000000E0, .ltag (.v 3) (.v 2) Guard.always)] = true := by decide

/-- Words of the spec for `MATCH` to `POPC_LONG`. -/
theorem test_decode_matchLanes_to_popcLong : readsAs [
    (0xBC060100, 0x000000E0, .matchLanes { d := .v 6, a := .v 1, pa := .ident, g := Guard.always } .b32 false),
    (0x4E000002, 0, .mclr 2),
    (0x60700006, 0, .meet { g := Guard.always, off := 6 }),
    (0xCC00B000, 0x00000020, .mma { a := .const .i0, pa := .ident, g := { p := 1, neg := false } }),
    (0x01122007, 0, .mov { d := 9, a := 8, g := 7 }),
    (0x81179F00, 0x000000E0, .movLong { d := .v 23, a := .s 31, pa := .ident, g := Guard.always } .b32),
    (0x820D0000, 0x0000000F, .movi (.v 13) 15),
    (0xCD0C0D00, 0x000000E0, .mrd { d := .v 12, a := .v 13, pa := .ident, g := Guard.always } 0),
    (0x4F1C0000, 0, .mwm 14 0),
    (0x67000007, 0, .nop),
    (0x1250A14F, 0, .or { d := 40, a := 40, b := 41, g := 7 }),
    (0x92030102, 0x000000E0, .orLong { d := .v 3, a := .v 1, b := .v 2, pa := .ident, pb := .ident, g := Guard.always }),
    (0x9DA3A1A2, 0x000008E0, .plop (.p 3) (.p 1) (.p 2) 8 Guard.always),
    (0x9E02A100, 0x000001E0, .pmov .tomask { d := .v 2, a := .p 1, pa := .ident, g := Guard.always }),
    (0x15040407, 0, .popc { d := 2, a := 1, g := 7 }),
    (0x95030100, 0x000000E0, .popcLong { d := .v 3, a := .v 1, pa := .ident, g := Guard.always })] = true := by decide

/-- Words of the spec for `QFEAT` to `SETSR`. -/
theorem test_decode_qfeat_to_setsr : readsAs [
    (0xEE020000, 0x000000E0, .qfeat (.v 2) Guard.always),
    (0xB8050102, 0x000000E0, .qswz { d := .v 5, a := .v 1, b := .v 2, pa := .ident, pb := .ident, g := Guard.always } .b32),
    (0x2C060807, 0, .rcp { d := 3, a := 2, g := 7 }),
    (0xAC030100, 0x000092E0, .rcpLong { d := .v 3, a := .v 1, pa := .ident, g := Guard.always } true),
    (0xC0010209, 0x000002E0, .red .add .sp .s32 false { a := .v 2, b := .v 9, pa := .ident, pb := .ident, g := Guard.always }),
    (0xBA040100, 0x000090E0, .redux { d := .v 4, a := .v 1, pa := .ident, g := Guard.always } { op := .add, ty := .f32, rnd := .rne, ftz := false }),
    (0x5F000007, 0, .ret 0 7),
    (0xB6080200, 0x000000E0, .rng (.v 8) { o := .v 2, perm := .ident } Guard.always),
    (0x2D060807, 0, .rsq { d := 3, a := 2, g := 7 }),
    (0xAD030100, 0x000092E0, .rsqLong { d := .v 3, a := .v 1, pa := .ident, g := Guard.always } true),
    (0x6A000007, 0, .rte),
    (0x10060404, 0, .sar { d := 3, a := 1, n := 4 }),
    (0x90030102, 0x000010E0, .sarLong { d := .v 3, a := .v 1, b := .v 2, pa := .ident, pb := .ident, g := Guard.always } .s32),
    (0xBB050100, 0x000010E0, .scan { d := .v 5, a := .v 1, pa := .ident, g := Guard.always } { op := .add, ty := .s32, rnd := .rne, ftz := false } false),
    (0x9B050102, 0xA30000E0, .sel { d := .v 5, a := .v 1, b := .v 2, c := .p 3, pa := .ident, g := Guard.always } .b32),
    (0xEC002D00, 0x000032E0, .setsr 50 { a := .v 45, pa := .ident, g := Guard.always })] = true := by decide

/-- Words of the spec for `SETXI` to `TANH_LONG`. -/
theorem test_decode_setxi_to_tanhLong : readsAs [
    (0x6D000005, 0, .setxi 5),
    (0x6D020C02, 0, .setxiS 3 2),
    (0xB7050102, 0x000000E0, .shfl { d := .v 5, a := .v 1, b := .v 2, pa := .ident, pb := .ident, g := Guard.always } .b32 false),
    (0x0E060002, 0, .shl { d := 3, a := 0, n := 2 }),
    (0x8E030102, 0x000010E0, .shlLong { d := .v 3, a := .v 1, b := .v 2, pa := .ident, pb := .ident, g := Guard.always } .s32),
    (0x0F401C04, 0, .shr { d := 32, a := 7, n := 4 }),
    (0x8F1C1B32, 0x000010E0, .shrLong { d := .v 28, a := .v 27, b := .v 50, pa := .ident, pb := .ident, g := Guard.always } .s32),
    (0x31060807, 0, .sin { d := 3, a := 2, g := 7 }),
    (0xB1030100, 0x000092E0, .sinLong { d := .v 3, a := .v 1, pa := .ident, g := Guard.always } true),
    (0x6F000007, 0, .snap),
    (0x2E060807, 0, .sqrt { d := 3, a := 2, g := 7 }),
    (0xAE030100, 0x000092E0, .sqrtLong { d := .v 3, a := .v 1, pa := .ident, g := Guard.always } true),
    (0x3E040C00, 0, .st { d := 2, a := 3, off := 0 }),
    (0xBE00040F, 0x000022E0, .stLong .sp .b32 true { a := .v 4, b := .v 15, pa := .ident, pb := .ident, g := Guard.always } 0),
    (0x33060807, 0, .tanh { d := 3, a := 2, g := 7 }),
    (0xB3090800, 0x000092E0, .tanhLong { d := .v 9, a := .v 8, pa := .ident, g := Guard.always } true)] = true := by decide

/-- Words of the spec for `TCOPY` to `WSUM`. -/
theorem test_decode_tcopy_to_wsum : readsAs [
    (0xC604B0B0, 0x07000CE0, .tcopy { dir := .inn, done := .stamp, shadow := true } { d := .v 4, a := .const .i0, b := .const .i0, c := .v 7, pa := .ident, g := Guard.always }),
    (0x69000001, 0, .trap 1),
    (0x6477FFFF, 0, .tryTx false 524287),
    (0xB9A2A100, 0x000000E0, .vote .some (.p 2) (.p 1) Guard.always),
    (0xD4000103, 0x000002E0, .wadd 2 false { a := .v 1, b := .v 3, pa := .ident, pb := .ident, g := Guard.always }),
    (0xC30807B0, 0x000000E0, .waitaddr .sh false false { d := .v 8, a := .v 7, b := .const .i0, pa := .ident, pb := .ident, g := Guard.always }),
    (0xC4000400, 0x000020E0, .wake .sp { a := .v 4, pa := .ident, g := Guard.always }),
    (0xD2000000, 0x000040E0, .wcfg 0 (some 0) Guard.always),
    (0xD90E0C00, 0x000000E0, .wcut 0 { d := .v 14, a := .v 12, pa := .ident, g := Guard.always }),
    (0xD8181600, 0x000000E0, .wfind 0 { d := .v 24, a := .v 22, pa := .ident, g := Guard.always }),
    (0xD51A0000, 0x000000E0, .wget 0 { d := .v 26, a := .v 0, pa := .ident, g := Guard.always }),
    (0xDA001900, 0x000003E0, .wload 3 { a := .v 25, pa := .ident, g := Guard.always }),
    (0xD7060200, 0x000001E0, .wpre 1 { d := .v 6, a := .v 2, pa := .ident, g := Guard.always }),
    (0xDB001900, 0x000000E0, .wsave 0 { a := .v 25, pa := .ident, g := Guard.always }),
    (0xD3000004, 0x000000E0, .wset 0 none { a := .v 0, b := .v 4, pa := .ident, pb := .ident, g := Guard.always }),
    (0xD6060000, 0x000000E0, .wsum 0 (.v 6) Guard.always)] = true := by decide

/-- Words of the spec for `XOR` to `YIELD`. -/
theorem test_decode_xor_to_yieldTurn : readsAs [
    (0x13080C2F, 0, .xor { d := 4, a := 3, b := 5, g := 7 }),
    (0x93030102, 0x000000E0, .xorLong { d := .v 3, a := .v 1, b := .v 2, pa := .ident, pb := .ident, g := Guard.always }),
    (0x63000007, 0, .yieldTurn)] = true := by decide

/-! ### A small state -/

/-- A ready entry. -/
def anEntry (eid index : Nat) (cls : RegClass) (v : List Word) : Entry :=
  { (default : Entry) with eid := eid, cls := cls, index := index, size := 1, value := v, st := .ready, known := true, verified := true }

/-- One warp of 32 threads at an instruction: `v1` holds 10 + lane, `v2` holds 3, `v4` 0, `v5` 8, `v6` 128,
`v7` 192, `s1` 7; `p1` is true in the odd lanes, `p3` in lane 0. Serial numbers go on from 100. -/
def atInstr (i : Instr) : State :=
  let s := State.reset.withFetchWord 64 ((encodePair i).1.toNat + 2 ^ 32 * (encodePair i).2.toNat)
  ((({ s with serial := 100 } : State).modCore 0 fun c => { c with entries := [
      anEntry 50 0 .v ((List.range 32).map fun l => BitVec.ofNat 32 (10 + l)), anEntry 51 1 .v (List.replicate 32 3#32),
      anEntry 52 0 .s [7#32], anEntry 53 1 .p ((List.range 32).map fun l => BitVec.ofNat 32 (l % 2)),
      anEntry 54 2 .v (List.replicate 32 0#32), anEntry 55 3 .v (List.replicate 32 8#32),
      anEntry 56 2 .p (1#32 :: List.replicate 31 0#32), anEntry 57 4 .v (List.replicate 32 128#32),
      anEntry 58 5 .v (List.replicate 32 192#32)] }).modWarp 2 0 fun w =>
        { w with v := [(1, 50), (2, 51), (4, 54), (5, 55), (6, 57), (7, 58)], p := [(1, 53), (3, 56)], paths := w.paths.map fun p => { p with s := [(1, 52)] } })

/-- The issuing path's context. -/
def cxAt (s : State) : Cx := s.cx.getD default

/-- A register's lane after a step. -/
def laneAfter (i : Instr) (cls : RegClass) (n l : Nat) : Option Word :=
  match step (atInstr i) with
  | .next t => (t.cxOf 2 0 3).map fun c => c.get cls n l
  | _ => none

/-- Does a path issue, fit for the instruction? -/
def issuesNow (i : Instr) (s : State) : Bool :=
  s.cx.isSome && !(cxAt s).blk.ended && (cxAt s).pt.hold.isNone && (cxAt s).pt.park.isNone && !(notxInstr i && (cxAt s).inTx) && !(cxAt s).compares i

/-- The hypothesis `Issues` by computation. -/
theorem issues_of {i : Instr} {s : State} (h : issuesNow i s = true) : Issues i s (cxAt s) := by
  simp only [issuesNow, Bool.and_eq_true, Bool.not_eq_true', Option.isNone_iff_eq_none] at h
  obtain ⟨⟨⟨⟨⟨h, he⟩, hh⟩, hp⟩, hn⟩, hc'⟩ := h
  obtain ⟨c, hc⟩ := Option.isSome_iff_exists.mp h
  exact ⟨by rw [cxAt, hc]; rfl, he, hh, hp, hn, .inl hc'⟩

/-- A check that passes, by computation. -/
theorem ok_of {ε : Type} {x : Except ε Unit} (h : x.toBool = true) : x = .ok () := by
  cases x <;> simp_all [Except.toBool]

/-- The answer of a check that passes. -/
def okD {ε α : Type} (d : α) : Except ε α → α
  | .ok x => x
  | .error _ => d

/-- A check that passes answers that, by computation. -/
theorem okD_of {ε α : Type} {d : α} {x : Except ε α} (h : x.toBool = true) : x = .ok (okD d x) := by
  cases x <;> simp_all [okD, Except.toBool]

/-- A value that is there, by computation. -/
theorem some_of {α : Type} {o : Option α} {d : α} (h : o.isSome = true) : o = some (o.getD d) := by
  cases o <;> simp_all

/-- A value that is absent, by computation. -/
theorem none_of {α : Type} {o : Option α} (h : o.isNone = true) : o = none := by
  cases o <;> simp_all

/-- No compared result is on its way, by computation. -/
theorem uncompared_of {s : State} (h : (s.cores.all fun x => x.2.entries.all fun e => e.st != .pending || !(e.bearing || e.key.any (·.saggar))) = true) :
    s.uncompared := by
  intro x hx e he hp
  have := List.all_eq_true.mp (List.all_eq_true.mp h x hx) e he
  rw [hp] at this
  simpa using this

/-- Identities are old, by computation. -/
theorem ids_of {s : State} (h : (decide (0 < s.serial) && (s.blocks.all fun b => (blockIds b).all fun e => decide (e < s.serial)) &&
    s.cores.all fun x => ((coreIds x.2).all fun e => decide (e < s.serial)) && x.2.entries.all fun e => decide (0 < e.eid)) = true) : IdsInv s := by
  simp only [Bool.and_eq_true, List.all_eq_true, decide_eq_true_eq] at h
  exact ⟨h.1.1, h.1.2, h.2⟩

/-- Memories are canonical, by computation. -/
theorem mem_of {s : State} (h : (s.scratch.wf && s.hbm.wf && s.host.wf && s.blocks.all fun b => b.shared.wf &&
    (b.warps.all fun w => decide (w.stack.map (·.1)).Nodup) && (match b.ck with | some k => k.warps.all fun w => decide (w.stack.map (·.1)).Nodup | none => true)) = true) :
    MemInv s := by
  simp only [Bool.and_eq_true, List.all_eq_true, decide_eq_true_eq] at h
  obtain ⟨⟨⟨h1, h2⟩, h3⟩, h4⟩ := h
  refine ⟨h1, h2, h3, fun b hb => ⟨(h4 b hb).1.1, (h4 b hb).1.2, fun k hk w hw => ?_⟩⟩
  have := (h4 b hb).2
  rw [hk] at this
  exact of_decide_eq_true (List.all_eq_true.mp this w hw)

/-! ### Witnesses: the hypotheses of the statements are met together -/

/-- Is a lane's address in place? -/
def inPlace (x : LaneAddr) : Bool := match x with | .ok _ => true | _ => false

/-- In every lane that acts, an address that is in place. -/
theorem lanes_of {act : Mask} {f : Nat → LaneAddr} (h : ((List.range 64).all fun l => !act.has l || inPlace (f l)) = true) :
    ∀ l, l < 64 → act.has l = true → ∃ t, f l = .ok t := by
  intro l hl ha
  have := List.all_eq_true.mp h l (List.mem_range.mpr hl)
  rw [ha] at this
  cases hf : f l <;> simp_all [inPlace]

/-- Operands `v3`, `v1`, `v2` of a short form. -/
def rrr : Rrr := { d := 3, a := 1, b := 2, g := 7 }
/-- Operands `v3`, `v1`, `v2` of a long form. -/
def l2 : L2 := { d := .v 3, a := .v 1, b := .v 2, pa := .ident, pb := .ident, g := Guard.always }
/-- Guarded by `p1`, which is true in the odd lanes. -/
def odd : Guard := { p := 1, neg := false }
/-- A state whose word 0 of the code line is a header, with a header word of N 2 around the instruction. -/
def withHeader (s : State) : State :=
  s.modCore 0 fun c => { c with icache := c.icache.map fun k => { k with map := 1#32 } }
/-- A state whose context maps its first page to the scratchpad and its second to HBM, readable, writable and executable. -/
def withPages (s : State) : State :=
  s.modCtx 0 0 fun c => { c with tlb := [
    { unit := .core 0, base := 0, size := 65536, word := 0x3800#32, frame := 0 }, { unit := .core 0, base := 65536, size := 65536, word := 0x3801#32, frame := 0 }] }
/-- The launch's packet with a word changed. -/
def withPacket (n : Nat) (w : Word) (s : State) : State :=
  { s with launches := s.launches.map fun l => { l with words := setAt n w l.words } }
/-- The issuing warp changed. -/
def withWarp (s : State) (f : Warp → Warp) : State := s.modWarp 2 0 f
/-- The block changed. -/
def withBlock (s : State) (f : Block → Block) : State := s.modBlock 2 f

theorem wit_EncodeThenDecode : ∃ i : Instr, i.wf = true := ⟨.iaddLong l2 .s32, by decide⟩

theorem wit_DecodeThenEncode : ∃ (w0 w1 : Word) (i : Instr), decodeWords w0 w1 = .ok i :=
  ⟨0x832020B2, 0x000010E0, .iaddLong { d := .v 32, a := .v 32, b := .const .i2, pa := .ident, pb := .ident, g := Guard.always } .s32, rfl⟩

theorem wit_OperandCodes : ∃ (x : OpSpec) (k : Fin 9), x.o = .rsvd k := ⟨{ o := .rsvd 8, field := 1, acc := vsc }, 8, rfl⟩

theorem wit_StepRuns_long : let i : Instr := .iaddLong l2 .s32; let s := atInstr i; let c := cxAt s
    s.cx = some c ∧ s.codeWord c.core c.b c.l c.pt.pc = some (encodePair i).1 ∧ (encodePair i).1.getLsbD 31 = true ∧
    s.codeWord c.core c.b c.l (c.pt.pc + 4#32) = some (encodePair i).2 ∧ decodeWords (encodePair i).1 (encodePair i).2 = .ok i :=
  ⟨some_of (by decide), by decide, by decide, by decide, rfl⟩

theorem wit_StepRuns_short : let i : Instr := .iadd rrr; let s := atInstr i; let c := cxAt s
    s.cx = some c ∧ s.codeWord c.core c.b c.l c.pt.pc = some (encodePair i).1 ∧ (encodePair i).1.getLsbD 31 = false ∧
    (encodePair i).2 = 0#32 ∧ decodeWords (encodePair i).1 0#32 = .ok i :=
  ⟨some_of (by decide), by decide, by decide, by decide, rfl⟩

theorem wit_StepTakesAnEvent : State.reset.issuing = none ∧ State.reset.packed = none ∧
    ({ State.reset with agenda := [.deviceReset] } : State).issuing = none := by decide

theorem wit_StepTakesAnEvent_packed : let s : State := { atInstr (.iadd rrr) with issuing := none, packed := (atInstr (.iadd rrr)).issuing }
    let c := s.packed.bind fun k => s.cxOf k.block k.warp k.path
    s.issuing = none ∧ s.packed.isSome = true ∧ c.isSome = true ∧
    c.all (fun d => d.pt.hold.isNone && d.pt.park.isNone && d.wp.delivery.isNone && d.wp.tx.isNone) = true := by decide

theorem wit_StepsKeepInvariants : let s := atInstr .nop; MemInv s ∧ IdsInv s ∧ ∃ t, step s = .next t :=
  ⟨mem_of (by decide), ids_of (by decide), _, rfl⟩

theorem wit_LaneOperationWritesItsResult : ∃ (i : Instr) (s : State) (c : Cx) (m : Sem), Issues i s c ∧ IdsInv s ∧ opOf c i = some m ∧
    LaneReady c m ∧ c.acting m.guard ≠ 0#64 ∧ c.laneHit m = none ∧ LaneFree c m :=
  ⟨.iadd rrr, atInstr (.iadd rrr), cxAt (atInstr (.iadd rrr)), semIadd (longRrr rrr) 1 .s32, issues_of (by decide), ids_of (by decide), rfl,
    ⟨ok_of (by decide), ok_of (by decide), ok_of (by decide), fun h => absurd h (by decide)⟩, by decide, none_of (by decide), .inl (by decide),
    .inl (by decide), .inr (by decide)⟩

/-- `IADD` in a state whose key table holds its key. -/
def keyed : State :=
  (atInstr (.iadd rrr)).modCore 0 fun c => { c with keys := [
    { key := (cxAt (atInstr (.iadd rrr))).keyOf (semIadd (longRrr rrr) 1 .s32), results := [51], lastUse := 1, born := 1, watch := [], launch := none }] }

theorem wit_LaneOperationBindsToItsKey : ∃ (i : Instr) (s : State) (c : Cx) (m : Sem) (k : KeyRec), Issues i s c ∧ IdsInv s ∧ opOf c i = some m ∧
    LaneReady c m ∧ c.acting m.guard ≠ 0#64 ∧ c.laneHit m = some k ∧ c.bindable k = true ∧ (c.dests m).length = k.results.length :=
  ⟨.iadd rrr, keyed, cxAt keyed, semIadd (longRrr rrr) 1 .s32, _, issues_of (by decide), ids_of (by decide), rfl,
    ⟨ok_of (by decide), ok_of (by decide), ok_of (by decide), fun h => absurd h (by decide)⟩, by decide, rfl, by decide, by decide⟩

/-- The same in a saggar launch; the key's result is not verified yet. -/
def unverified : State :=
  let s := withPacket 10 0x00000012#32 (atInstr (.iadd rrr))
  s.modCore 0 fun c => { c with
    entries := c.entries.map fun e => { e with verified := e.eid != 51 }
    keys := [{ key := (cxAt s).keyOf (semIadd (longRrr rrr) 1 .s32), results := [51], lastUse := 1, born := 1, watch := [], launch := none }] }

theorem wit_LaneOperationBindsToItsKey_waits : ∃ (i : Instr) (s : State) (c : Cx) (m : Sem) (k : KeyRec), Issues i s c ∧ IdsInv s ∧ opOf c i = some m ∧
    LaneReady c m ∧ c.acting m.guard ≠ 0#64 ∧ c.laneHit m = some k ∧ c.bindable k = false :=
  ⟨.iadd rrr, unverified, cxAt unverified, semIadd (longRrr rrr) 1 .s32, _, issues_of (by decide), ids_of (by decide), rfl,
    ⟨ok_of (by decide), ok_of (by decide), ok_of (by decide), fun h => absurd h (by decide)⟩, by decide, rfl, by decide⟩

/-- `FMUL` of two lanes' small words, whose product is inexact, under a launch that traps on every flag. -/
def trapping : State := withPacket 10 0x000007D0#32 (atInstr (.fmul rrr))

/-- What `FPEXC` asks of an operation. -/
def FlagTraps (c : Cx) (m : Sem) : Prop := LaneReady c m ∧ c.inTx = false ∧ c.raises m = true ∧ c.laneHit m = none ∧
  (m.sfu = 0 ∨ c.sfuFree = true) ∧ (c.whole m = true ∨ c.allMergeable (c.acting m.guard) (c.dests m) = .ok ()) ∧ c.laneFlags m &&& c.l.fptrap ≠ 0#32

/-- The same under a launch that traps on every flag, `v1` a signalling NaN in every lane. -/
def sigNan (i : Instr) : State := (withPacket 10 0x000007D0#32 (atInstr i)).modCore 0 fun c => { c with
  entries := c.entries.map fun e => if e.eid = 50 then { e with value := List.replicate 32 0x7F800001#32 } else e }

theorem wit_EnabledFlagsTrap : ∃ (i : Instr) (s : State) (c : Cx) (m : Sem), Issues i s c ∧ opOf c i = some m ∧ FlagTraps c m :=
  ⟨.fmul rrr, trapping, cxAt trapping, semFmul (longRrr rrr) 1 rneMod, issues_of (by decide), rfl,
    ⟨ok_of (by decide), ok_of (by decide), ok_of (by decide), fun h => absurd h (by decide)⟩, by decide, by decide, none_of (by decide),
    .inl (by decide), .inl (by decide), by decide⟩

theorem wit_EnabledFlagsTrap_actv : let i : Instr := .actv { d := .v 3, a := .v 1, pa := .ident, g := Guard.always } 5 false; let c := cxAt (sigNan i)
    Issues i (sigNan i) c ∧ ∃ m, opOf c i = some m ∧ FlagTraps c m :=
  ⟨issues_of (by decide), _, rfl, ⟨ok_of (by decide), ok_of (by decide), ok_of (by decide), fun h => absurd h (by decide)⟩, by decide, by decide,
    none_of (by decide), .inr (by decide), .inl (by decide), by decide +kernel⟩

/-- A `CHRUN` of the sum of its first two operands, one of them a signalling NaN; asked for current and granted, or not. -/
def flagChain (req : List (Nat × Nat × Nat × Bool)) : State :=
  let x := encodePair (.faddLong { d := .v 0, a := .v 8, b := .v 9, pa := .ident, pb := .ident, g := Guard.always } rneMod)
  (sigNan (.chrun { d := .v 3, a := .v 1, b := .v 2, c := .v 2, pa := .ident, g := Guard.always } 1)).modCore 0 fun k => { k with
    chrun := req, chains := [((cxAt (atInstr .nop)).l.ctxid, [default, { version := 0, image := leBytes 4 1 ++ leBytes 4 x.1.toNat ++ leBytes 4 x.2.toNat, incoming := [] },
      default, default])] }

theorem wit_EnabledFlagsTrap_chrun : ∀ req ∈ [[], [(2, 0, 3, true)]], let s := flagChain req; let c := cxAt s
    let f : L3 := { d := .v 3, a := .v 1, b := .v 2, c := .v 2, pa := .ident, g := Guard.always }
    Issues (.chrun f 1) s c ∧ (c.cst.chain c.l.ctxid 1).owns c.b c.w = false ∧ FlagTraps c (semChrun f 1 (c.cst.chain c.l.ctxid 1)) ∧
    c.chrunState = (if req = [] then none else some true) := by
  intro req h
  simp only [List.mem_cons, List.not_mem_nil, or_false] at h
  rcases h with rfl | rfl <;>
    exact ⟨issues_of (by decide), by decide, ⟨⟨ok_of (by decide), ok_of (by decide), ok_of (by decide), fun _ => ok_of (by decide)⟩, by decide, by decide,
      none_of (by decide), .inl (by decide), .inl (by decide), by decide +kernel⟩, by decide⟩

/-- `IADD` whose guard no lane meets. -/
def idle : Instr := .iaddLong { l2 with g := { p := 2, neg := false } } .s32

theorem wit_LaneOperationWithoutActingLanes : ∃ (i : Instr) (s : State) (c : Cx) (m : Sem), Issues i s c ∧ opOf c i = some m ∧ LaneReady c m ∧
    c.acting m.guard = 0#64 :=
  ⟨idle, atInstr idle, cxAt (atInstr idle), _, issues_of (by decide), rfl,
    ⟨ok_of (by decide), ok_of (by decide), ok_of (by decide), fun h => absurd h (by decide)⟩, by decide⟩

theorem wit_OperandChecks_bad : let i : Instr := .iaddLong { l2 with b := .rsvd 0 } .s32; let s := atInstr i; let c := cxAt s
    let m := semIadd { l2 with b := .rsvd 0 } 2 .s32
    Issues i s c ∧ laneSem c i = some m ∧ (firstBad (fun y => y.ok c.wp.grant c.width (sDest m.ops)) m.ops).map (·.field) = some 2 :=
  ⟨issues_of (by decide), rfl, by decide⟩

theorem wit_OperandChecks_index : let f : L2 := { l2 with a := .idx 1 }; let i : Instr := .iaddLong f .s32
    let s := withWarp (atInstr i) fun w => { w with xi := 200#32 }; let c := cxAt s; let m := semIadd f 2 .s32
    Issues i s c ∧ laneSem c i = some m ∧ (firstBad (fun y => y.ok c.wp.grant c.width (sDest m.ops)) m.ops).isNone = true ∧
      (firstBad (fun y => y.indexOk c.wp.grant c.wp.xi) m.ops).map (·.field) = some 1 :=
  ⟨issues_of (by decide), rfl, by decide, by decide⟩

/-- The warp in a transaction. -/
def inTx (s : State) : State :=
  withWarp s fun w => { w with tx := some { depth := 1, label := 8#32, lane := false, ck := (cxAt s).checkpoint, writes := [], reads := [],
                                            conflict := false, committing := false, laneCause := none, since := 0 } }

theorem wit_TransactionChecks : let i : Instr := .bar false; let s := inTx (atInstr i); let c := cxAt s
    s.cx = some c ∧ notxInstr i = true ∧ c.inTx = true :=
  ⟨some_of (by decide), by decide, by decide⟩

/-- The path in a clause of two instructions. -/
def inClause (s : State) : State :=
  withWarp s fun w => { w with paths := w.paths.map fun p => { p with clause := some { at_ := 0#32, header := 0x20001FE0#32, done := 0 } } }

theorem wit_PathRunsOn : let s := inClause (atInstr (.iadd rrr)); let c := cxAt s
    s.cx = some c ∧ c.pt.lastOf = false ∧ s.cxOf c.b c.w c.pid = some c ∧ c.pt.park = none ∧ c.pt.hold = none ∧
    (∀ q ∈ c.wp.paths, q.id ≠ c.pid → q.stand ≠ c.pt.pc + 4#32) ∧ (∀ p ∈ c.wp.paths, ∀ q ∈ c.wp.paths, p.id = q.id → p = q) :=
  ⟨some_of (by decide), by decide, some_of (by decide), by decide, by decide, by decide, by decide⟩

/-- Operand values of a test: source `i` is the same in every lane. -/
def vals (xs : List Dword) : Args := { src := fun i _ => xs.getD i 0#64, act := 0xFF#64, help := 0#64, active := 0xFF#64, w := 32 }

theorem wit_CrossLaneValues : let x := vals [1#64, 2#64]
    x.w ≤ 64 ∧ ∀ k, k < 64 → x.act.has k = true → k < x.w := ⟨by decide, by decide⟩

theorem wit_FloatSpecialValues :
    let nan := fun (v : Nat) => (v / 2 ^ 23) % 2 ^ 8 = 255 ∧ v % 2 ^ 23 ≠ 0
    (nan ((vals [0x7F800001#64]).src 0 0).toNat ∧ ((vals [0x7F800001#64]).src 0 0).toNat.testBit 22 = false) ∧
    (((vals [0x7F800000#64, 0xFF800000#64]).src 0 0).toNat = 0x7F800000 ∧ ((vals [0x7F800000#64, 0xFF800000#64]).src 1 0).toNat = 0xFF800000) ∧
    (((vals [0x7F800000#64, 0#64]).src 0 0).toNat = 0x7F800000 ∧ ((vals [0x7F800000#64, 0#64]).src 1 0).toNat = 0) ∧
    (nan ((vals [0x7FC00000#64, 1#64]).src 0 0).toNat ∧ ¬ nan ((vals [0x7FC00000#64, 1#64]).src 1 0).toNat) ∧
    (((vals [0x80000000#64, 0#64]).src 0 0).toNat = 0x80000000 ∧ ((vals [0x80000000#64, 0#64]).src 1 0).toNat = 0) ∧
    (((vals [0xFF800000#64, 0xFF800000#64]).src 0 0).toNat = 0xFF800000 ∧ ((vals [0xFF800000#64, 0xFF800000#64]).src 1 0).toNat = 0xFF800000) ∧
    (¬ nan ((vals [0x80000001#64, 0x7F800001#64]).src 0 0).toNat ∧ nan ((vals [0x80000001#64, 0x7F800001#64]).src 1 0).toNat) ∧
    (((vals [0x80000001#64]).src 0 0).toNat < 2 ^ 32 ∧ ((vals [0x80000001#64]).src 0 0).toNat / 2 ^ 23 % 2 ^ 8 = 0) := by decide

/-- Eight acting lanes, one, and none below lane 0. -/
theorem wit_ReductionValues_forms : let x := vals [3#64]; let y := { vals [3#64] with act := 0x10#64 }
    x.w ≤ 64 ∧ (0 < x.w ∧ x.act.has 0 = true) ∧ ((List.range x.w).filter fun k => x.act.has k) ≠ [] ∧
    ((List.range y.w).filter fun k => y.act.has k) = [4] ∧ ((List.range x.w).filter fun k => x.act.has k && decide (k < 0)) = [] ∧
    ((List.range x.w).filter fun k => x.act.has k && decide (k < 5)) = [0, 1, 2, 3, 4] := by decide

/-! Values: operand values in each clause's range. Patterns are worked out by hand from R71's formats. -/

/-- An exact sum, by computation. -/
theorem exactSum_of {f : Fmt} {m : FMod} {a b y : Nat} {flip : Bool} (u v w : Mag) (lo : Int)
    (h : (!m.ftz && decide (f.decode a = .fin u.1 u.2.1 u.2.2) && decide (f.decode b = .fin v.1 v.2.1 v.2.2) &&
      decide (f.decode y = .fin w.1 w.2.1 w.2.2) && decide (a < 2 ^ (f.sbit + 1)) && decide (b < 2 ^ (f.sbit + 1)) &&
      decide (y < 2 ^ (f.sbit + 1)) && decide (w.2.1 ≠ 0) && decide (lo ≤ u.2.2) && decide (lo ≤ v.2.2) && decide (lo ≤ w.2.2) &&
      decide (sigAt u.1 u.2.1 u.2.2 lo + sigAt (v.1 != flip) v.2.1 v.2.2 lo = sigAt w.1 w.2.1 w.2.2 lo)) = true) :
    ExactSum f m a b y flip := by
  simp only [Bool.and_eq_true, decide_eq_true_eq, Bool.not_eq_true'] at h
  obtain ⟨⟨⟨⟨⟨⟨⟨⟨⟨⟨⟨hm, ha⟩, hb⟩, hy⟩, ha'⟩, hb'⟩, hy'⟩, h0⟩, h1⟩, h2⟩, h3⟩, h4⟩ := h
  exact ⟨fun hf => absurd hf (by simp [hm]), u, v, w, ⟨ha, ha'⟩, ⟨hb, hb'⟩, ⟨hy, hy'⟩, h0, lo, h1, h2, h3, h4⟩

/-- An exact multiply-add, by computation. -/
theorem exactFma_of {f : Fmt} {m : FMod} {a b c y : Nat} (u v w z : Mag) (lo : Int)
    (h : (!m.ftz && decide (f.decode a = .fin u.1 u.2.1 u.2.2) && decide (f.decode b = .fin v.1 v.2.1 v.2.2) &&
      decide (f.decode c = .fin w.1 w.2.1 w.2.2) && decide (f.decode y = .fin z.1 z.2.1 z.2.2) && decide (a < 2 ^ (f.sbit + 1)) &&
      decide (b < 2 ^ (f.sbit + 1)) && decide (c < 2 ^ (f.sbit + 1)) && decide (y < 2 ^ (f.sbit + 1)) && decide (z.2.1 ≠ 0) &&
      decide (lo ≤ u.2.2 + v.2.2) && decide (lo ≤ w.2.2) && decide (lo ≤ z.2.2) &&
      decide (sigAt (u.1 != v.1) (u.2.1 * v.2.1) (u.2.2 + v.2.2) lo + sigAt w.1 w.2.1 w.2.2 lo = sigAt z.1 z.2.1 z.2.2 lo)) = true) :
    ExactFma f m a b c y := by
  simp only [Bool.and_eq_true, decide_eq_true_eq, Bool.not_eq_true'] at h
  obtain ⟨⟨⟨⟨⟨⟨⟨⟨⟨⟨⟨⟨⟨hm, ha⟩, hb⟩, hc⟩, hy⟩, ha'⟩, hb'⟩, hc'⟩, hy'⟩, h0⟩, h1⟩, h2⟩, h3⟩, h4⟩ := h
  exact ⟨fun hf => absurd hf (by simp [hm]), u, v, w, z, ⟨ha, ha'⟩, ⟨hb, hb'⟩, ⟨hc, hc'⟩, ⟨hy, hy'⟩, h0, lo, h1, h2, h3, h4⟩

/-- 1 + 2 = 3, 1 − 2 = −1, 1 × 2 + 3 = 5, in the formats of the instructions; an infinity times zero, and NaNs. -/
theorem wit_FusedFloatValues : let m := rneMod
    ExactSum fp32 m 0x3F800000 0x40000000 0x40400000 false ∧ ExactSum fp32 m 0x3F800000 0x40000000 0xBF800000 true ∧
    ExactSum fp64 m 0x3FF0000000000000 0x4000000000000000 0x4008000000000000 false ∧
    ExactFma fp32 m 0x3F800000 0x40000000 0 0x40000000 ∧ ExactFma fp32 m 0x3F800000 0x40000000 0x40400000 0x40A00000 ∧
    ExactFma fp64 m 0x3FF0000000000000 0x4000000000000000 0x4008000000000000 0x4014000000000000 ∧
    ExactFma (halfFmt .f16) m 0x3C00 0x4000 0x4200 0x4500 ∧ ExactFma (halfFmt .bf16) m 0x3F80 0x4000 0x4040 0x40A0 :=
  ⟨exactSum_of (false, 0x800000, -23) (false, 0x800000, -22) (false, 0xC00000, -22) (-23) (by decide),
   exactSum_of (false, 0x800000, -23) (false, 0x800000, -22) (true, 0x800000, -23) (-23) (by decide),
   exactSum_of (false, 2 ^ 52, -52) (false, 2 ^ 52, -51) (false, 3 * 2 ^ 51, -51) (-52) (by decide),
   exactFma_of (false, 0x800000, -23) (false, 0x800000, -22) (false, 0, -149) (false, 0x800000, -22) (-149) (by decide),
   exactFma_of (false, 0x800000, -23) (false, 0x800000, -22) (false, 0xC00000, -22) (false, 0xA00000, -21) (-45) (by decide),
   exactFma_of (false, 2 ^ 52, -52) (false, 2 ^ 52, -51) (false, 3 * 2 ^ 51, -51) (false, 5 * 2 ^ 50, -50) (-103) (by decide),
   exactFma_of (false, 0x400, -10) (false, 0x400, -9) (false, 0x600, -9) (false, 0x500, -8) (-19) (by decide),
   exactFma_of (false, 0x80, -7) (false, 0x80, -6) (false, 0xC0, -6) (false, 0xA0, -5) (-13) (by decide)⟩

theorem wit_FusedFloatValues_special :
    let nan := fun (e w v : Nat) => v / 2 ^ w % 2 ^ e = 2 ^ e - 1 ∧ v % 2 ^ w ≠ 0
    let inf := fun (e w v : Nat) => v / 2 ^ w % 2 ^ e = 2 ^ e - 1 ∧ v % 2 ^ w = 0
    let zero := fun (e w v : Nat) => v % 2 ^ (e + w) = 0
    nan 8 23 0x7F800001 ∧ nan 8 23 0xFFFFFFFF ∧ nan 11 52 0x7FF0000000000001 ∧ nan 5 10 0x7C01 ∧ inf 8 23 0xFF800000 ∧ zero 8 23 0x80000000 ∧
    inf 11 52 0x7FF0000000000000 ∧ zero 11 52 0 := by decide

/-- `FRND`: a NaN, an infinity, an integer, 5/2, and 1/2 whose rounded magnitude is 0. `CVT`: the same; 3 held by both formats; values beyond
a type's ends and at them; an infinity into a format without one. -/
theorem wit_ConversionValues :
    fp32.decode 0x7F800001 = .nan true ∧ fp64.decode 0xFFF0000000000000 = .inf true ∧
    fp32.decode 0x40400000 = .fin false 0xC00000 (-22) ∧ 0xC00000 % 2 ^ 22 = 0 ∧ NoFlush fp32 true [0x40400000] ∧
    fp32.decode 0x40200000 = .fin false 0xA00000 (-22) ∧ 0xA00000 % 2 ^ 22 ≠ 0 ∧ RoundsTo .rne false 0xA00000 (2 ^ 22) 2 ∧
    fp32.decode 0x3F000000 = .fin false 0x800000 (-24) ∧ RoundsTo .rne false 0x800000 (2 ^ 24) 0 ∧ RoundsTo .rup false 0x800000 (2 ^ 24) 1 ∧
    RoundsTo .rdn true 0x800000 (2 ^ 24) 1 ∧ RoundsTo .rtz true 0x800000 (2 ^ 24) 0 ∧
    (HoldsMag fp32 0x40400000 (false, 0xC00000, -22) ∧ HoldsMag fp16 0x4200 (false, 0x600, -9) ∧
      SumsTo (false, 0x600, -9) (false, 0, 0) (false, 0xC00000, -22)) ∧
    e4m3.inf = false ∧ fp16.decode 0xFC00 = .inf true ∧ fp16.inf = true ∧ cvtFmt .e4m3 = some e4m3 ∧ cvtFmt .s8 = none ∧
    (intFrom 8 true 0x80 = -128 ∧ HoldsMag fp16 0xD800 (true, 0x400, -3) ∧ SumsTo (true, 128, 0) (false, 0, 0) (true, 0x400, -3)) ∧
    -- 128 and 127 into `.s8`, −1 into `.u8`, −128 into `.s8`
    ((2 : Int) ^ 7 - 1 < 128 ∧ RoundsTo .rtz false 128 1 128 ∧ RoundsTo .rtz false 127 1 127 ∧ RoundsTo .rtz true 1 1 1 ∧
      (-(1 : Int) < 0) ∧ (-(2 : Int) ^ 7 ≤ -128)) ∧ cvtInt .s4 = (4, true) :=
  ⟨by decide, by decide, by decide, by decide, fun _ => by decide, by decide, by decide, ⟨by decide, by decide, fun _ => by decide⟩, by decide,
   ⟨by decide, by decide, fun _ => by decide⟩, rfl, rfl, rfl,
   ⟨⟨by decide, by decide⟩, ⟨by decide, by decide⟩, by decide, -22, by decide, by decide, by decide, by decide⟩, rfl, by decide, rfl, rfl, rfl,
   ⟨by decide, ⟨by decide, by decide⟩, by decide, -3, by decide, by decide, by decide, by decide⟩,
   ⟨by decide, rfl, rfl, rfl, by decide, by decide⟩, rfl⟩

theorem wit_ReductionValues : let x := vals [5#64]; let acts := (List.range x.w).filter fun k => x.act.has k
    x.w ≤ 64 ∧ acts ≠ [] ∧ (acts.filter fun k => decide (k < 0)) = [] ∧ x.act.has 7 = true ∧
    ((List.range 32).filter fun k => Mask.has 0x10#64 k) = [4] := by decide

/-- The functions' ranges: 2, 4, 1 and the ends of `EXP2` and `TANH`; the quarter turns of `SIN` and `COS`. -/
theorem wit_SfuValues :
    fp32.decode 0x7F800001 = .nan true ∧ NoFlush fp32 true [0x7F800001] ∧ fp32.decode 0xFF800000 = .inf true ∧
    fp32.decode 0xC0000000 = .fin true 0x800000 (-22) ∧ fp32.decode 0x40000000 = .fin false 0x800000 (-22) ∧
    (SumsTo (false, 0x800000, -22) (false, 0, 0) (false, 2, 0) ∧ (-149 : Int) ≤ 2) ∧
    (fp32.decode 0x43000000 = .fin false 0x800000 (-16) ∧ 128 * 2 ^ 16 ≤ 0x800000) ∧
    (0x800000 = 2 ^ 23 ∧ (-22 : Int) + 23 ≠ 0) ∧
    (∀ k ∈ [0, 1, 2, 3], 4 * ([0x800000, 0xA00000, 0xC00000, 0xE00000].getD k 0) % (4 * 2 ^ 23) = k * 2 ^ 23) ∧
    (fp32.decode 0x39000000 = .fin false 0x800000 (-36) ∧ 0x7FFFFF * 8192 < 2 ^ 36) ∧ 10 * 2 ^ 20 ≤ 0xA00000 :=
  ⟨by decide, fun _ => by decide, by decide, by decide, by decide,
   ⟨⟨by decide, -22, by decide, by decide, by decide, by decide⟩, by decide⟩, ⟨by decide, by decide⟩, by decide, by decide, by decide, by decide⟩

/-- A table whose segments start at 0 in steps of 1, with 5 below, 6 above, and c0 = 1, c1 = c2 = 0 in every segment. -/
def actImage : List Byte :=
  let w := fun (x : Nat) => (List.range 4).map fun i => BitVec.ofNat 8 (x / 256 ^ i)
  w 0 ++ w 0 ++ w 0x40A00000 ++ w 0x40C00000 ++ (List.replicate 256 (w 0x3F800000 ++ w 0 ++ w 0)).flatten

theorem wit_SfuValues_tables : let i : Instr := .actv { d := .v 3, a := .v 1, pa := .ident, g := Guard.always } 1 false
    (guardedSem (cxAt (atInstr i)) i).isSome = true ∧ HoldsMag fp32 (imgWord actImage 0) (false, 0, -149) ∧ actStep actImage = 0 ∧
    (∀ j ∈ [0, 1, 2], HoldsMag fp32 (imgWord actImage (16 + 12 * 1 + 4 * j)) (if j = 0 then (false, 0x800000, -23) else (false, 0, -149))) ∧
    (sigAt true 1 0 0 - sigAt false 0 0 0 < 0) ∧ sigAt false 1 0 0 - sigAt false 0 0 0 = 1 * 1 ∧ 256 * 1 ≤ sigAt false 256 0 0 - sigAt false 0 0 0 :=
  ⟨by decide, ⟨by decide, by decide⟩, by decide, fun j hj => by
    simp only [List.mem_cons, List.not_mem_nil, or_false] at hj
    rcases hj with rfl | rfl | rfl <;> exact ⟨by decide, by decide⟩, by decide, by decide, by decide⟩

/-- An aligned counter pair for `RNG`: `v16` to `v19` written, the counter in `v4`, `v5`. -/
def rngI : Instr := .rng (.v 16) { o := .v 4, perm := .ident } Guard.always

theorem wit_Rng_writes : let s := atInstr rngI; let c := cxAt s
    Issues rngI s c ∧ IdsInv s ∧ c.checkRng (.v 16) (.v 4) .ident = .ok () ∧ c.checkReads (rngOps (.v 16) (.v 4) .ident) Guard.always = .ok () ∧
    c.acting Guard.always ≠ 0#64 ∧ c.resolve ((rngOps (.v 16) (.v 4) .ident).getD 0 default) = .reg .v 16 false .ident ∧
    c.resolve ((rngOps (.v 16) (.v 4) .ident).getD 1 default) = .reg .v 4 true .ident ∧
    (∀ l, l < 64 → (c.acting Guard.always).has l = true → c.read (.reg .v 4 true .ident) l ≠ 0xFFFFFFFFFFFFFFFF#64) ∧
    c.sfuFree = true ∧ c.acting Guard.always = fullMask c.width :=
  ⟨issues_of (by decide), ids_of (by decide), ok_of (by decide), ok_of (by decide), by decide, by decide, by decide, by decide, by decide, by decide⟩

/-- A state whose `v4` and `v5` hold all ones. -/
def fullCounter : State :=
  (atInstr rngI).modCore 0 fun c => { c with entries := c.entries.map fun e => if e.eid = 54 ∨ e.eid = 55 then { e with value := List.replicate 32 0xFFFFFFFF#32 } else e }

theorem wit_Rng_wraps : let c := cxAt fullCounter
    Issues rngI fullCounter c ∧ IdsInv fullCounter ∧ c.checkRng (.v 16) (.v 4) .ident = .ok () ∧
    c.checkReads (rngOps (.v 16) (.v 4) .ident) Guard.always = .ok () ∧
    ∃ l, l < 64 ∧ (c.acting Guard.always).has l = true ∧ c.read (.reg .v 4 true .ident) l = 0xFFFFFFFFFFFFFFFF#64 :=
  ⟨issues_of (by decide), ids_of (by decide), ok_of (by decide), ok_of (by decide), 0, by decide, by decide, by decide⟩

/-- `CHRUN` of a chain slot. -/
def chrunI : Instr := .chrun { d := .v 3, a := .v 1, b := .v 2, c := .v 2, pa := .ident, g := Guard.always } 1
/-- `CHRUN` that has asked for current, granted or not. -/
def asked (granted : Bool) : State := (atInstr chrunI).modCore 0 fun c => { c with chrun := [(2, 0, 3, granted)] }

theorem wit_Chrun : ∀ s ∈ [atInstr chrunI, asked false, asked true], let c := cxAt s; let b := c.cst.chain c.l.ctxid 1
    let m := semChrun { d := .v 3, a := .v 1, b := .v 2, c := .v 2, pa := .ident, g := Guard.always } 1 b
    Issues chrunI s c ∧ IdsInv s ∧ b.owns c.b c.w = false ∧ LaneReady c m ∧
    c.acting m.guard ≠ 0#64 ∧ c.laneHit m = none ∧ LaneFree c m := by
  intro s hs
  simp only [List.mem_cons, List.not_mem_nil, or_false] at hs
  rcases hs with rfl | rfl | rfl <;>
    exact ⟨issues_of (by decide), ids_of (by decide), by decide, ⟨ok_of (by decide), ok_of (by decide), ok_of (by decide), fun _ => ok_of (by decide)⟩,
      by decide, none_of (by decide), .inl (by decide), .inl (by decide), .inr (by decide)⟩

/-- The key table holds the chain's key. -/
def chrunKeyed (granted : Bool) : State :=
  let c := cxAt (asked granted)
  (asked granted).modCore 0 fun x => { x with keys := [{
    key := c.keyOf (semChrun { d := .v 3, a := .v 1, b := .v 2, c := .v 2, pa := .ident, g := Guard.always } 1 (c.cst.chain c.l.ctxid 1)),
    results := [51], lastUse := 1, born := 1, watch := [], launch := none }] }

theorem wit_Chrun_hit : let s := chrunKeyed true; let c := cxAt s; let b := c.cst.chain c.l.ctxid 1
    let m := semChrun { d := .v 3, a := .v 1, b := .v 2, c := .v 2, pa := .ident, g := Guard.always } 1 b
    Issues chrunI s c ∧ IdsInv s ∧ b.owns c.b c.w = false ∧ LaneReady c m ∧ c.acting m.guard ≠ 0#64 ∧
    (∃ k, c.laneHit m = some k ∧ c.bindable k = true) ∧ c.chrunState ≠ none :=
  ⟨issues_of (by decide), ids_of (by decide), by decide, ⟨ok_of (by decide), ok_of (by decide), ok_of (by decide), fun _ => ok_of (by decide)⟩,
    by decide, ⟨_, rfl, by decide⟩, by decide⟩

theorem wit_Chrun_states : (cxAt (atInstr chrunI)).chrunState = none ∧ (cxAt (asked false)).chrunState = some false ∧
    (cxAt (asked true)).chrunState = some true := by decide

/-- The warp in a handler that traps of all its threads have entered. -/
def inHandler (s : State) : State :=
  withPages (withWarp s fun w => { w with handler := some { mask := 0xFFFFFFFF#64, others := [], loops := [], log := [], s := [] } })

theorem wit_MovShares : let f : Rr := { d := 3, a := 1, g := 7 }; let i : Instr := .mov f; let s := atInstr i; let c := cxAt s
    let m := semMov (longRr f) 1 .b32
    Issues i s c ∧ IdsInv s ∧ LaneReady c m ∧ c.acting m.guard ≠ 0#64 ∧ c.looksUp m = true ∧ (c.sharesMov m .ident).isSome = true :=
  ⟨issues_of (by decide), ids_of (by decide), ⟨ok_of (by decide), ok_of (by decide), ok_of (by decide), fun h => absurd h (by decide)⟩, by decide, by decide, by decide⟩

theorem wit_MovCopies : let f : L2u := { d := .v 3, a := .s 1, pa := .ident, g := Guard.always }; let i : Instr := .movLong f .b32
    let s := atInstr i; let c := cxAt s; let m := semMov f 2 .b32
    Issues i s c ∧ IdsInv s ∧ ((c.resolve (m.srcs.getD 0 default)).reg?).map (·.1) ≠ ((c.resolve m.dst).reg?).map (·.1) :=
  ⟨issues_of (by decide), ids_of (by decide), by decide⟩

theorem wit_Special_reads : let c := cxAt (inHandler (atInstr .nop))
    c.width ≤ 64 ∧ c.blk.num < 2 ^ 32 ∧ c.wp.idx < 2 ^ 16 ∧ c.wp.handler.isSome = true := by decide

/-- `SETSR` of a special register from `v2`. -/
def setsrI (n : BitVec 8) : Instr := .setsr n { a := .v 2, pa := .ident, g := Guard.always }

theorem wit_Setsr_flags : let s := atInstr (setsrI 0x20); let c := cxAt s; let a := aOp (.v 2) .ident
    Issues (setsrI 0x20) s c ∧ IdsInv s ∧ MemInv s ∧ c.checkOps [a] = .ok () ∧ c.checkReads [a] Guard.always = .ok () ∧
    (c.acting Guard.always).lowest = some 0 ∧ c.flagsIn = true ∧ c.boundOpen = [] :=
  ⟨issues_of (by decide), ids_of (by decide), mem_of (by decide), ok_of (by decide), ok_of (by decide), by decide, by decide, by decide⟩

/-- A handler whose frame page no entry maps. -/
def lostFrame (s : State) : State := (inHandler s).modCtx 0 0 fun c => { c with tlb := [] }

theorem wit_Setsr_trappc : ∀ s ∈ [atInstr (setsrI 0x32), inHandler (atInstr (setsrI 0x32)), lostFrame (atInstr (setsrI 0x32))], let c := cxAt s; let a := aOp (.v 2) .ident
    Issues (setsrI 0x32) s c ∧ IdsInv s ∧ MemInv s ∧ c.checkOps [a] = .ok () ∧ c.checkReads [a] Guard.always = .ok () ∧
    (c.acting Guard.always).lowest = some 0 ∧ c.frameQuiet = true := by
  intro s hs
  simp only [List.mem_cons, List.not_mem_nil, or_false] at hs
  rcases hs with rfl | rfl | rfl <;>
    exact ⟨issues_of (by decide), ids_of (by decide), mem_of (by decide), ok_of (by decide), ok_of (by decide), by decide, by decide⟩

theorem wit_Setsr_trappc_clauses : let a := cxAt (atInstr (setsrI 0x32)); let b := cxAt (inHandler (atInstr (setsrI 0x32)))
    let d := cxAt (lostFrame (atInstr (setsrI 0x32)))
    a.wp.handler = none ∧ b.wp.handler.isSome = true ∧ (b.s.frameAt b.core b.l b.wp false).isSome = true ∧
    d.wp.handler.isSome = true ∧ (d.s.frameAt d.core d.l d.wp false).isNone = true := by decide

theorem wit_Setxi : Issues (.setxi 1023) (atInstr (.setxi 1023)) (cxAt (atInstr (.setxi 1023))) ∧ IdsInv (atInstr (.setxi 1023)) ∧
    Issues (.setxiS 1 2) (atInstr (.setxiS 1 2)) (cxAt (atInstr (.setxiS 1 2))) ∧ (cxAt (atInstr (.setxiS 1 2))).readable 1 .s 1 = .ok () :=
  ⟨issues_of (by decide), ids_of (by decide), issues_of (by decide), ok_of (by decide)⟩

/-- `s1`'s entry without its value yet. -/
def pendingS : State := (atInstr (.setxiS 1 2)).modCore 0 fun c => { c with entries := c.entries.map fun e => if e.eid = 52 then { e with st := .pending } else e }

theorem wit_Setxi_waits : Issues (.setxiS 1 2) pendingS (cxAt pendingS) ∧ IdsInv pendingS ∧ ∃ e, (cxAt pendingS).readable 1 .s 1 = .error e :=
  ⟨issues_of (by decide), ids_of (by decide), _, rfl⟩

/-- `DECLW` of the range that `v4`, `v5` and a word name: the address 8 * 2^32 of `v5` and `v4`. -/
def declwI (n : Opnd) : Instr := .declw 7 (.v 4) n Guard.always
/-- Its launch in OWNCOMPAT mode. -/
def owning (n : Opnd) : State := withPacket 10 0x00000018#32 (atInstr (declwI n))
/-- The same range declared by another block. -/
def declaredTwice : State :=
  let s := owning (.v 5)
  { s with blocks := s.blocks ++ s.blocks.map fun b => { b with id := 9, num := 1, declw := [(0, 8 * 2 ^ 32, 64)] } }

theorem wit_Declw : ∀ x ∈ [(Opnd.v 5, atInstr (declwI (.v 5))), (.v 5, owning (.v 5)), (.v 4, owning (.v 4)), (.v 5, declaredTwice)], let c := cxAt x.2
    let aa : OpSpec := { o := .v 4, field := 1, pair := true, acc := genDst, rt := .w64 }
    Issues (declwI x.1) x.2 c ∧ IdsInv x.2 ∧ c.checkOps [aa, copyOp x.1 2] = .ok () ∧
    c.checkReads [aa, copyOp x.1 2] Guard.always = .ok () ∧ c.leader Guard.always = some 0 := by
  intro x hx
  simp only [List.mem_cons, List.not_mem_nil, or_false] at hx
  rcases hx with rfl | rfl | rfl | rfl <;>
    exact ⟨issues_of (by decide), ids_of (by decide), ok_of (by decide), ok_of (by decide), by decide⟩

theorem wit_Declw_clauses : let aa : OpSpec := { o := .v 4, field := 1, pair := true, acc := genDst, rt := .w64 }
    let c := cxAt (owning (.v 5)); let z := cxAt (owning (.v 4)); let e := cxAt declaredTwice
    (cxAt (atInstr (declwI (.v 5)))).l.owncompat = false ∧ c.l.owncompat = true ∧
    (c.read (c.resolve aa) 0).toNat = 8 * 2 ^ 32 ∧ c.wordAt (copyOp (.v 5) 2) 0 = 8 ∧ c.declared (8 * 2 ^ 32) 8 = false ∧
    z.wordAt (copyOp (.v 4) 2) 0 = 0 ∧ e.declared (8 * 2 ^ 32) 8 = true := by decide

theorem wit_Snap : Issues .snap (atInstr .snap) (cxAt (atInstr .snap)) ∧ IdsInv (atInstr .snap) := ⟨issues_of (by decide), ids_of (by decide)⟩

/-! Control flow: the header at code address 0 is a target, the words after the instruction are none. -/

/-- `BRA` to the header, guarded. -/
def braI (u : Bool) (g : Guard) (off : BitVec 19) : Instr := .bra u { g := g, off := off }

theorem wit_Branches_taken : let i := braI false odd 0x7FFFF; let s := withHeader (atInstr i); let c := cxAt s
    Issues i s c ∧ IdsInv s ∧ c.checkReads [] odd = .ok () ∧ c.acting odd ≠ 0#64 ∧ c.acting odd ≠ c.active ∧
    c.pt.pc + (0x7FFFF#19).signExtend 32 * 4#32 = 0#32 ∧ c.header? 0#32 = .ok true ∧ Plain c (c.after 1) :=
  ⟨issues_of (by decide), ids_of (by decide), ok_of (by decide), by decide, by decide, by decide, rfl, by decide, by decide, by decide,
    by decide, by decide, by decide⟩

theorem wit_Branches_trap : let i := braI false Guard.always 1; let s := withHeader (atInstr i); let c := cxAt s
    Issues i s c ∧ IdsInv s ∧ c.checkReads [] Guard.always = .ok () ∧ c.acting Guard.always ≠ 0#64 ∧
    c.pt.pc + (1#19).signExtend 32 * 4#32 = 8#32 ∧ c.header? 8#32 = .ok false :=
  ⟨issues_of (by decide), ids_of (by decide), ok_of (by decide), by decide, by decide, rfl⟩

theorem wit_Branches_uniform : let i := braI true odd 0x7FFFF; let s := withHeader (atInstr i); let c := cxAt s
    Issues i s c ∧ c.checkReads [] odd = .ok () ∧ c.acting odd ≠ 0#64 ∧ c.acting odd ≠ c.active :=
  ⟨issues_of (by decide), ok_of (by decide), by decide, by decide⟩

/-- `BRX` and `RET` through `v4`, which is 0 in every lane. -/
theorem wit_Branches_register : ∀ i ∈ [Instr.brx 4 1, .ret 4 1], let s := withHeader (atInstr i); let c := cxAt s
    Issues i s c ∧ IdsInv s ∧ c.checkOps [brxOp 4] = .ok () ∧ c.checkReads [brxOp 4] (shortGuard 1) = .ok () ∧
    (c.acting (shortGuard 1)).has 1 = true ∧ (∀ l, l < 64 → (c.acting (shortGuard 1)).has l = true → (c.read (.reg .v 4 false .ident) l).lo = 0#32) ∧
    c.header? 0#32 = .ok true ∧ c.wp.paths = [c.pt] := by
  intro i hi
  simp only [List.mem_cons, List.not_mem_nil, or_false] at hi
  rcases hi with rfl | rfl <;>
    exact ⟨issues_of (by decide), ids_of (by decide), ok_of (by decide), ok_of (by decide), by decide, by decide, rfl, by decide⟩

theorem wit_Call : let i : Instr := .call { g := odd, off := 0x7FFFF }; let s := withHeader (atInstr i); let c := cxAt s
    Issues i s c ∧ IdsInv s ∧ c.checkReads [] odd = .ok () ∧ c.acting odd ≠ 0#64 ∧ c.header? 0#32 = .ok true ∧
    c.allMergeable (c.acting odd) [(.v, 0)] = .ok () ∧ Plain c (c.after 1) :=
  ⟨issues_of (by decide), ids_of (by decide), ok_of (by decide), by decide, rfl, ok_of (by decide), by decide, by decide, by decide, by decide, by decide, by decide⟩

/-- Guarded by the inverse of `p2`, which no instruction has written: it reads as 0, so `GN` clear acts in no lane. -/
theorem wit_Call_none : let g : Guard := { p := 2, neg := false }; let i : Instr := .call { g := g, off := 0x7FFFF }; let s := withHeader (atInstr i); let c := cxAt s
    Issues i s c ∧ IdsInv s ∧ c.checkReads [] g = .ok () ∧ c.acting g = 0#64 :=
  ⟨issues_of (by decide), ids_of (by decide), ok_of (by decide), by decide⟩

theorem wit_Meet : let i : Instr := .meet { g := odd, off := 0x7FFFF }; let s := withHeader (atInstr i); let c := cxAt s
    Issues i s c ∧ c.checkReads [] odd = .ok () ∧ c.acting odd ≠ 0#64 ∧ c.header? 0#32 = .ok true :=
  ⟨issues_of (by decide), ok_of (by decide), by decide, rfl⟩

/-- A header at the word that a `LOOP` of 0 words after it ends at. -/
def loopState (count : LoopCount) (map : Word) : State :=
  (atInstr (.loop 2 3 count)).modCore 0 fun c => { c with icache := c.icache.map fun k => { k with map := map } }

theorem wit_Loop : ∀ x ∈ [(LoopCount.imm 5#32, 0xFF#32, true, 5#32), (.sreg 1, 0xFF#32, true, 7#32), (.imm 0#32, 0xFF#32, true, 0#32), (.imm 1#32, 0#32, false, 1#32)],
    let s := loopState x.1 x.2.1; let c := cxAt s
    Issues (.loop 2 3 x.1) s c ∧ IdsInv s ∧ c.loopCount x.1 = .ok x.2.2.2 ∧ c.header? (c.after 2 + 16#32) = .ok x.2.2.1 := by
  intro x hx
  simp only [List.mem_cons, List.not_mem_nil, or_false] at hx
  rcases hx with rfl | rfl | rfl | rfl <;> exact ⟨issues_of (by decide), ids_of (by decide), rfl, rfl⟩

/-- A second warp of the block, live and not held. -/
def twoWarps (s : State) : State := withBlock s fun b => { b with warps := b.warps ++ b.warps.map fun w => { w with idx := 1, slot := 1 } }
/-- The launch in DET mode. -/
def detMode (s : State) : State := withPacket 10 0x00000011#32 s

theorem wit_NopYield : ∀ i ∈ [Instr.nop, .yieldTurn, .kstep], Issues i (atInstr i) (cxAt (atInstr i)) ∧ (cxAt (atInstr i)).det = false ∧
    Issues i (detMode (atInstr i)) (cxAt (detMode (atInstr i))) ∧ (cxAt (detMode (atInstr i))).det = true := by
  intro i hi
  simp only [List.mem_cons, List.not_mem_nil, or_false] at hi
  rcases hi with rfl | rfl | rfl <;> exact ⟨issues_of (by decide), by decide, issues_of (by decide), by decide⟩

theorem wit_Kstep : let s := detMode (twoWarps (atInstr .kstep)); let c := cxAt s
    Issues .kstep s c ∧ c.det = true ∧ c.allPerformed = true ∧
    (∃ w ∈ c.blk.warps, w.idx ≠ c.w ∧ w.live ≠ 0#64 ∧ ∀ p ∈ w.allPaths, p.hold = none) ∧
    (∀ w ∈ c.blk.warps, ∀ w' ∈ c.blk.warps, w.idx = w'.idx → w = w') :=
  ⟨issues_of (by decide), by decide, by decide, by decide, by decide⟩

theorem wit_Bar_holds : ∀ span ∈ [true, false], let s := twoWarps (atInstr (.bar span)); let c := cxAt s
    Issues (.bar span) s c ∧ c.det = false ∧ c.allPerformed = true ∧
    (∃ w ∈ c.blk.warps, w.idx ≠ c.w ∧ w.live ≠ 0#64 ∧ ∀ p ∈ w.allPaths, p.hold = none) ∧
    (∀ w ∈ c.blk.warps, ∀ w' ∈ c.blk.warps, w.idx = w'.idx → w = w') := by
  intro span h
  simp only [List.mem_cons, List.not_mem_nil, or_false] at h
  rcases h with rfl | rfl <;> exact ⟨issues_of (by decide), by decide, by decide, by decide, by decide⟩

/-- A block of four warps: the second waits at the barrier, the third has exited; a second block of its span of 2, whose warps wait. -/
def gathering (span det : Bool) : State :=
  let h : Hold := if span then .span else .bar
  let waits := fun (w : Warp) => { w with paths := w.paths.map fun p => { p with hold := some h } }
  let s := (withPacket 10 (if det then 0x00000011#32 else 0x00000010#32) (withPacket 5 0x00020000#32 (atInstr (.bar span)))).modBlock 2 fun b => { b with
    warps := b.warps ++ b.warps.map (fun w => { waits w with idx := 1, slot := 1 }) ++
      b.warps.map fun w => { w with idx := 2, slot := 2, paths := [], threads := w.threads.map fun t => { t with exited := true } } }
  { s with blocks := s.blocks ++ s.blocks.map fun b => { b with id := 9, num := 1, warps := (b.warps.take 1).map waits } }

/-- What a rendezvous asks, by computation. -/
def gathered (span : Bool) (s : State) : Bool :=
  let c := cxAt s; let h : Hold := if span then .span else .bar
  (if span then s.spanBlocks c.b else [c.blk]).all fun x => !x.saved && !s.flipping x.id && s.releaseFree x && x.warps.all fun w =>
    (x.id == c.b && w.idx == c.w) || (w.exited && w.paths.isEmpty) || match w.paths with
      | [p] => p.hold == some h && p.park.isNone && p.mask == w.live && w.handler.isNone && w.threads.all (·.mr.isNone) && w.loops.all fun r => r.stop != p.pc + 4#32
      | _ => false

theorem wit_Bar_rendezvous : ∀ x ∈ [(false, false), (true, false), (false, true), (true, true)], let s := gathering x.1 x.2; let c := cxAt s
    Issues (.bar x.1) s c ∧ IdsInv s ∧ s.numbered ∧ c.allPerformed = true ∧ Plain c (c.after 1) ∧ c.wp.live = c.pt.mask ∧ c.pt.mask ≠ 0#64 ∧ c.det = x.2 ∧
    gathered x.1 s = true ∧ (s.spanBlocks c.b).length = 2 := by
  intro x h
  simp only [List.mem_cons, List.not_mem_nil, or_false] at h
  rcases h with rfl | rfl | rfl | rfl <;>
    exact ⟨issues_of (by decide), ids_of (by decide), ⟨by decide, by decide⟩, by decide, ⟨by decide, by decide, by decide, by decide, by decide, by decide⟩,
      by decide, by decide, by decide, by decide, by decide⟩

theorem wit_Bar_completes : let s := atInstr (.bar false); let c := cxAt s
    Issues (.bar false) s c ∧ IdsInv s ∧ c.allPerformed = true ∧ c.det = false ∧ c.blk.warps = [c.wp] ∧ c.wp.idx = c.w ∧ Plain c (c.after 1) ∧
    c.wp.live = c.pt.mask ∧ c.pt.mask ≠ 0#64 ∧ c.blk.saved = false ∧ s.flipping c.b = false ∧ s.releaseFree c.blk = true ∧ s.blocks.filter (fun x => x.id == c.b) = [c.blk] :=
  ⟨issues_of (by decide), ids_of (by decide), by decide, by decide, by decide, by decide, ⟨by decide, by decide, by decide, by decide, by decide, by decide⟩,
    by decide, by decide, by decide, by decide, by decide, by decide⟩

/-- An access of the warp that is not performed. -/
def pending (s : State) (a : Access) : State := withWarp s fun w => { w with pend := [a] }
/-- A pending store of one lane's word to the block's shared memory. -/
def storeAccess : Access :=
  { (default : Access) with serial := 60, kind := .store .b32 false, lanes := 1#64, lane := 0, place := .shared 2, addr := 64, size := 4, data := [1#8, 2#8, 3#8, 4#8], group := 60 }

theorem wit_Bar_waits : let s := pending (atInstr (.bar false)) storeAccess; let c := cxAt s
    Issues (.bar false) s c ∧ c.allPerformed = false := ⟨issues_of (by decide), by decide⟩

theorem wit_Exit : let s := atInstr (.exit 1); let c := cxAt s
    Issues (.exit 1) s c ∧ IdsInv s ∧ c.checkReads [] (shortGuard 1) = .ok () ∧ c.wp.helpers = 0#64 ∧ Plain c (c.after 1) ∧
    c.wp.threads.length ≤ 64 ∧ c.acting (shortGuard 1) ≠ 0#64 ∧ c.acting (shortGuard 1) ≠ c.active :=
  ⟨issues_of (by decide), ids_of (by decide), ok_of (by decide), by decide, ⟨by decide, by decide, by decide, by decide, by decide, by decide⟩,
    by decide, by decide, by decide⟩

/-- The second quad's last three threads are helpers, and in the other state so are all of the first but thread 0, which acts. -/
def withHelpers (ls : List Nat) (s : State) : State :=
  withWarp s fun w => { w with threads := (List.range 32).map fun l => { w.threads.getD l default with helper := ls.contains l } }

theorem wit_Exit_helpers : let s := withHelpers [0, 2, 5, 6, 7] (atInstr (.exit 1)); let c := cxAt s
    Issues (.exit 1) s c ∧ IdsInv s ∧ c.checkReads [] (shortGuard 1) = .ok () ∧ c.wp.threads.length ≤ 64 ∧ Plain c (c.after 1) ∧
    c.wp.helpers = 0xE5#64 ∧ ((c.acting (shortGuard 1)).has 1 && (c.acting (shortGuard 1)).has 3 && !(c.acting (shortGuard 1)).has 4) = true :=
  ⟨issues_of (by decide), ids_of (by decide), ok_of (by decide), by decide, ⟨by decide, by decide, by decide, by decide, by decide, by decide⟩, by decide, by decide⟩

theorem wit_Exit_handler : let s := inHandler (atInstr (.exit 1)); let c := cxAt s
    Issues (.exit 1) s c ∧ IdsInv s ∧ c.checkReads [] (shortGuard 1) = .ok () ∧ c.wp.threads.length ≤ 64 ∧ c.wp.handler.isSome = true :=
  ⟨issues_of (by decide), ids_of (by decide), ok_of (by decide), by decide, by decide⟩

theorem wit_SoftwareTraps_debug : let i : Instr := .bkpt 1023; let s := (atInstr i).modCtx 0 0 fun c => { c with debug := true }; let c := cxAt s
    Issues i s c ∧ (s.ctx c.l.fn c.l.ctx).debug = true := ⟨issues_of (by decide), by decide⟩

theorem wit_SoftwareTraps : ∀ i ∈ [Instr.bkpt 1023, .trap 5], ((atInstr i).ctx (cxAt (atInstr i)).l.fn (cxAt (atInstr i)).l.ctx).debug = false ∧
    (inHandler (atInstr i)).uncompared ∧ Issues i (atInstr i) (cxAt (atInstr i)) ∧
    Issues i (inTx (atInstr i)) (cxAt (inTx (atInstr i))) ∧ (cxAt (inTx (atInstr i))).inTx = true ∧
    Issues i (inHandler (atInstr i)) (cxAt (inHandler (atInstr i))) ∧ (cxAt (inHandler (atInstr i))).inTx = false ∧
    (cxAt (inHandler (atInstr i))).wp.handler.isSome = true := by
  intro i hi
  simp only [List.mem_cons, List.not_mem_nil, or_false] at hi
  rcases hi with rfl | rfl <;> exact ⟨by decide, uncompared_of (by decide), issues_of (by decide), issues_of (by decide), by decide, issues_of (by decide), by decide, by decide⟩

/-- Half of the warp's threads are another path. -/
def twoPaths (s : State) : State :=
  withWarp s fun w => { w with paths := w.paths.flatMap fun p => [{ p with mask := 0xFFFF#64 }, { p with id := 5, mask := 0xFFFF0000#64, pc := 8#32 }] }
/-- Registers that are saved: one by number, and what it asks. -/
def savesNow (c : Cx) (cls : RegClass) (n : Nat) : Bool :=
  c.wp.absent.isEmpty && c.pt.sAbsent.isEmpty && (match cls with | .v => c.wp.v | .s => c.pt.s | .p => c.wp.p).all fun k => k.1 != n || c.cst.isReady k.2

theorem wit_TrapEntry : ∀ s ∈ [withPages (atInstr (.trap 5)), twoPaths (withPages (atInstr (.trap 5)))], let c := cxAt s
    s.cx = some c ∧ IdsInv s ∧ MemInv s ∧ c.inTx = false ∧ c.wp.quiet = true ∧ c.wp.handler = none ∧ s.uncompared ∧
    c.wp.paths.filter (fun p => p.id == c.pid) = [c.pt] ∧
    c.blk.ended = false ∧ s.vword (some c.core) c.l.fn c.l.ctx ((s.ctx c.l.fn c.l.ctx).vecbase.toNat + 4 * 0x19) = some 0#32 ∧
    (s.place (some c.core) c.l.fn c.l.ctx (s.frameVa c.l c.wp false)).isSome = true ∧ s.fillsLost c.b c.w = false ∧
    (c.pt.clause.all fun k => decide (k.done < 15)) = true ∧ c.wp.absent = [] ∧
    (savesNow c .v 1 && savesNow c .v 127 && savesNow c .s 1 && savesNow c .p 1) = true := by
  intro s hs
  simp only [List.mem_cons, List.not_mem_nil, or_false] at hs
  rcases hs with rfl | rfl <;>
    exact ⟨some_of (by decide), ids_of (by decide), mem_of (by decide), by decide, by decide, by decide, uncompared_of (by decide), by decide, by decide,
      by decide, by decide, by decide, by decide, by decide, by decide⟩

/-- The vector table's entries are NONE. -/
def noVectors (s : State) : State := { withPages s with scratch := Memory.setBytes [] 0 (List.replicate 128 0xFF#8) }

theorem wit_TrapsThatKill : let s := noVectors (atInstr (.trap 5)); let c := cxAt s; let h := cxAt (inHandler (atInstr (.trap 5)))
    s.cx = some c ∧ s.uncompared ∧ c.inTx = false ∧ c.wp.handler = none ∧ c.wp.quiet = true ∧
    s.vword (some c.core) c.l.fn c.l.ctx ((s.ctx c.l.fn c.l.ctx).vecbase.toNat + 4 * 0x19) = some 0xFFFFFFFF#32 ∧
    (s.place (some c.core) c.l.fn c.l.ctx (s.frameVa c.l c.wp false)).isSome = true ∧ h.inTx = false ∧ h.wp.handler.isSome = true ∧ (inHandler (atInstr (.trap 5))).uncompared :=
  ⟨some_of (by decide), uncompared_of (by decide), by decide, by decide, by decide, by decide, by decide, by decide, by decide, uncompared_of (by decide)⟩

/-- A register to be filled, from a slot that is poisoned. -/
def poisonedSlot : State :=
  { withWarp (withPages (atInstr (.trap 5))) fun w => { w with absent := [(.v, 7, 0)] } with badBytes := [lineAddr false (slotOf .v 7)] }

theorem wit_TrapsThatKill_lost : let c := cxAt poisonedSlot
    poisonedSlot.cx = some c ∧ c.inTx = false ∧ c.wp.quiet = true ∧ poisonedSlot.framesTrap c 0x19 = true ∧ poisonedSlot.uncompared ∧ poisonedSlot.numbered ∧
    (poisonedSlot.drain c.core c.b c.w).fillsLost c.b c.w = true :=
  ⟨some_of (by decide), by decide, by decide, by decide, uncompared_of (by decide), ⟨by decide, by decide⟩, by decide⟩

theorem wit_Rte_outside : Issues .rte (atInstr .rte) (cxAt (atInstr .rte)) ∧ (cxAt (atInstr .rte)).wp.handler = none :=
  ⟨issues_of (by decide), by decide⟩

/-- A handler whose frame, at address 0, names the header at code address 0 as the place to go on at. -/
def atRte : State := withHeader (inHandler (atInstr .rte))

theorem wit_Rte : let c := cxAt atRte
    Issues .rte atRte c ∧ IdsInv atRte ∧ c.wp.handler.map (·.others) = some [] ∧ c.frameQuiet = true ∧ c.frameLost 0 0x800 = false ∧ atRte.uncompared ∧ ∃ pc cl, c.resumeAt = .ok (pc, cl) :=
  ⟨issues_of (by decide), ids_of (by decide), by decide, by decide, by decide, uncompared_of (by decide), _, _, rfl⟩

/-- A handler of the first quad, whose frame holds NONE as its threads' meeting registers; the others are a path that stopped. -/
def atRteOthers : State :=
  let s := withWarp atRte fun w => { w with
    handler := some { mask := 0xF#64, others := w.paths.map fun p => { p with id := 5, mask := 0xFFFFFFF0#64, pc := 8#32 }, loops := [], log := [], s := [] }
    paths := w.paths.map fun p => { p with mask := 0xF#64 } }
  { s with scratch := (List.range 4).foldl (fun m l => m.setWord (0x84 + 16 * l) 0xFFFFFFFF#32) s.scratch }

theorem wit_Rte_others : let c := cxAt atRteOthers
    Issues .rte atRteOthers c ∧ IdsInv atRteOthers ∧ c.frameQuiet = true ∧ c.frameLost 0 0x800 = false ∧ atRteOthers.uncompared ∧ (∃ pc cl, c.resumeAt = .ok (pc, cl)) ∧
    ∃ h, c.wp.handler = some h ∧ h.others ≠ [] ∧ (∀ l, l < 64 → (h.mask &&& c.wp.live).has l = true → c.frameWord (0x84 + 16 * l) = 0xFFFFFFFF#32) ∧
      (h.others.map (·.id)).Nodup ∧ ∀ q ∈ h.others, q.id < atRteOthers.serial ∧ q.hold ≠ some .meet ∧ q.hold ≠ some .passed ∧
        q.mask &&& h.mask = 0#64 ∧ ∀ q' ∈ h.others, q'.mask &&& q.mask ≠ 0#64 → q' = q :=
  ⟨issues_of (by decide), ids_of (by decide), by decide, by decide, uncompared_of (by decide), ⟨_, _, rfl⟩, _, rfl, by decide, by decide +kernel, by decide,
    by decide⟩

theorem wit_Rte_lost : let s := lostFrame (atInstr .rte); let c := cxAt s
    Issues .rte s c ∧ c.wp.handler.isSome = true ∧ c.frameQuiet = true ∧ c.frameLost 0 0x800 = true :=
  ⟨issues_of (by decide), by decide, by decide, by decide⟩

/-! Transactions. -/

/-- The transaction of the warp changed. -/
def txWith (s : State) (f : Tx → Tx) : State := withWarp (inTx s) fun w => { w with tx := w.tx.map f }
/-- `TRY` with its label at the header. -/
def tryI : Instr := .tryTx true 0x7FFFF
/-- A path that holds some of the warp's threads. -/
def halfPath (s : State) : State := withWarp s fun w => { w with paths := w.paths.map fun p => { p with mask := 0xFFFF#64 } }

/-- A register of the warp is not filled yet. -/
def lacking (s : State) : State := withWarp s fun w => { w with absent := [(.v, 7, 1)] }

theorem wit_Try : ∀ s ∈ [withHeader (atInstr tryI), withHeader (halfPath (atInstr tryI)), inTx (atInstr tryI), txWith (atInstr tryI) fun t => { t with depth := 4 },
    lacking (withHeader (atInstr tryI))],
    Issues tryI s (cxAt s) ∧ IdsInv s := by
  intro s hs
  simp only [List.mem_cons, List.not_mem_nil, or_false] at hs
  rcases hs with rfl | rfl | rfl | rfl | rfl <;> exact ⟨issues_of (by decide), ids_of (by decide)⟩

theorem wit_Try_clauses : let c := cxAt (withHeader (atInstr tryI)); let d := cxAt (withHeader (halfPath (atInstr tryI)))
    c.pt.pc + (0x7FFFF#19).signExtend 32 * 4#32 = 0#32 ∧ c.header? 0#32 = .ok true ∧ c.wp.tx = none ∧ c.pt.mask = c.wp.live ∧ c.anyAbsent = none ∧
    (cxAt (lacking (withHeader (atInstr tryI)))).anyAbsent.isSome = true ∧
    d.header? 0#32 = .ok true ∧ d.wp.tx = none ∧ d.pt.mask ≠ d.wp.live ∧ (cxAt (inTx (atInstr tryI))).wp.tx.map (·.depth) = some 1 ∧
    (cxAt (txWith (atInstr tryI) fun t => { t with depth := 4 })).wp.tx.map (·.depth) = some 4 :=
  ⟨by decide, rfl, by decide, by decide, by decide, by decide, rfl, by decide, by decide, by decide, by decide⟩

theorem wit_Abort : ∀ s ∈ [atInstr (.abort 255), inTx (atInstr (.abort 255))], Issues (.abort 255) s (cxAt s) := by
  intro s hs
  simp only [List.mem_cons, List.not_mem_nil, or_false] at hs
  rcases hs with rfl | rfl <;> exact issues_of (by decide)

theorem wit_Abort_clauses : (cxAt (atInstr (.abort 255))).inTx = false ∧ (cxAt (inTx (atInstr (.abort 255)))).inTx = true := by decide

theorem wit_Commit : ∀ s ∈ [atInstr .commit, inTx (atInstr .commit), inTx (halfPath (atInstr .commit)), txWith (atInstr .commit) fun t => { t with depth := 2 }],
    Issues .commit s (cxAt s) ∧ IdsInv s := by
  intro s hs
  simp only [List.mem_cons, List.not_mem_nil, or_false] at hs
  rcases hs with rfl | rfl | rfl | rfl <;> exact ⟨issues_of (by decide), ids_of (by decide)⟩

theorem wit_Commit_clauses : (cxAt (atInstr .commit)).wp.tx = none ∧
    (cxAt (inTx (atInstr .commit))).wp.tx.map (·.depth) = some 1 ∧ (cxAt (inTx (atInstr .commit))).holdsAll = true ∧
    (cxAt (inTx (halfPath (atInstr .commit)))).holdsAll = false ∧
    (cxAt (txWith (atInstr .commit) fun t => { t with depth := 2 })).wp.tx.map (·.depth) = some 2 := by decide

theorem wit_Checkpoint : let s := inTx (atInstr .nop); let c := cxAt s
    s.cx = some c ∧ IdsInv s ∧ c.wp.tx.isSome = true ∧ c.wp.handler = none :=
  ⟨some_of (by decide), ids_of (by decide), by decide, by decide⟩

/-- A launch whose warps have a stack of 1 KiB. -/
def withStack (s : State) : State := withPacket 8 0x00800001#32 s

/-- No link of the package is up. -/
def cutPackage (s : State) : State := s.modPkg 0 fun p => { p with zhobor := List.finRange 16 }

/-- A transaction at its commit point, with one byte of each space in its write buffer. -/
def committing (conflict : Bool) : State :=
  txWith (withStack (withPages (atInstr .nop))) fun t => { t with committing := true, conflict := conflict, writes :=
    [{ space := 0, addr := 64, val := 7#8, lanes := 1, shared := true }, { space := 1, addr := 4096, val := 8#8, lanes := 1, shared := false },
     { space := 3, addr := 64, val := 9#8, lanes := 1, shared := false }] }
/-- One that writes a package with no path to it, and one whose pool page is not mapped. -/
def commitLostStates : List State :=
  [cutPackage <| txWith (committing false) fun t => { t with committing := true, writes := [{ space := 1, addr := 2 ^ 29, val := 8#8, lanes := 1, shared := false }] },
   (committing false).modCtx 0 0 fun c => { c with tlb := [] }]

/-- The path at its commit point. -/
def commitCx (s : State) : Cx := (s.cxOf 2 0 3).getD default

/-- What a commit point asks of the state and of the issuing path. -/
def CommitFits (s : State) (conflict clear : Bool) : Prop := let c := commitCx s
  s.cxOf 2 0 3 = some c ∧ c.wp.tx.map (·.committing) = some true ∧ c.wp.tx.map (·.conflict) = some conflict ∧ c.blk.saved = false ∧
  c.wp.paths.find? (fun p => p.hold.isNone && p.park.isNone) = some c.pt ∧ MemInv s ∧ IdsInv s ∧
  c.wp.tx.map (s.commitClear 2 c.wp) = some clear

theorem wit_CommitPoint_conflict : CommitFits (committing true) true true :=
  ⟨some_of (by decide), by decide, by decide, by decide, by decide, mem_of (by decide), ids_of (by decide), by decide⟩

/-- An earlier store of the warp is not performed. -/
theorem wit_CommitPoint_waits : CommitFits (pending (committing false) storeAccess) false false :=
  ⟨some_of (by decide), by decide, by decide, by decide, by decide, mem_of (by decide), ids_of (by decide), by decide⟩

theorem wit_CommitPoint_lost : ∀ s ∈ commitLostStates, CommitFits s false true ∧
    (commitCx s).wp.tx.all (fun t => s.commitLost 2 t || t.writes.any fun x => x.space == 3 && (s.stackPa 0 (commitCx s).l (commitCx s).wp x.addr).isNone) = true := by
  intro s hs
  simp only [commitLostStates, List.mem_cons, List.not_mem_nil, or_false] at hs
  rcases hs with rfl | rfl <;>
    exact ⟨⟨some_of (by decide), by decide, by decide, by decide, by decide, mem_of (by decide), ids_of (by decide), by decide⟩, by decide⟩

theorem wit_CommitPoint : let s := committing false; let c := commitCx s
    CommitFits s false true ∧ c.l.det = false ∧ c.l.contained = false ∧ c.blk.release = [] ∧ s.releaseUsed c.core ≤ 65536 ∧
    ∀ t ∈ c.wp.tx, s.commitLost 2 t = false ∧ (∀ x ∈ t.writes, x.space = 3 → (s.stackPa c.core c.l c.wp x.addr).isSome = true) ∧
      (∀ x ∈ t.writes, x.space = 0 ∨ x.space = 1 ∨ x.space = 3) ∧
      ∀ x ∈ t.writes, ∀ y ∈ t.writes, x.space = y.space → x.addr = y.addr → x.val = y.val :=
  ⟨⟨some_of (by decide), by decide, by decide, by decide, by decide, mem_of (by decide), ids_of (by decide), by decide⟩,
    by decide, by decide, by decide, by decide, by decide⟩

/-- Half of its threads have rolled back, and wait at the label. -/
theorem wit_CommitPoint_rolled : let s := withWarp (committing false) fun w => { w with txlanes := 0xFFFF0000#64, paths := w.paths.flatMap fun p =>
      [{ p with mask := 0xFFFF#64 }, { p with id := 5, mask := 0xFFFF0000#64, pc := 8#32, clause := none, hold := some .rolled }] }
    let c := commitCx s
    CommitFits s false true ∧ c.wp.txlanes ≠ 0#64 ∧ (c.wp.paths.map (·.id)).Nodup ∧ ∀ t ∈ c.wp.tx, ∀ p ∈ c.wp.paths, p = c.pt ∨
      p.hold = some .rolled ∧ p.pc = t.label ∧ p.clause = none ∧ p.mask &&& c.pt.mask = 0#64 :=
  ⟨⟨some_of (by decide), by decide, by decide, by decide, by decide, mem_of (by decide), ids_of (by decide), by decide⟩, by decide, by decide, by decide⟩

/-! Lanes that roll back alone. -/

/-- A load at the addresses in `v1`, whose odd lanes are misaligned, in a `TRY.L` region. -/
def rollI : Instr := .ldLong .sh .s16 false { d := .v 3, a := .v 1, pa := .ident, g := Guard.always } 4
/-- Its body. -/
def rollBody (c : Cx) : Except Stop State := runLoad rollI .sh .s16 false { d := .v 3, a := .v 1, pa := .ident, g := Guard.always } 4 2 c
/-- The region, with bytes in its write buffer. -/
def inTryL (ws : List TxByte) : State := txWith (atInstr rollI) fun t => { t with lane := true, writes := ws }
/-- The lanes that a body fails for, with cause and detail. -/
def laneTrapOf : Except Stop State → Option (Nat × Nat × Mask)
  | .error (.laneTrap x y m) => some (x, y, m)
  | _ => none

theorem laneTrap_of {r : Except Stop State} {x y : Nat} {m : Mask} (h : laneTrapOf r = some (x, y, m)) : r = .error (.laneTrap x y m) := by
  unfold laneTrapOf at h
  split at h <;> simp_all

/-- Nothing is known against it; a byte of lane 1 over another lane's; a register changed in the region whose result is not known. -/
def rollStates : List State :=
  [inTryL [], inTryL [{ space := 0, addr := 64, val := 7#8, lanes := 2, shared := true }],
   ((withWarp (inTryL []) fun w => { w with v := (9, 58) :: w.v.filter (·.1 != 9) }).modCore 0 fun c => { c with
      entries := c.entries.map fun e => if e.eid = 58 then { e with st := .pending, known := false } else e })]

theorem wit_LanesRollBack : ∀ s ∈ rollStates, let c := cxAt s; let lanes := 0xAAAAAAAA#64
    Issues rollI s c ∧ IdsInv s ∧ exec rollI s = issue rollI s rollBody ∧ c.wp.tx.map (·.lane) = some true ∧ c.pt.mask &&& lanes = lanes ∧
    c.pt.mask &&& ~~~ lanes ≠ 0#64 ∧ (c.wp.paths.map (·.id)).Nodup ∧ (∀ p ∈ c.wp.paths, p.id < s.serial) ∧
    rollBody (c.begun rollI) = .error (.laneTrap 0x0A 0 lanes) := by
  intro s hs
  simp only [rollStates, List.mem_cons, List.not_mem_nil, or_false] at hs
  rcases hs with rfl | rfl | rfl <;>
    exact ⟨issues_of (by decide), ids_of (by decide), rfl, by decide, by decide, by decide, by decide, by decide, laneTrap_of (by decide)⟩

/-- The transaction of a state's warp. -/
def rollTx (s : State) : Tx := ((cxAt s).wp.tx).getD default

theorem wit_LanesRollBack_clauses : rollStates.map (fun s => (((cxAt s).begun rollI).mustAbort (rollTx s) 0xAAAAAAAA#64, ((cxAt s).begun rollI).unknownRegs (rollTx s))) =
      [(false, false), (true, false), (false, true)] ∧
    (cxAt (inTryL [])).wp.absent = [] ∧ ∃ v, rollBody (((cxAt (inTryL [])).begun rollI).withoutLanes (rollTx (inTryL [])) 0x0A 0xAAAAAAAA#64) = .ok v :=
  ⟨by decide, by decide, _, rfl⟩

theorem wit_LanesRollBack_regs : IdsInv (inTryL []) ∧ ((inTryL []).block? 2).isSome = true ∧ ((inTryL []).block 2).ended = false ∧
    ((inTryL []).warp 2 0).tx = some (rollTx (inTryL [])) := ⟨ids_of (by decide), by decide, by decide, some_of (by decide)⟩

/-! Loads, stores, atomics. -/

/-- A load of `v3` at the address in `v6`. -/
def ldI (space : Space) (f : L2u) : Instr := .ldLong space .s16 false f 4
/-- Its operands: of `.sp` the pair `v4`, `v5`; else `v6`. -/
def ldF (o : Opnd) : L2u := { d := .v 3, a := o, pa := .ident, g := Guard.always }

/-- The lanes of the load that take part. -/
def ldXs (space : Space) (o : Opnd) (s : State) : List (Nat × LaneAddr) := let c := cxAt s
  (c.targets space (.load .s16) 2 (addrOp o .ident space) 4 (c.acting Guard.always)).filter fun x =>
    match x.2 with | .ok _ => true | _ => !c.wp.helpers.has x.1
/-- Its accesses. -/
def ldAs (space : Space) (o : Opnd) (s : State) : List Access :=
  mkAccs s.serial ((cxAt s).access (ldXs space o s) (addrOp o .ident space) 4 2 s.serial (.load .s16 false) [] []) ((ldXs space o s).map fun x => x.1)
/-- What a load's checks ask, before its translations are looked at. -/
def LoadStarts (space : Space) (o : Opnd) (s : State) : Prop := let c := cxAt s; let i := ldI space (ldF o); let a := addrOp o .ident space
  ldForm i = some (space, .s16, false, ldF o, 4, 2) ∧ Issues i s c ∧ IdsInv s ∧ c.checkOps [dOp (.v 3) onlyV false, a] = .ok () ∧
  c.checkReads [a] Guard.always = .ok () ∧ c.acting Guard.always ≠ 0#64
/-- Does the load read, or look a key up, as it issues? -/
def ldNow (space : Space) (o : Opnd) (s : State) : Bool := let c := cxAt s
  space != .stk && (c.atOnce space || c.loadLooksUp space (c.acting Guard.always) (okLanes (ldXs space o s)))
/-- What a load's checks ask. -/
def LoadFits (space : Space) (o : Opnd) (s : State) : Prop := let c := cxAt s; let a := addrOp o .ident space
  let xs := ldXs space o s; let as := ldAs space o s
  LoadStarts space o s ∧ laneFault xs = none ∧ missing xs = [] ∧
  c.checkTx space 0xBD 2 (okLanes xs) = .ok () ∧ c.wp.canPark = true ∧ c.checkQuiet space as = .ok () ∧ c.stackMapped (okLanes xs) 2 true = true ∧
  (c.atOnce space = true → space ≠ .stk → c.lostNow as = false) ∧ (∀ x ∈ okLanes xs, c.ownWrites x.2 (c.addrOf a 4 x.1) 2 = false) ∧
  (ldNow space o s = true → s.needsFlush c.b c.w as = false ∨ s.flushClear c.core = true) ∧ c.checkBoard 2 true (okLanes xs) = .ok () ∧
  c.acting Guard.always = fullMask c.width
/-- The key that the load would bind to. -/
def ldHit (space : Space) (o : Opnd) (s : State) : Option KeyRec := let c := cxAt s; let a := addrOp o .ident space; let xs := okLanes (ldXs space o s)
  let t := (if ldNow space o s then c.at (s.flushFor c.b c.w (ldAs space o s)) else c).s
  if c.loadLooksUp space (c.acting Guard.always) xs then c.lookup t (c.loadKey space .s16 false a 4 xs 1) else none
/-- The read set after it. -/
def ldReads (space : Space) (o : Opnd) (s : State) : Option Nat :=
  (cxAt s).wp.tx.map fun t => (t.joinReads ((okLanes (ldXs space o s)).map fun x => (x.2.space, x.2.addr, x.2.span 2))).reads.length

/-- The block of a CONTAINED launch holds a write in its release buffer. -/
def buffering (x : Buffered) (s : State) : State := withPacket 10 0x00000014#32 (withBlock s fun b => { b with release := [x] })
/-- A reduction that is not yet performed, on the word at 128, and one that is performed later in the bytes at 132 too. -/
def aReduction : Buffered :=
  { warp := 0, group := 61, so := false, place := .shared 2, addr := 128, bytes := [5#8, 0#8, 0#8, 0#8, 0#8, 0#8, 0#8, 0#8], red := some (.add, .u64, 5#64) }
/-- A copy into shared memory holds 16 bytes. -/
def boardFrom (a : Nat) (s : State) : State := { s with copies := [{ (default : Copy) with id := 70, block := 2, dir := .inn, ranges := [(a, 16)] }] }
/-- Every thread of the warp a helper. -/
def helpers (s : State) : State := withWarp s fun w => { w with threads := w.threads.map fun t => { t with helper := true } }
/-- A transaction that has read 64 other sectors. -/
def manyReads (s : State) : State := txWith s fun t => { t with reads := (List.range 64).map fun k => (0, 1000 + k) }

/-- Loads that bind to no key: of shared memory, outside and in DET mode, in a transaction and after a buffered reduction, and of the stack. -/
def loadCases : List (Space × Opnd × State) :=
  [(.sh, .v 6, atInstr (ldI .sh (ldF (.v 6)))), (.stk, .v 6, withStack (withPages (atInstr (ldI .stk (ldF (.v 6)))))),
   (.sh, .v 6, detMode (atInstr (ldI .sh (ldF (.v 6))))), (.sh, .v 6, inTx (atInstr (ldI .sh (ldF (.v 6))))),
   (.sp, .v 20, withPages (atInstr (ldI .sp (ldF (.v 20))))), (.sh, .v 2, helpers (atInstr (ldI .sh (ldF (.v 2))))),
   (.sh, .v 6, buffering aReduction (atInstr (ldI .sh (ldF (.v 6)))))]

theorem wit_Loads : ∀ x ∈ loadCases, LoadFits x.1 x.2.1 x.2.2 ∧ ldHit x.1 x.2.1 x.2.2 = none ∧ ∀ n ∈ ldReads x.1 x.2.1 x.2.2, n ≤ 64 := by
  intro x hx
  simp only [loadCases, List.mem_cons, List.not_mem_nil, or_false] at hx
  rcases hx with rfl | rfl | rfl | rfl | rfl | rfl | rfl <;>
    exact ⟨⟨⟨rfl, issues_of (by decide), ids_of (by decide), ok_of (by decide), ok_of (by decide), by decide⟩, none_of (by decide), by decide,
      ok_of (by decide), by decide, ok_of (by decide), by decide, by decide, by decide, (by decide), ok_of (by decide), by decide⟩,
      none_of (by decide), by decide⟩

theorem wit_Loads_clauses : loadCases.map (fun x => ((cxAt x.2.2).atOnce x.1, (ldXs x.1 x.2.1 x.2.2).isEmpty)) =
    [(false, false), (true, false), (true, false), (true, false), (false, false), (false, true), (false, false)] := by decide

theorem wit_Loads_flush : let s := buffering aReduction (atInstr (ldI .sh (ldF (.v 6)))); let c := cxAt s
    s.needsFlush c.b c.w (ldAs .sh (.v 6) s) = true ∧ s.flushClear c.core = true := by decide

theorem wit_Loads_overflow : let s := manyReads (atInstr (ldI .sh (ldF (.v 6))))
    LoadFits .sh (.v 6) s ∧ ldHit .sh (.v 6) s = none ∧ ldReads .sh (.v 6) s = some 65 :=
  ⟨⟨⟨rfl, issues_of (by decide), ids_of (by decide), ok_of (by decide), ok_of (by decide), by decide⟩, none_of (by decide), by decide,
    ok_of (by decide), by decide, ok_of (by decide), by decide, by decide, by decide, (by decide), ok_of (by decide), by decide⟩,
    none_of (by decide), by decide +kernel⟩

/-- The key table holds the load's key, its result ready or on its way. -/
def loadKeyed (st : EState) : State :=
  let i := ldI .sh (ldF (.v 6)); let c := cxAt (atInstr i); let a := addrOp (.v 6) .ident .sh
  let xs := okLanes (c.targets .sh (.load .s16) 2 a 4 (c.acting Guard.always))
  (atInstr i).modCore 0 fun x => { x with
    entries := x.entries.map fun e => if e.eid = 51 then { e with st := st } else e
    keys := [{ key := c.loadKey .sh .s16 false a 4 xs 1, results := [51], lastUse := 1, born := 1, watch := [], launch := none }] }

theorem wit_Loads_binds : ∀ st ∈ [EState.ready, .pending], let s := loadKeyed st; let c := cxAt s
    LoadFits .sh (.v 6) s ∧ ∃ k, ldHit .sh (.v 6) s = some k ∧ c.bindable k = true ∧ k.results.length = 1 ∧
      (∀ x ∈ ldAs .sh (.v 6) s, c.bindWaits k x = false) ∧ (k.results.find? fun r => !c.cst.isReady r) = if st = .ready then none else some 51 := by
  intro st h
  simp only [List.mem_cons, List.not_mem_nil, or_false] at h
  rcases h with rfl | rfl <;>
    exact ⟨⟨⟨rfl, issues_of (by decide), ids_of (by decide), ok_of (by decide), ok_of (by decide), by decide⟩, none_of (by decide), by decide,
      ok_of (by decide), by decide, ok_of (by decide), by decide, by decide, by decide, (by decide), ok_of (by decide), by decide⟩,
      _, rfl, by decide, by decide, by decide, by decide⟩

/-- 16 accesses of the warp wait for translations. -/
def parkedFull (s : State) : State := withWarp s fun w => { w with replay := List.replicate 16 default }

/-- A misaligned address in every lane; a full replay queue; a missing translation, in a transaction and outside one. -/
theorem wit_LoadsTrap : let s := atInstr (ldI .sh (ldF (.v 2))); let c := cxAt s
    LoadStarts .sh (.v 2) s ∧ c.wp.tx = none ∧ (c.acting Guard.always).has 0 = true ∧ c.wp.helpers.has 0 = false ∧
    c.laneAddr .sh (.load .s16) 2 (c.addrOf (addrOp (.v 2) .ident .sh) 4 0) = .bad 0x0A 0 :=
  ⟨⟨rfl, issues_of (by decide), ids_of (by decide), ok_of (by decide), ok_of (by decide), by decide⟩, by decide, by decide, by decide, by decide⟩

theorem wit_LoadsPark : ∀ x ∈ [(Space.sh, Opnd.v 6, parkedFull (atInstr (ldI .sh (ldF (.v 6))))), (.sp, .v 20, atInstr (ldI .sp (ldF (.v 20)))),
    (.sp, .v 20, txWith (atInstr (ldI .sp (ldF (.v 20)))) fun t => t)], let c := cxAt x.2.2; let xs := ldXs x.1 x.2.1 x.2.2
    LoadStarts x.1 x.2.1 x.2.2 ∧ (∀ t ∈ c.wp.tx, t.lane = false) ∧ laneFault xs = none ∧ c.checkTx x.1 0xBD 2 (okLanes xs) = .ok () ∧
    c.stackMapped (okLanes xs) 2 true = true ∧ (∀ y ∈ okLanes xs, c.ownWrites y.2 (c.addrOf (addrOp x.2.1 .ident x.1) 4 y.1) 2 = false) ∧
    c.checkBoard 2 true (okLanes xs) = .ok () ∧ c.acting Guard.always = fullMask c.width ∧ (c.wp.canPark = true → missing xs ≠ []) := by
  intro x hx
  simp only [List.mem_cons, List.not_mem_nil, or_false] at hx
  rcases hx with rfl | rfl | rfl <;>
    exact ⟨⟨rfl, issues_of (by decide), ids_of (by decide), ok_of (by decide), ok_of (by decide), by decide⟩, by decide, none_of (by decide),
      ok_of (by decide), by decide, by decide, ok_of (by decide), by decide, by decide⟩

theorem wit_LoadsPark_clauses : (cxAt (parkedFull (atInstr (ldI .sh (ldF (.v 6)))))).wp.canPark = false ∧
    (cxAt (atInstr (ldI .sp (ldF (.v 20))))).wp.canPark = true ∧ (cxAt (atInstr (ldI .sp (ldF (.v 20))))).inTx = false ∧
    (cxAt (inTx (atInstr (ldI .sp (ldF (.v 20)))))).inTx = true := by decide

/-- A store of `v1` at an address, in the lanes of a guard. -/
def stF (a : Opnd) (g : Guard) : L2ab := { a := a, b := .v 1, pa := .ident, pb := .ident, g := g }
/-- The store in a space. -/
def stI (space : Space) (a : Opnd) (g : Guard) : Instr := .stLong space .b32 false (stF a g) 4

/-- The store's lanes. -/
def stXs (space : Space) (a : Opnd) (g : Guard) (s : State) : List (Nat × LaneAddr) :=
  (cxAt s).targets space (.store .b32) 4 (addrOp a .ident space) 4 ((cxAt s).doing g)
/-- Its data operand. -/
def stB : OpSpec := { bOp (.v 1) .ident false (storeRt .b32) with field := 2 }
/-- Its pieces. -/
def stPs (space : Space) (a : Opnd) (g : Guard) (s : State) : List Piece :=
  (storePieces .b32 (okLanes (stXs space a g s)) fun l => (cxAt s).read ((cxAt s).resolve stB) l).1
/-- What a store's checks ask. -/
def StoreFits (space : Space) (o : Opnd) (g : Guard) (s : State) : Prop := let c := cxAt s; let i := stI space o g; let a := addrOp o .ident space
  let act := c.doing g; let xs := stXs space o g s
  let as := mkAccs s.serial (c.access xs a 4 4 s.serial (.store .b32 false) [] []) (xs.map (·.1))
  stForm i = some (space, .b32, false, stF o g, 4, 2, 2) ∧ Issues i s c ∧ IdsInv s ∧ MemInv s ∧ c.checkOps [a, stB] = .ok () ∧
  c.checkReads [a, stB] g = .ok () ∧ act ≠ 0#64 ∧ (∀ l, l < 64 → act.has l = true → ∃ t, c.laneAddr space (.store .b32) 4 (c.addrOf a 4 l) = .ok t) ∧
  c.checkTx space 0xBE 4 (okLanes xs) = .ok () ∧ sxBad (okLanes xs) = [] ∧ (c.l.owncompat = false ∨ space ≠ .sp) ∧ c.wp.canPark = true ∧
  c.checkQuiet space as = .ok () ∧ c.checkFlush space as = .ok () ∧ c.checkBoard 4 false (okLanes xs) = .ok () ∧
  c.stackMapped (okLanes xs) 4 false = true ∧ (c.det = true → c.inTx = false → space ≠ .stk → c.lostNow as = false)

/-- A transaction that has written 64 other sectors. -/
def manyWrites (s : State) : State :=
  txWith s fun t => { t with writes := (List.range 64).map fun k => { space := 0, addr := 2048 + 32 * k, val := 0#8, lanes := 1, shared := true } }
/-- `v4`, `v5` hold the addresses of consecutive words from 60 on, in a page of SX elements. -/
def onSx (s : State) : State :=
  let s := s.modCtx 0 0 fun c => { c with tlb := [{ unit := .core 0, base := 0, size := 65536, word := 0x3900#32, frame := 0 }] }
  s.modCore 0 fun c => { c with entries := c.entries.map fun e =>
    if e.eid = 54 then { e with value := (List.range 32).map fun l => BitVec.ofNat 32 (60 + 4 * l) }
    else if e.eid = 55 then { e with value := List.replicate 32 0#32 } else e }
/-- A context with room for step lines. -/
def withLines (n : Nat) (s : State) : State := (withPages (detMode s)).modCtx 0 0 fun c => { c with stepsize := BitVec.ofNat 64 n }

/-- Stores of shared memory, of the stack, of SX blocks, in a transaction, and in DET mode with and without step lines. -/
def storeCases : List (Space × Opnd × Guard × State) :=
  [(.sh, .v 6, odd, atInstr (stI .sh (.v 6) odd)), (.stk, .v 6, odd, withStack (withPages (atInstr (stI .stk (.v 6) odd)))),
   (.sp, .v 4, Guard.always, onSx (atInstr (stI .sp (.v 4) Guard.always))), (.sh, .v 6, odd, inTx (atInstr (stI .sh (.v 6) odd))),
   (.sh, .v 6, odd, manyWrites (atInstr (stI .sh (.v 6) odd))), (.sh, .v 6, odd, detMode (atInstr (stI .sh (.v 6) odd))),
   (.sp, .v 20, odd, withLines 4096 (atInstr (stI .sp (.v 20) odd))), (.sp, .v 20, odd, withLines 0 (atInstr (stI .sp (.v 20) odd)))]

theorem wit_Stores : ∀ x ∈ storeCases, StoreFits x.1 x.2.1 x.2.2.1 x.2.2.2 := by
  intro x hx
  simp only [storeCases, List.mem_cons, List.not_mem_nil, or_false] at hx
  rcases hx with rfl | rfl | rfl | rfl | rfl | rfl | rfl | rfl <;>
    exact ⟨rfl, issues_of (by decide), ids_of (by decide), mem_of (by decide), ok_of (by decide), ok_of (by decide), by decide, (by refine lanes_of ?_; decide),
      ok_of (by decide), by decide, by decide, by decide, ok_of (by decide), ok_of (by decide), ok_of (by decide), by decide, by decide⟩

/-- What a store's bytes draw of step lines: 0 as they are, 1 with new lines, 2 none left. -/
def drawn (x : Space × Opnd × Guard × State) : Nat :=
  let c := cxAt x.2.2.2
  let s := x.2.2.2.cacheLeaves c.core c.l.fn c.l.ctx ((stXs x.1 x.2.1 x.2.2.1 x.2.2.2).map (·.2))
  match s.drawLines 2 (pieceRanges (stPs x.1 x.2.1 x.2.2.1 x.2.2.2)) with
  | .ok v => if v = s then 0 else 1
  | .full => 2
  | .lost => 3

theorem wit_Stores_clauses : storeCases.map (fun x => ((cxAt x.2.2.2).atOnce x.1, (cxAt x.2.2.2).inTx, drawn x)) =
      [(false, false, 0), (true, false, 0), (false, false, 0), (true, true, 0), (true, true, 0), (true, false, 0), (true, false, 1), (true, false, 2)] ∧
    storeCases.map (fun x => ((okLanes (stXs x.1 x.2.1 x.2.2.1 x.2.2.2)).all fun y => y.2.sx.isNone)) = [true, true, false, true, true, true, true, true] ∧
    storeCases.map (fun x => (cxAt x.2.2.2).wp.tx.map fun t => decide (((stPs x.1 x.2.1 x.2.2.1 x.2.2.2).foldl (fun t p =>
      t.putAll p.target.space p.target.addr p.lanes (p.target.ord == .so) p.data) t).sectors.length ≤ 64)) = [none, none, none, some true, some false, none, none, none] := by decide +kernel

theorem wit_Stores_det : ∀ x ∈ storeCases.drop 5, (cxAt x.2.2.2).blk.release = [] ∧ x.2.2.2.releaseUsed 0 ≤ 65536 := by decide

/-- What a store's first checks ask. -/
def StoreStarts (space : Space) (o : Opnd) (g : Guard) (s : State) : Prop := let c := cxAt s; let i := stI space o g; let a := addrOp o .ident space
  stForm i = some (space, .b32, false, stF o g, 4, 2, 2) ∧ Issues i s c ∧ IdsInv s ∧ c.checkOps [a, stB] = .ok () ∧
  c.checkReads [a, stB] g = .ok () ∧ c.doing g ≠ 0#64

theorem wit_StoresTrap : let s := atInstr (stI .sh (.v 2) odd); let c := cxAt s
    StoreStarts .sh (.v 2) odd s ∧ c.wp.tx = none ∧ (c.doing odd).has 1 = true ∧ (c.doing odd).has 0 = false ∧
    c.laneAddr .sh (.store .b32) 4 (c.addrOf (addrOp (.v 2) .ident .sh) 4 1) = .bad 0x0A 0 :=
  ⟨⟨rfl, issues_of (by decide), ids_of (by decide), ok_of (by decide), ok_of (by decide), by decide⟩, by decide, by decide, by decide, by decide⟩

/-- An OWNCOMPAT launch whose block has declared a range, or none. -/
def declaring (xs : List (Nat × Nat × Nat)) (s : State) : State := withPacket 10 0x00000018#32 (withBlock s fun b => { b with declw := xs })
/-- Part of an SX block; outside the block's ranges; a full replay queue; no translation, in a transaction and outside one; inside the ranges, in a full queue. -/
def storeStops : List (Space × Opnd × Guard × State) :=
  [(.sp, .v 4, odd, onSx (atInstr (stI .sp (.v 4) odd))), (.sp, .v 20, odd, declaring [] (withPages (atInstr (stI .sp (.v 20) odd)))),
   (.sh, .v 6, odd, parkedFull (atInstr (stI .sh (.v 6) odd))), (.sp, .v 20, odd, txWith (atInstr (stI .sp (.v 20) odd)) fun t => t),
   (.sp, .v 20, odd, atInstr (stI .sp (.v 20) odd)), (.sp, .v 20, odd, declaring [(0, 0, 64)] (parkedFull (withPages (atInstr (stI .sp (.v 20) odd)))))]

theorem wit_StoresStop : ∀ x ∈ storeStops, let c := cxAt x.2.2.2; let xs := stXs x.1 x.2.1 x.2.2.1 x.2.2.2
    StoreStarts x.1 x.2.1 x.2.2.1 x.2.2.2 ∧ (∀ t ∈ c.wp.tx, t.lane = false) ∧ laneFault xs = none ∧ c.checkTx x.1 0xBE 4 (okLanes xs) = .ok () ∧
    c.checkBoard 4 false (okLanes xs) = .ok () := by
  intro x hx
  simp only [storeStops, List.mem_cons, List.not_mem_nil, or_false] at hx
  rcases hx with rfl | rfl | rfl | rfl | rfl | rfl <;>
    exact ⟨⟨rfl, issues_of (by decide), ids_of (by decide), ok_of (by decide), ok_of (by decide), by decide⟩, by decide, none_of (by decide),
      ok_of (by decide), ok_of (by decide)⟩

theorem wit_StoresStop_clauses : storeStops.map (fun x => let c := cxAt x.2.2.2; let xs := stXs x.1 x.2.1 x.2.2.1 x.2.2.2
      ((missing xs).isEmpty, (sxBad (okLanes xs)).isEmpty, c.l.owncompat, xs.all fun y => c.blk.owns (c.addrOf (addrOp x.2.1 .ident x.1) 4 y.1) 4)) =
      [(true, false, false, false), (true, true, true, false), (true, true, false, false), (false, true, false, false), (false, true, false, false), (true, true, true, true)] ∧
    storeStops.map (fun x => ((cxAt x.2.2.2).wp.canPark, (cxAt x.2.2.2).inTx)) =
      [(true, false), (true, false), (false, false), (true, true), (true, false), (false, false)] := by decide

/-- An atomic addition of `v1` to the word at the address in `v6`, returning the old word to `v3`; the same without a result. -/
def atomI : Instr := .atom .add .sh .u32 .ar (.v 3) (.v 6) (.v 1) (.v 0) odd
/-- Without a result. -/
def redI : Instr := .red .add .sh .u32 false { a := .v 6, b := .v 1, pa := .ident, pb := .ident, g := odd }

theorem wit_Atomics : ∀ i ∈ [atomI, redI], let s := atInstr i; let c := cxAt s; let a := addrOp (.v 6) .ident .sh true
    let b := bOp (.v 1) .ident false (atomRt .u32); let act := c.acting odd
    (atomForm i).map (fun x => (x.1, x.2.1, x.2.2.1)) = some (AtomOp.add, Space.sh, AtomTy.u32) ∧ c.wp.canPark = true ∧
    Issues i s c ∧ IdsInv s ∧ c.checkOps [dOp (.v 3) onlyV false, a, b] = .ok () ∧ c.checkReads [a, b] odd = .ok () ∧ act ≠ 0#64 ∧
    c.wp.helpers = 0#64 ∧ c.det = false ∧ (∀ l, l < 64 → act.has l = true → ∃ t, c.laneAddr .sh .atom 4 (c.addrOf a 0 l) = .ok t) ∧
    c.checkBoard 4 false (okLanes (c.targets .sh .atom 4 a 0 act)) = .ok () ∧ c.allMergeable act [(.v, 3)] = .ok () := by
  intro i hi
  simp only [List.mem_cons, List.not_mem_nil, or_false] at hi
  rcases hi with rfl | rfl <;>
    exact ⟨by decide, by decide, issues_of (by decide), ids_of (by decide), ok_of (by decide), ok_of (by decide), by decide, by decide, by decide,
      (by refine lanes_of ?_; decide), ok_of (by decide), ok_of (by decide)⟩

/-- The same on a space and an address. -/
def atomAt (space : Space3) (o : Opnd) : Instr := .atom .add space .u32 .ar (.v 3) o (.v 1) (.v 0) odd
/-- Its lanes. -/
def atomXs (space : Space3) (o : Opnd) (s : State) : List (Nat × LaneAddr) := let c := cxAt s
  c.targets (space3 space) .atom 4 (addrOp o .ident (space3 space) true) 0 (c.acting odd &&& ~~~ c.wp.helpers)
/-- What the checks of an atomic ask. -/
def AtomStarts (space : Space3) (o : Opnd) (s : State) : Prop := let c := cxAt s; let a := addrOp o .ident (space3 space) true
  let b := bOp (.v 1) .ident false (atomRt .u32)
  Issues (atomAt space o) s c ∧ IdsInv s ∧ MemInv s ∧ c.checkOps [dOp (.v 3) onlyV false, a, b] = .ok () ∧ c.checkReads [a, b] odd = .ok () ∧ c.acting odd ≠ 0#64 ∧
  c.checkBoard 4 false (okLanes (atomXs space o s)) = .ok () ∧ c.allMergeable (c.acting odd) [(.v, 3)] = .ok ()

/-- In DET mode on shared memory, and on the scratchpad with step lines and without. -/
def atomDet : List (Space3 × Opnd × State) :=
  [(.sh, .v 6, detMode (withHelpers [1] (atInstr (atomAt .sh (.v 6))))), (.sp, .v 20, withLines 4096 (atInstr (atomAt .sp (.v 20)))),
   (.sp, .v 20, withLines 0 (atInstr (atomAt .sp (.v 20))))]
/-- What its words draw of step lines: 0 as they are, 1 with new lines, 2 none left. -/
def atomDrawn (x : Space3 × Opnd × State) : Nat :=
  let c := cxAt x.2.2
  let s := x.2.2.cacheLeaves c.core c.l.fn c.l.ctx ((atomXs x.1 x.2.1 x.2.2).map (·.2))
  match s.drawLines 2 ((okLanes (atomXs x.1 x.2.1 x.2.2)).filterMap fun y => if y.2.space = 1 then some (y.2.addr, 4) else none) with
  | .ok v => if v = s then 0 else 1
  | .full => 2
  | .lost => 3
/-- Its accesses. -/
def atomAs (x : Space3 × Opnd × State) : List Access := let s := x.2.2; let c := cxAt s
  mkAccs s.serial (c.access (atomXs x.1 x.2.1 s) (addrOp x.2.1 .ident (space3 x.1) true) 0 4 s.serial (.atom .add .u32 .ar true 0 0) [] []) ((atomXs x.1 x.2.1 s).map (·.1))

theorem wit_Atomics_det : ∀ x ∈ atomDet, let s := x.2.2; let c := cxAt s
    AtomStarts x.1 x.2.1 s ∧ (∀ l, l < 64 → (c.acting odd &&& ~~~ c.wp.helpers).has l = true → ∃ t, c.laneAddr (space3 x.1) .atom 4 (c.addrOf (addrOp x.2.1 .ident (space3 x.1) true) 0 l) = .ok t) ∧
    c.wp.canPark = true ∧ c.det = true ∧ c.checkQuiet (space3 x.1) (atomAs x) = .ok () ∧ c.lostNow (atomAs x) = false ∧ c.blk.release = [] ∧ s.releaseUsed c.core ≤ 65536 ∧
    (okLanes (atomXs x.1 x.2.1 s)).all (fun y => (okLanes (atomXs x.1 x.2.1 s)).all fun z =>
      y.2.place != z.2.place || y.2.addr == z.2.addr || !overlap y.2.addr 4 z.2.addr 4) = true := by
  intro x hx
  simp only [atomDet, List.mem_cons, List.not_mem_nil, or_false] at hx
  rcases hx with rfl | rfl | rfl <;>
    exact ⟨⟨issues_of (by decide), ids_of (by decide), mem_of (by decide), ok_of (by decide), ok_of (by decide), by decide, ok_of (by decide), ok_of (by decide)⟩,
      (by refine lanes_of ?_; decide), by decide, by decide, ok_of (by decide), by decide, by decide, by decide, by decide⟩

theorem wit_Atomics_det_clauses : atomDet.map atomDrawn = [0, 1, 2] ∧ (cxAt (detMode (withHelpers [1] (atInstr (atomAt .sh (.v 6)))))).wp.helpers.has 1 = true := by decide +kernel

/-- A misaligned word in every lane; a full replay queue; a missing translation. -/
theorem wit_AtomicsStop : ∀ x ∈ [(Space3.sh, Opnd.v 2, atInstr (atomAt .sh (.v 2))), (.sh, .v 6, parkedFull (atInstr (atomAt .sh (.v 6)))), (.sp, .v 20, atInstr (atomAt .sp (.v 20)))],
    AtomStarts x.1 x.2.1 x.2.2 := by
  intro x hx
  simp only [List.mem_cons, List.not_mem_nil, or_false] at hx
  rcases hx with rfl | rfl | rfl <;>
    exact ⟨issues_of (by decide), ids_of (by decide), mem_of (by decide), ok_of (by decide), ok_of (by decide), by decide, ok_of (by decide), ok_of (by decide)⟩

theorem wit_AtomicsStop_clauses : let c := cxAt (atInstr (atomAt .sh (.v 2)))
    c.laneAddr .sh .atom 4 (c.addrOf (addrOp (.v 2) .ident .sh true) 0 1) = .bad 0x0A 0 ∧ (c.acting odd).has 0 = false ∧
    laneFault (atomXs .sh (.v 6) (parkedFull (atInstr (atomAt .sh (.v 6))))) = none ∧ (cxAt (parkedFull (atInstr (atomAt .sh (.v 6))))).wp.canPark = false ∧
    laneFault (atomXs .sp (.v 20) (atInstr (atomAt .sp (.v 20)))) = none ∧ (missing (atomXs .sp (.v 20) (atInstr (atomAt .sp (.v 20))))).isEmpty = false ∧
    (cxAt (atInstr (atomAt .sp (.v 20)))).wp.canPark = true := by decide

/-- Accesses of each kind that may be performed. -/
def accesses : List Access :=
  [storeAccess, { storeAccess with place := .scratch },
   { storeAccess with kind := .load .s16 false, size := 2, data := [], dests := [50] },
   { storeAccess with kind := .wait false false (some 5#64), data := [], dests := [50] },
   { storeAccess with kind := .atom .add .u32 .plain false 5#64 0#64, data := [] },
   { storeAccess with kind := .atom .add .u32 .plain true 5#64 0#64, data := [], dests := [50] },
   { storeAccess with kind := .wake, data := [] }]

theorem wit_AccessesPerformed : ∀ a ∈ accesses, let s := pending (atInstr .nop) a; let set := (s.warp 2 0).together a
    MemInv s ∧ IdsInv s ∧ (s.block? 2).isSome = true ∧ (s.block 2).saved = false ∧ (s.warp 2 0).pend.find? (fun x => x.serial == a.serial) = some a ∧
    set = [a] ∧ set.all (s.mayPerform 2 (s.warp 2 0)) = true ∧ set.any (s.accessLost 2) = false ∧ s.uncompared ∧
    (s.launch (s.block 2).launch).det = false ∧ (s.launch (s.block 2).launch).contained = false ∧ (s.block 2).release = [] ∧
    s.releaseUsed (s.block 2).core ≤ 65536 ∧ a.engine = none ∧ (a.place = .scratch ∨ a.place = .shared 2) := by
  intro a ha
  simp only [accesses, List.mem_cons, List.not_mem_nil, or_false] at ha
  rcases ha with rfl | rfl | rfl | rfl | rfl | rfl | rfl <;>
    exact ⟨mem_of (by decide), ids_of (by decide), by decide, by decide, by decide, by decide, by decide, by decide, uncompared_of (by decide), by decide,
      by decide, by decide, by decide, by decide, by decide⟩

/-- The destination of the load is a live entry of class `v` that no other result copies. -/
theorem wit_AccessesPerformed_load : let s := pending (atInstr .nop) storeAccess; let x := anEntry 50 0 .v ((List.range 32).map fun l => BitVec.ofNat 32 (10 + l))
    (s.core 0).entry? 50 = some x ∧ x.cls = .v ∧ x.dead = false ∧ 0 < x.value.length ∧
    (∃ k ∈ s.blocks, k.core = 0 ∧ k.ended = false ∧ ∃ v ∈ k.warps, 50 ∈ ptrIds v.v) ∧ (∀ q ∈ (s.core 0).entries, q.copyOf = none) := by decide

/-- Two lanes of one load on common bytes are performed together. -/
theorem wit_AccessesPerformed_together : let a : Access := { storeAccess with kind := .load .s16 false, size := 2, data := [], dests := [50] }
    let b : Access := { a with serial := 61, lane := 1, lanes := 2#64 }
    let s := withWarp (atInstr .nop) fun w => { w with pend := [a, b] }; let set := (s.warp 2 0).together a
    set = [a, b] ∧ set.all (s.mayPerform 2 (s.warp 2 0)) = true ∧ ∀ x ∈ set, ∀ y ∈ set, x.lane = y.lane → x = y := by decide

/-- A later access of the same bytes waits; one in another package's memory, to which no path is left, is lost; an engine grants its own. -/
theorem wit_AccessesPerformed_waits : let b := { storeAccess with serial := 61, group := 61 }
    let s := withWarp (atInstr .nop) fun w => { w with pend := [storeAccess, b] }
    let x := { storeAccess with place := .scratch, addr := 2 ^ 29 }; let t := cutPackage (pending (atInstr .nop) x)
    (s.warp 2 0).pend.find? (fun x => x.serial == b.serial) = some b ∧ ((s.warp 2 0).together b).all (s.mayPerform 2 (s.warp 2 0)) = false ∧
    (t.warp 2 0).pend.find? (fun y => y.serial == x.serial) = some x ∧ ((t.warp 2 0).together x).all (t.mayPerform 2 (t.warp 2 0)) = true ∧
    ((t.warp 2 0).together x).any (t.accessLost 2) = true := by decide

/-- Atomics of the warp on core 0 in the engine of cluster 0 or, as remote, of cluster 1. -/
def engineAt (k : Nat) : State := pending (atInstr .nop) { storeAccess with kind := .atom .add .u32 .plain false 5#64 0#64, place := .scratch, engine := some k }
/-- The engine's count of local grants in a row. -/
def granted (n k : Nat) : State := (engineAt k).setCluster k { (engineAt k).cluster k with locals := n }
/-- A local request and a remote one of a warp on core 8, in cluster 0's engine. -/
def bothAt (n : Nat) : State :=
  let s := granted n 0
  { s with blocks := s.blocks ++ s.blocks.map fun b => { b with id := 9, core := 8, warps := b.warps.map fun w => { w with pend := w.pend.map fun a => { a with serial := 61 } } } }

theorem wit_EngineGrants_engine : let s := engineAt 0
    (s.block? 2).isSome = true ∧ (s.warp 2 0).pend.any (fun a => a.serial == 60 && a.engine.isSome) = true := by decide

theorem wit_EngineGrants : (atInstr .nop).engineReqs 0 = [] ∧ (engineAt 0).engineReqs 0 = [(0, 2, 0, 60)] ∧ clusterOf 0 = 0 ∧ clusterOf 8 = 1 ∧
    ((granted 0 1).engineReqs 1).filter (fun y => clusterOf y.1 == 1) = [] ∧ ((granted 0 1).engineReqs 1).filter (fun y => clusterOf y.1 != 1) = [(0, 2, 0, 60)] ∧
    (bothAt 4).engineReqs 0 = [(0, 2, 0, 60), (8, 9, 0, 61)] ∧ ((bothAt 4).cluster 0).locals = 4 ∧ ((bothAt 3).cluster 0).locals = 3 := by decide

/-! Fences, wakes and waits. -/

theorem wit_Fences_clauses : ∀ i ∈ [Instr.fence .full .sys, .ifence], (cxAt (atInstr i)).allPerformed = true ∧
    (cxAt (pending (atInstr i) storeAccess)).allPerformed = false := by decide

theorem wit_Fences : ∀ i ∈ [Instr.fence .full .sys, .ifence], ∀ s ∈ [atInstr i, pending (atInstr i) storeAccess],
    Issues i s (cxAt s) ∧ IdsInv s := by
  intro i hi s hs
  simp only [List.mem_cons, List.not_mem_nil, or_false] at hi
  rcases hi with rfl | rfl <;>
    (simp only [List.mem_cons, List.not_mem_nil, or_false] at hs; rcases hs with rfl | rfl <;> exact ⟨issues_of (by decide), ids_of (by decide)⟩)

/-- In a CONTAINED launch whose block holds a write in its release buffer, which can be performed or not. -/
theorem wit_Fences_flush : let i : Instr := .fence .full .sys; let s := buffering aReduction (atInstr i); let c := cxAt s
    let t := buffering aReduction (atInstr .ifence); let u := boardFrom 132 t
    Issues i s c ∧ c.allPerformed = true ∧ (c.l.contained && !c.blk.release.isEmpty && c.l.fenceFlushes .full .sys) = true ∧
    Issues .ifence t (cxAt t) ∧ t.flushClear 0 = true ∧ Issues .ifence u (cxAt u) ∧ (cxAt u).blk.release ≠ [] ∧ u.flushClear 0 = false :=
  ⟨issues_of (by decide), by decide, by decide, issues_of (by decide), by decide, issues_of (by decide), by decide, by decide⟩

/-- `WAKE` of the word at `v6`. -/
def wakeI : Instr := .wake .sh { a := .v 6, pa := .ident, g := odd }

theorem wit_Wake : ∀ s ∈ [atInstr wakeI, detMode (atInstr wakeI)], let c := cxAt s; let a := addrOp (.v 6) .ident .sh
    Issues wakeI s c ∧ IdsInv s ∧ c.checkOps [a] = .ok () ∧ c.checkReads [a] odd = .ok () ∧
    (∀ l, l < 64 → (c.doing odd).has l = true → ∃ t, c.laneAddr .sh .wake 4 (c.addrOf a 0 l) = .ok t) := by
  intro s hs
  simp only [List.mem_cons, List.not_mem_nil, or_false] at hs
  rcases hs with rfl | rfl <;>
    exact ⟨issues_of (by decide), ids_of (by decide), ok_of (by decide), ok_of (by decide), (by refine lanes_of ?_; decide)⟩

/-- `WAITADDR` for the word at `v6`, which is 0, to differ from `v4` or from `v5`. -/
def waitI (b : Opnd) : Instr := .waitaddr .sh false false { d := .v 3, a := .v 6, b := b, pa := .ident, pb := .ident, g := Guard.always }

/-- The wait's lanes. -/
def waitXs (s : State) : List (Nat × LaneAddr) := let c := cxAt s
  (c.targets .sh .wait 4 (addrOp (.v 6) .ident .sh) 0 (c.acting Guard.always)).filter fun x =>
    match x.2 with | .ok _ => true | _ => !c.wp.helpers.has x.1
/-- Its accesses. -/
def waitAs (o : Opnd) (s : State) : List Access := let c := cxAt s
  mkAccs s.serial (fun l n => c.access (waitXs s) (addrOp (.v 6) .ident .sh) 0 4 s.serial
    (.wait false false (some ((c.read (c.resolve (bOp o .ident false .w32)) l).lo.setWidth 64))) [] [] l n) ((waitXs s).map (·.1))
/-- Waits for a word to differ from its own value and from another, in DET mode too, and where every thread is a helper. -/
def waitCases : List (Opnd × State) :=
  [(.v 4, atInstr (waitI (.v 4))), (.v 5, atInstr (waitI (.v 5))), (.v 4, detMode (atInstr (waitI (.v 4)))), (.v 4, helpers (atInstr (waitI (.v 4))))]

theorem wit_Waits : ∀ x ∈ waitCases, let o := x.1; let s := x.2; let c := cxAt s; let a := addrOp (.v 6) .ident .sh
    let b := bOp o .ident false .w32; let act := c.acting Guard.always; let xs := waitXs s; let as := waitAs o s
    Issues (waitI o) s c ∧ IdsInv s ∧ c.checkOps [dOp (.v 3) onlyV false, a, b] = .ok () ∧ c.checkReads [a, b] Guard.always = .ok () ∧ act ≠ 0#64 ∧
    c.awaits = false ∧ laneFault xs = none ∧ missing xs = [] ∧ c.wp.canPark = true ∧ c.clearFor as = true ∧ s.needsFlush c.b c.w as = false ∧
    c.lostNow as = false ∧ c.checkBoard 4 true (okLanes xs) = .ok () ∧ act = fullMask c.width := by
  intro x hx
  simp only [waitCases, List.mem_cons, List.not_mem_nil, or_false] at hx
  rcases hx with rfl | rfl | rfl | rfl <;>
    exact ⟨issues_of (by decide), ids_of (by decide), ok_of (by decide), ok_of (by decide), by decide, by decide, none_of (by decide), by decide,
      by decide, by decide, by decide, by decide, ok_of (by decide), by decide⟩

theorem wit_Waits_clauses : waitCases.map (fun x => ((cxAt x.2).det, (cxAt x.2).wp.helpers)) = [(false, 0#64), (false, 0#64), (true, 0#64), (false, fullMask 32)] ∧
    (∀ x ∈ waitCases, ∀ y ∈ okLanes (waitXs x.2), loadElem .b32 none (x.2.seenBytes 2 y.2.place y.2.addr 4) = 0#64) ∧
    ∀ x ∈ waitCases, ∀ l, l < 32 → ((cxAt x.2).read ((cxAt x.2).resolve (bOp x.1 .ident false .w32)) l).lo = if x.1 = .v 4 then 0#32 else 8#32 := by decide

/-- The warp's path parked on a word. -/
def parked (released : Bool) (p : Place) (a : Nat) : State :=
  withWarp (atInstr (waitI (.v 4))) fun w => { w with paths := w.paths.map fun q => { q with park := some {
    (default : Park) with space := .sh, wide := false, lanes := 1#64, dests := [50], released := released
                          words := [{ lane := 0, want := 0#64, place := p, addr := a, sx := none }] } } }
/-- Parked on a word of the block, released or not; on one that a copy holds; on one that no path leads to; on a poisoned one; on one that the
release buffer reduces, when it can be performed and when a copy keeps it. -/
def parkCases : List State :=
  [parked true (.shared 2) 128, parked false (.shared 2) 128, boardFrom 128 (parked true (.shared 2) 128), cutPackage (parked true .scratch (2 ^ 29)),
   { parked true (.shared 2) 128 with badBytes := [sharedAddr 2 129] }, buffering aReduction (parked true (.shared 2) 128),
   boardFrom 132 (buffering aReduction (parked true (.shared 2) 128))]

theorem wit_Continuations : ∀ s ∈ parkCases, let c := (s.cxOf 2 0 3).getD default
    s.cxOf 2 0 3 = some c ∧ s.resting 2 = false ∧ c.pt.park.isSome = true ∧ IdsInv s ∧ c.wp.paths = [c.pt] ∧ s.uncompared := by
  intro s hs
  simp only [parkCases, List.mem_cons, List.not_mem_nil, or_false] at hs
  rcases hs with rfl | rfl | rfl | rfl | rfl | rfl | rfl <;> exact ⟨some_of (by decide), by decide, by decide, ids_of (by decide), by decide, uncompared_of (by decide)⟩

theorem wit_Continuations_clauses : parkCases.map (fun s => ((s.cxOf 2 0 3).getD default).pt.park.map fun k =>
      (k.released, k.words.any (fun x => s.placeBoarded x.place x.addr 4 true), k.words.any (fun x => (s.block 2).reduces x.place x.addr 4),
        s.flushClear 0, k.words.any fun x => s.placeLost 2 x.place x.addr || s.placeBad 2 x.place x.addr 4)) =
    [some (true, false, false, true, false), some (false, false, false, true, false), some (true, true, false, true, false), some (true, false, false, true, true),
     some (true, false, false, true, true), some (true, false, true, true, false), some (true, false, true, false, false)] := by decide

/-! Copies. -/

/-- The block's shared memory holds words from an address. -/
def holding (xs : List (Nat × Word)) (s : State) : State :=
  withBlock s fun b => { b with shared := xs.foldl (fun m x => m.setWord x.1 x.2) b.shared }
/-- Lane 0 alone. -/
def lane0 : Guard := { p := 3, neg := false }
/-- A record at 128: one level of 4 words at global address 0, cut into one box. -/
def aRecord : List (Nat × Word) := [(136, 0x00000009#32), (140, 4#32), (180, 4#32)]
/-- `TCOPY` of the box to shared address 0. -/
def tcopyF : L3 := { d := .v 4, a := .v 6, b := .v 4, c := .v 0, pa := .ident, g := lane0 }
/-- An inward copy without a completion. -/
def tcMod : TcMod := { dir := .inn, done := .none, shadow := false }
/-- The requests of its lanes. -/
def tcReqs (c : Cx) : List CopyReq :=
  (c.doing lane0).lanes.map fun l =>
    { m := tcMod, d := c.wordAt (copyOp (.v 4) 0) l, recAt := c.wordAt (copyOp (.v 6) 1) l, coord := c.wordAt (copyOp (.v 4) 2) l,
      comp := 0, lane := l, list := none, idx := 0 }

theorem wit_Tcopy : ∀ s ∈ [withPages (atInstr (.tcopy tcMod tcopyF)), holding aRecord (withPages (atInstr (.tcopy tcMod tcopyF)))], let c := cxAt s
    let ops := [copyOp (.v 4) 0, copyOp (.v 6) 1, copyOp (.v 4) 2]
    Issues (.tcopy tcMod tcopyF) s c ∧ IdsInv s ∧ c.checkOps ops = .ok () ∧ c.checkReads ops lane0 = .ok () ∧ tcReqs c ≠ [] ∧ c.allPerformed = true ∧ c.wp.canPark = true ∧ c.canFlush (tcMod.dir == .out) = true := by
  intro s hs
  simp only [List.mem_cons, List.not_mem_nil, or_false] at hs
  rcases hs with rfl | rfl <;>
    exact ⟨issues_of (by decide), ids_of (by decide), ok_of (by decide), ok_of (by decide), by decide, by decide, by decide, by decide⟩

/-- A record of zeros is malformed; the other plans one copy. -/
theorem wit_Tcopy_clauses : let s := withPages (atInstr (.tcopy tcMod tcopyF)); let t := holding aRecord s
    (∃ e, ((cxAt s).at (s.flushEngine 2 false)).planAll (tcReqs (cxAt s)) = .error e) ∧
    ∃ ps, ((cxAt t).at (t.flushEngine 2 false)).planAll (tcReqs (cxAt t)) = .ok ps ∧ (t.flushEngine 2 false).boardUsed 0 + ps.length ≤ 96 :=
  ⟨⟨_, rfl⟩, _, rfl, by decide⟩

/-- `ACOPY` between shared address 0 and the global address in a pair. -/
def acopyI (a : Opnd) : Instr := .acopy .out true (.v 4) a (.v 7) odd

theorem wit_Acopy : ∀ o ∈ [Opnd.v 20, .v 4], let i := acopyI o; let s := withPages (atInstr i); let c := cxAt s
    let dd : OpSpec := { o := .v 4, field := 0, acc := onlyV }; let aa : OpSpec := { o := o, field := 1, pair := true, acc := onlyV, rt := .w64 }
    Issues i s c ∧ IdsInv s ∧ c.checkOps [dd, aa, cOp (.v 7)] = .ok () ∧ c.checkReads [dd, aa, cOp (.v 7)] odd = .ok () ∧
    (c.doing odd).lanes.head? = some 1 ∧ c.allPerformed = true ∧ c.wp.canPark = true ∧ c.canFlush true = true ∧ c.l.owncompat = false ∧
    c.s.boardUsed c.core + 1 ≤ 96 ∧ s.inHeld c.b ((c.doing odd).lanes.map fun l => (c.wordAt dd l, 16)) = false := by
  intro o ho
  simp only [List.mem_cons, List.not_mem_nil, or_false] at ho
  rcases ho with rfl | rfl <;>
    exact ⟨issues_of (by decide), ids_of (by decide), ok_of (by decide), ok_of (by decide), by decide, by decide, by decide, by decide, by decide,
      by decide, by decide⟩

/-- A counted copy of a mapped address is planned; one from an address whose page faults is planned too, one whose barrier is out of place is not. -/
theorem wit_Acopy_clauses : let s := withPages (atInstr (acopyI (.v 20))); let c := cxAt s
    let dd : OpSpec := { o := .v 4, field := 0, acc := onlyV }; let aa : OpSpec := { o := .v 20, field := 1, pair := true, acc := onlyV, rt := .w64 }
    (∃ ps, c.planLanes .out true dd aa 192 (c.doing odd).lanes = .ok ps) ∧ ∃ e, c.planLanes .out true dd aa 4 (c.doing odd).lanes = .error e :=
  ⟨⟨_, rfl⟩, _, rfl⟩

/-- A copy of the block with a part of 16 bytes, in flight. -/
def moving (dir : Dir) (va : Nat) : State :=
  let p : Part := { g := some va, sh := 64, len := 16, fill := [], lane := 0 }
  { withPages (atInstr .nop) with copies := [{ (default : Copy) with id := 70, block := 2, dir := dir, reserved := true, ranges := [(64, 16)], parts := [p] }] }

theorem wit_CopyPart : ∀ x ∈ [(Dir.inn, 128), (.out, 65536)], let s := moving x.1 x.2; let cp := s.copies.headD default; let p := cp.parts.headD default
    MemInv s ∧ s.copies.find? (fun k => k.id == cp.id) = some cp ∧ cp.reserved = true ∧ (s.block cp.block).saved = false ∧ cp.parts[0]? = some p ∧
    s.partParked cp p = false ∧ s.partHeld cp p = false ∧ p.g = some x.2 ∧ x.2 < 2 ^ 57 ∧ (s.launch (s.block cp.block).launch).det = false ∧
    cp.acopy = false ∧ cp.done = .none ∧ (s.block? cp.block).isSome = true ∧ cp.dir = x.1 ∧
    ∃ leaf, s.translate (some 0) 0 0 x.2 = .leaf leaf ∧ leaf.attr.rd = true ∧ leaf.attr.wr = true ∧ leaf.attr.lro = false ∧ leaf.attr.hbm = (x.1 == .out) ∧
      s.unreachable cp.core (packageOfPa leaf.attr.hbm (leaf.pa x.2)) = false ∧
      s.readsBad cp.block leaf.attr.hbm (leaf.pa x.2) p.len = false ∧ s.liveCtxs.length < 2 := by
  intro x hx
  simp only [List.mem_cons, List.not_mem_nil, or_false] at hx
  rcases hx with rfl | rfl <;>
    exact ⟨mem_of (by decide), by decide, by decide, by decide, by decide, by decide, by decide, by decide, by decide, by decide, by decide, by decide,
      by decide, by decide, _, rfl, by decide, by decide, by decide, by decide, by decide, by decide, by decide⟩

/-- The part's word has a buffered reduction, which can be performed, or which another copy keeps. -/
theorem wit_CopyPart_late : let x : Buffered := { aReduction with place := .scratch, addr := 128 }; let s := buffering x (moving .inn 128)
    let t : State := { s with copies := s.copies ++ [{ (default : Copy) with id := 71, block := 2, dir := .inn, ranges := [(132, 16)] }],
                              blocks := s.blocks.map fun b => { b with release := [x, { aReduction with addr := 132 }] } }
    (s.block 2).reduces .scratch 128 16 = true ∧ s.flushClear 0 = true ∧ s.readsBad 2 false 128 16 = false ∧ (t.block 2).reduces .scratch 128 16 = true ∧
    t.flushClear 0 = false ∧ s.sharedBad 2 64 16 = false := by decide

/-- `CKICK` of a list at 192, with as many entries as a constant says. -/
def ckickI (n : Opnd) : Instr := .ckick (.v 7) n .ident lane0
/-- A list of one inward copy of the record at 128 to address 0. -/
def aList (n : Opnd) : State := holding ((200, 128#32) :: aRecord) (withPages (atInstr (ckickI n)))

theorem wit_Ckick : ∀ o ∈ [Opnd.const .i1, .v 4], let s := aList o; let c := cxAt s
    Issues (ckickI o) s c ∧ IdsInv s ∧ c.checkOps [copyOp (.v 7) 1, copyOp o 2] = .ok () ∧ c.checkReads [copyOp (.v 7) 1, copyOp o 2] lane0 = .ok () ∧
    c.leader lane0 = some 0 := by
  intro o ho
  simp only [List.mem_cons, List.not_mem_nil, or_false] at ho
  rcases ho with rfl | rfl <;>
    exact ⟨issues_of (by decide), ids_of (by decide), ok_of (by decide), ok_of (by decide), by decide⟩

/-- The path once the list is read. -/
def kickC1 (s : State) : Cx := okD default (((cxAt s).at (s.flushEngine 2 false)).imageReady 192 32)
/-- What the check of the list answers. -/
def kickPlanOf (s : State) : Except Stop (List (List Word × List Word)) :=
  (kickC1 s).checkKick 0 (192, 32) (wordGroups 8 (leWords ((kickC1 s).s.seenBytes 2 (.shared 2) 192 32)) 1) 0

theorem wit_Ckick_clauses : let c := cxAt (aList (.const .i1)); (cxAt (aList (.v 4))).wordAt (copyOp (.v 4) 2) 0 = 0 ∧
    c.wordAt (copyOp (.const .i1) 2) 0 = 1 ∧ c.wordAt (copyOp (.v 7) 1) 0 = 192 ∧ 192 + 32 ≤ c.l.shBytes ∧ c.allPerformed = true ∧ c.canFlush false = true ∧
    (c.at (c.s.flushEngine 2 false)).imageReady 192 32 = .ok (kickC1 (aList (.const .i1))) ∧ (kickC1 (aList (.const .i1))).cst.kicks.length < 16 ∧
    ∃ es, kickPlanOf (aList (.const .i1)) = .ok es ∧ kickOut es = false ∧ (kickC1 (aList (.const .i1))).canFlush (kickOut es) = true ∧
      (kickC1 (aList (.const .i1))).wp.canPark = true :=
  ⟨by decide, by decide, by decide, by decide, by decide, by decide, okD_of (by decide), by decide, _, rfl, by decide, by decide, by decide⟩

/-- An entry of zeros names a malformed record: the list's check fails. -/
theorem wit_Ckick_bad : let s := holding [(200, 64#32)] (withPages (atInstr (ckickI (.const .i1)))); let c := cxAt s
    Issues (ckickI (.const .i1)) s c ∧ (c.at (c.s.flushEngine 2 false)).imageReady 192 32 = .ok (kickC1 s) ∧ ∃ w, kickPlanOf s = .error w :=
  ⟨issues_of (by decide), okD_of (by decide), _, rfl⟩

/-- A list whose copy goes outward. -/
theorem wit_Ckick_out : kickOut [([1#32], [])] = true := by decide

/-- The words of that list's entry and record. -/
def kickEntry : List Word × List Word := ([0#32, 0#32, 128#32, 0#32, 0#32, 0#32, 0#32, 0#32],
  [0#32, 0#32, 9#32, 4#32, 0#32, 0#32, 0#32, 0#32, 0#32, 0#32, 0#32, 0#32, 0#32, 4#32, 0#32, 0#32])
/-- A core that has kicked it. -/
def kicked : State := (atInstr .nop).modCore 0 fun c => { c with kicks := [{ (default : Kick) with id := 70, block := 2, entries := [kickEntry] }] }

theorem wit_RequestEngine : let k : Kick := { (default : Kick) with id := 70, block := 2, entries := [kickEntry] }
    (kicked.core 0).halted = false ∧ (kicked.core 0).halting = none ∧ (kicked.core 0).kicks.find? (fun k => !(kicked.block k.block).saved) = some k ∧ k.entries = kickEntry :: [] ∧ kicked.boardUsed 0 < 96 ∧
    ∃ p, (kicked.block k.block).kickPlan k kickEntry = some p :=
  ⟨by decide, by decide, by decide, by decide, by decide, _, rfl⟩

/-! Barrier objects and glazed pairs. -/

theorem wit_Binit : let i : Instr := .binit (.v 6) (.v 5) .ident odd; let s := atInstr i; let c := cxAt s; let a := copyOp (.v 6) 1
    Issues i s c ∧ IdsInv s ∧ c.checkOps [a, copyOp (.v 5) 2] = .ok () ∧ c.checkReads [a, copyOp (.v 5) 2] odd = .ok () ∧ c.leader odd = some 1 ∧
    c.det = false ∧ c.wp.canPark = true ∧ ∃ t, c.laneAddr .sh (.store .u64) 8 (c.addrOf a 0 1) = .ok t ∧ c.s.placeBoarded t.place t.addr 8 false = false :=
  ⟨issues_of (by decide), ids_of (by decide), ok_of (by decide), ok_of (by decide), by decide, by decide, by decide, _, rfl, by decide⟩

/-- In DET mode. -/
theorem wit_Binit_det : let i : Instr := .binit (.v 6) (.v 5) .ident odd; let s := detMode (atInstr i); let c := cxAt s; let a := copyOp (.v 6) 1
    Issues i s c ∧ IdsInv s ∧ MemInv s ∧ c.checkOps [a, copyOp (.v 5) 2] = .ok () ∧ c.checkReads [a, copyOp (.v 5) 2] odd = .ok () ∧ c.leader odd = some 1 ∧
    c.det = true ∧ c.wp.canPark = true ∧ c.wp.queued = [] ∧ c.blk.release = [] ∧ s.releaseUsed c.core ≤ 65536 ∧
    ∃ t, c.laneAddr .sh (.store .u64) 8 (c.addrOf a 0 1) = .ok t ∧ c.s.placeBoarded t.place t.addr 8 false = false :=
  ⟨issues_of (by decide), ids_of (by decide), mem_of (by decide), ok_of (by decide), ok_of (by decide), by decide, by decide, by decide, by decide, by decide,
    by decide, _, rfl, by decide⟩

/-- `CWAIT` on the object at 128. -/
def cwaitI : Instr := .cwait { a := .v 6, pa := .ident, g := Guard.always }

/-- Does no earlier access of the warp order its read? -/
def cwaitClear (s : State) : Bool := let c := cxAt s; let a := copyOp (.v 6) 1
  c.clearFor [c.access (c.targets .sh (.load .u64) 8 a 0 (1#64 <<< 0)) a 0 8 s.serial (.load .u64 false) [] [] 0 s.serial]

theorem wit_Cwait : ∀ x ∈ [(0#32, [0#8, 0#8, 0#8, 0#8]), (5#32, [5#8, 0#8, 0#8, 0#8])], let s := holding [(128, x.1)] (atInstr cwaitI); let c := cxAt s; let a := copyOp (.v 6) 1
    Issues cwaitI s c ∧ c.checkOps [a] = .ok () ∧ c.checkReads [a] Guard.always = .ok () ∧ c.leader Guard.always = some 0 ∧
    ∃ t, c.laneAddr .sh (.load .u64) 8 (c.addrOf a 0 0) = .ok t ∧ c.ownWrites t (c.addrOf a 0 0) 8 = false ∧ c.readNow 0 t.place t.addr 4 = x.2 ∧
      s.placeBoarded t.place t.addr 8 true = false ∧ cwaitClear s = true ∧ c.wp.canPark = true := by
  intro x hx
  simp only [List.mem_cons, List.not_mem_nil, or_false] at hx
  rcases hx with rfl | rfl <;>
    exact ⟨issues_of (by decide), ok_of (by decide), ok_of (by decide), by decide, _, rfl, by decide, by decide, by decide, by decide, by decide⟩

/-- The object's word is poisoned; the release buffer holds it, and can be performed or not. -/
theorem wit_Cwait_reads : let s : State := { holding [(128, 0#32)] (atInstr cwaitI) with badBytes := [sharedAddr 2 128] }
    let t := buffering aReduction (atInstr cwaitI); let u := boardFrom 132 t
    Issues cwaitI s (cxAt s) ∧ s.sharedBad 2 128 4 = true ∧ cwaitClear s = true ∧ (cxAt s).blk.buffers (.shared 2) 128 4 = false ∧
    Issues cwaitI t (cxAt t) ∧ (cxAt t).blk.buffers (.shared 2) 128 4 = true ∧ t.flushClear 0 = true ∧ (t.flushNow 2).sharedBad 2 128 4 = false ∧
    Issues cwaitI u (cxAt u) ∧ (cxAt u).blk.buffers (.shared 2) 128 4 = true ∧ u.flushClear 0 = false :=
  ⟨issues_of (by decide), by decide, by decide, by decide, issues_of (by decide), by decide, by decide, by decide, issues_of (by decide), by decide, by decide⟩

/-- An engine holds the object's range. -/
theorem wit_Cwait_held : let s := { holding [(128, 0#32)] (atInstr cwaitI) with copies := [{ (default : Copy) with id := 70, block := 2, dir := .inn, ranges := [(128, 16)] }] }
    Issues cwaitI s (cxAt s) ∧ s.placeBoarded (.shared 2) 128 8 true = true := ⟨issues_of (by decide), by decide⟩

/-- An earlier store of the object's lane is not performed. -/
theorem wit_Cwait_ordered : let s := pending (holding [(128, 0#32)] (atInstr cwaitI)) { storeAccess with addr := 128 }
    Issues cwaitI s (cxAt s) ∧ cwaitClear s = false := ⟨issues_of (by decide), by decide⟩

/-- `GLAZE` of a pair; `.reg` names 128 and 192. -/
def glazeI (op : GlazeOp) : Instr := .glaze op 2 (if op = .reg then .v 6 else .v 0) (if op = .reg then .v 7 else .v 0) Guard.always
/-- The pair is registered. -/
def glazed (op : GlazeOp) : State := withBlock (atInstr (glazeI op)) fun b => { b with glaze := [(2, { base := 128, len := 192 })] }

theorem wit_Glaze_reg : let s := atInstr (glazeI .reg); let c := cxAt s; let d := cxAt (withBlock s fun b => { b with glaze := [(1, { base := 64, len := 64 })] })
    IdsInv s ∧ MemInv s ∧ c.leader Guard.always = some 0 ∧ Issues (glazeI .reg) s c ∧ c.checkOps [copyOp (.v 6) 1, copyOp (.v 7) 2] = .ok () ∧
    c.checkReads [copyOp (.v 6) 1, copyOp (.v 7) 2] Guard.always = .ok () ∧ c.wordAt (copyOp (.v 6) 1) 0 = 128 ∧ c.wordAt (copyOp (.v 7) 2) 0 = 192 ∧
    c.glazeOk 2 128 192 = true ∧ d.glazeOk 2 128 192 = false :=
  ⟨ids_of (by decide), mem_of (by decide), by decide, issues_of (by decide), ok_of (by decide), ok_of (by decide), by decide, by decide, by decide, by decide⟩

theorem wit_Glaze_swap_rel : ∀ op ∈ [GlazeOp.swap, .rel], let s := glazed op; let c := cxAt s
    IdsInv s ∧ MemInv s ∧ c.leader Guard.always = some 0 ∧ Issues (glazeI op) s c ∧ c.checkReads [] Guard.always = .ok () ∧
    alook 2 c.blk.glaze = some { base := 128, len := 192 } ∧ s.sharedBad c.b 128 384 = false ∧
    ({ s with badBytes := [sharedAddr 2 500] } : State).sharedBad c.b 128 384 = true ∧ c.allPerformed = true ∧ s.boarded c.b 128 (2 * 192) false = false ∧
    c.canFlush false = true ∧ alook 2 (cxAt (atInstr (glazeI op))).blk.glaze = none := by
  intro op h
  simp only [List.mem_cons, List.not_mem_nil, or_false] at h
  rcases h with rfl | rfl <;>
    exact ⟨ids_of (by decide), mem_of (by decide), by decide, issues_of (by decide), ok_of (by decide), by decide, by decide, by decide, by decide, by decide, by decide, by decide⟩

/-! Tables and chains. -/

/-- `LDACT` of the image at 128. -/
def ldactI : Instr := .ldact 5 { a := .v 6, pa := .ident, g := odd }

theorem wit_Ldact : let s := atInstr ldactI; let c := cxAt s; let a := addrOp (.v 6) .ident .sh
    Issues ldactI s c ∧ IdsInv s ∧ c.checkOps [a] = .ok () ∧ c.checkReads [a] odd = .ok () ∧ c.leader odd = some 1 ∧ c.addrOf a 0 1 = 128 ∧
    128 + 3088 ≤ c.l.shBytes ∧ (c.cst.act c.l.ctxid 5).incoming = [] ∧ c.sfuFree = true ∧ c.imageReady 128 3088 = .ok (okD default (c.imageReady 128 3088)) ∧
    (buffersOf 8 c.l.ctxid c.cst.acts).length = 8 :=
  ⟨issues_of (by decide), ids_of (by decide), ok_of (by decide), ok_of (by decide), by decide, by decide, by decide, by decide, by decide, okD_of (by decide), by decide⟩

/-- An image of zeros has a good header; one whose first word is a NaN has none. -/
theorem wit_Ldact_clauses : actHeaderOk (List.replicate 3088 0#8) = true ∧
    actHeaderOk (leBytes 4 0x7FC00000 ++ List.replicate 3084 0#8) = false := by decide

/-- A chain of one addition, its word 0 at 128. -/
def aChain : List (Nat × Word) :=
  let x := encodePair (.iaddLong { d := .v 0, a := .v 8, b := .v 9, pa := .ident, pb := .ident, g := Guard.always } .s32)
  [(128, 1#32), (132, x.1), (136, x.2)]
/-- `CHLOAD` of it. -/
def chloadI : Instr := .chload 3 { a := .v 6, pa := .ident, g := odd }

theorem wit_Chload : let s := holding aChain (atInstr chloadI); let c := cxAt s; let a := addrOp (.v 6) .ident .sh
    let c1 := okD default (c.imageReady 128 4); let head := BitVec.ofNat 32 (leNat (c1.s.seenBytes c.b (.shared c.b) 128 4))
    let size := 4 + 8 * chainN head; let c2 := okD default (c1.imageReady 128 size)
    Issues chloadI s c ∧ IdsInv s ∧ c.checkOps [a] = .ok () ∧ c.checkReads [a] odd = .ok () ∧ c.leader odd = some 1 ∧ c.addrOf a 0 1 = 128 ∧
    128 + size ≤ c.l.shBytes ∧ (c.cst.chain c.l.ctxid 3).incoming = [] ∧ c.imageReady 128 4 = .ok c1 ∧ c1.imageReady 128 size = .ok c2 ∧
    (buffersOf 4 c.l.ctxid c.cst.chains).length = 4 ∧ chainHeadOk head = true ∧
    (chainOps ((leWords (c2.s.seenBytes c.b (.shared c.b) 128 size)).drop 1)).isSome = true :=
  ⟨issues_of (by decide), ids_of (by decide), ok_of (by decide), ok_of (by decide), by decide, by decide, by decide, by decide, okD_of (by decide),
    okD_of (by decide), by decide, by decide, by decide⟩

/-- A table and a slot with an image on its way in. -/
def loading : State :=
  State.reset.modCore 0 fun c => { c with acts := [(0#32, (List.replicate 8 default).set 3 { (default : Buffer) with incoming := [(2, 0, 60, [1#8])] })],
                                          chains := [(0#32, (List.replicate 4 default).set 3 { (default : Buffer) with incoming := [(2, 0, 60, [1#8])] })] }

theorem wit_Flips : 7 < (buffersOf 8 0#32 (State.reset.core 0).acts).length ∧ 3 < (buffersOf 4 0#32 (State.reset.core 0).chains).length ∧
    ((State.reset.core 0).act 0#32 7).incoming = [] ∧ ((State.reset.core 0).chain 0#32 3).incoming = [] ∧
    3 < (buffersOf 8 0#32 (loading.core 0).acts).length ∧ 3 < (buffersOf 4 0#32 (loading.core 0).chains).length ∧
    ((loading.core 0).act 0#32 3).incoming = (2, 0, 60, [1#8]) :: [] ∧ ((loading.core 0).chain 0#32 3).incoming = (2, 0, 60, [1#8]) :: [] := by decide

/-! The matrix engine. -/

/-- `MMA` of the parameter block at 128, in lane 0. -/
def mmaI : Instr := .mma { a := .v 6, pa := .ident, g := lane0 }
/-- A block of signed bytes: K 32, A at 256 with rows of 64 bytes, B in `v0` and after, of warp 0. -/
def aBlock (reserved : Word) : List (Nat × Word) := [(128, 0x000014A4#32), (132, 32#32), (136, 256#32), (140, 64#32), (156, reserved)]

theorem wit_Mma : ∀ r ∈ [0#32, 1#32], let s := holding (aBlock r) (atInstr mmaI); let c := cxAt s; let a := addrOp (.v 6) .ident .sh
    let c1 := okD default (c.imageReady 128 64); let ws := leWords (c1.s.seenBytes c.b (.shared c.b) 128 64)
    let c2 := okD default (c1.imageReady (pbBits ws 2 17 0) (aLen ws))
    Issues mmaI s c ∧ IdsInv s ∧ MemInv s ∧ c.checkOps [a] = .ok () ∧ c.checkReads [a] lane0 = .ok () ∧ (c.doing lane0).lanes = [0] ∧ c.addrOf a 0 0 = 128 ∧
    128 + 64 ≤ c.l.shBytes ∧ c.imageReady 128 64 = .ok c1 ∧ c1.badParam ws = (if r = 0#32 then none else some 3) ∧ (c1.s.matqOf c.core).length < 4 ∧
    c1.s.boardUsed c.core + (if c.det then 2 else 1) ≤ 96 ∧ c1.canFlush false = true ∧ c1.s.boarded c.b (128 + 48) 16 false = false ∧
    c1.imageReady (pbBits ws 2 17 0) (aLen ws) = .ok c2 ∧ c2.absentImage ws = none := by
  intro r hr
  simp only [List.mem_cons, List.not_mem_nil, or_false] at hr
  rcases hr with rfl | rfl <;>
    exact ⟨issues_of (by decide), ids_of (by decide), mem_of (by decide), ok_of (by decide), ok_of (by decide), by decide, by decide, by decide, okD_of (by decide),
      by decide, by decide, by decide, by decide, by decide, okD_of (by decide), by decide⟩

/-- Two acting lanes, and a block that is not aligned. -/
theorem wit_Mma_traps : let i : Instr := .mma { a := .v 6, pa := .ident, g := odd }; let j : Instr := .mma { a := .v 5, pa := .ident, g := lane0 }
    let s := atInstr i; let t := atInstr j
    Issues i s (cxAt s) ∧ (cxAt s).checkOps [addrOp (.v 6) .ident .sh] = .ok () ∧ (cxAt s).checkReads [addrOp (.v 6) .ident .sh] odd = .ok () ∧
    ((cxAt s).doing odd).lanes.take 2 = [1, 3] ∧ Issues j t (cxAt t) ∧ (cxAt t).checkOps [addrOp (.v 5) .ident .sh] = .ok () ∧
    (cxAt t).checkReads [addrOp (.v 5) .ident .sh] lane0 = .ok () ∧ ((cxAt t).doing lane0).lanes = [0] ∧ (cxAt t).addrOf (addrOp (.v 5) .ident .sh) 0 0 = 8 :=
  ⟨issues_of (by decide), ok_of (by decide), ok_of (by decide), by decide, issues_of (by decide), ok_of (by decide), ok_of (by decide), by decide, by decide⟩

/-- An operation of the block on tile 1. -/
def anOp : MatOp :=
  { (default : MatOp) with id := 70, block := 2, quads := [0], words := [0x000214A4#32, 32#32], reserved := true, acc := [(0, [])] }
/-- Its core, with the operation at a stage. -/
def engine (s : State) (m : MatOp) : State := s.modCore 0 fun c => { c with matq := [m] }

theorem wit_Mclr : ∀ s ∈ [atInstr (.mclr 1), engine (atInstr (.mclr 1)) anOp], Issues (.mclr 1) s (cxAt s) := by
  intro s hs
  simp only [List.mem_cons, List.not_mem_nil, or_false] at hs
  rcases hs with rfl | rfl <;> exact issues_of (by decide)

theorem wit_Mclr_clauses : ((cxAt (atInstr (.mclr 1))).cst.matq.any fun m => m.block == 2 && m.quads.contains 0 && m.tile == 1) = false ∧
    ((cxAt (engine (atInstr (.mclr 1)) anOp)).cst.matq.any fun m => m.block == 2 && m.quads.contains 0 && m.tile == 1) = true := by decide

theorem wit_MatrixAdvances : let b := { anOp with progress := 1 }; let e := { b with rows := 15 }
    ((engine (atInstr .nop) anOp).core 0).matq.find? (fun x => x.id == 70) = some anOp ∧ anOp.reserved = true ∧ anOp.progress < anOp.chunks ∧
    ((engine (atInstr .nop) b).core 0).matq.find? (fun x => x.id == 70) = some b ∧ b.chunks ≤ b.progress ∧ b.rows < 15 ∧
    ((engine (atInstr .nop) b).block? b.block).isSome = true ∧ (b.acc.map fun x => x.1).Nodup ∧
    ((engine (atInstr .nop) e).core 0).matq.find? (fun x => x.id == 70) = some e ∧ e.rows = 15 ∧
    (engine (atInstr .nop) e).endHeld 0 e = false ∧ ({ engine (atInstr .nop) { e with pb := 80 } with copies := [{ (default : Copy) with id := 71, block := 2, dir := .out, ranges := [(128, 16)], parts := [{ g := some 0, sh := 128, len := 16, fill := [], lane := 0 }] }] } : State).endHeld 0 { e with pb := 80 } = true ∧ (atInstr .nop).saggarOf 2 = false ∧
    pbBits anOp.words 0 12 12 = 1 ∧ pbBits anOp.words 0 15 15 = 0 := by decide

/-- An operation that has only STATE 4 left to write. -/
theorem wit_MatrixAdvances_owes : let m := { anOp with owes := 4, progress := 1, rows := 16 }; let s := engine (atInstr .nop) m
    (s.core 0).matq.find? (fun x => x.id == 70) = some m ∧ (s.block m.block).saved = false ∧ s.endHeld 0 m = false ∧ anOp.owes ≠ 4 ∧
    ((cxAt (engine (atInstr (.mclr 1)) m)).cst.matq.any fun m => m.block == 2 && m.quads.contains 0 && m.tile == 1 && m.owes != 4) = false := by decide

/-! Sum trees. -/

/-- Tree 3 of the block has 16 leaves; its launch grants them. -/
def planted (s : State) : State := withPacket 8 0x00001001#32 (withBlock s fun b => { b with trees := [(3, List.replicate 16 5)] })
/-- `WCFG` of tree 3. -/
def wcfgI (k : Option (Fin 11)) : Instr := .wcfg 3 k Guard.always

theorem wit_Wcfg : ∀ k ∈ [some 0, some 1, none], let s := planted (atInstr (wcfgI k)); let c := cxAt s
    Issues (wcfgI k) s c ∧ IdsInv s ∧ c.checkReads [] Guard.always = .ok () ∧ c.doing Guard.always ≠ 0#64 := by
  intro k hk
  simp only [List.mem_cons, List.not_mem_nil, or_false] at hk
  rcases hk with rfl | rfl | rfl <;> exact ⟨issues_of (by decide), ids_of (by decide), ok_of (by decide), by decide⟩

theorem wit_Wcfg_clauses : let c := cxAt (planted (atInstr (wcfgI none))); c.l.leaves = 16 ∧ c.blk.otherLeaves 3 + 16 ≤ c.l.leaves ∧
    c.l.leaves < c.blk.otherLeaves 3 + 32 := by decide

/-- `WSET` and `WADD` of the leaf that a register names, in lane 0. -/
def wF (idx : Opnd) : L2ab := { a := idx, b := .v 5, pa := .ident, pb := .ident, g := lane0 }

theorem wit_TreeUpdates : ∀ i ∈ [Instr.wset 3 none (wF (.v 4)), .wset 3 (some 2) (wF (.v 4)), .wadd 3 true (wF (.v 4))], ∀ s ∈ [atInstr i, planted (atInstr i)], let c := cxAt s
    let rt : RT := match i with | .wset _ (some _) _ => .f32 | _ => .w32
    let a := treeA (.v 4) .ident; let b : OpSpec := { bOp (.v 5) .ident false rt with acc := vsc }
    Issues i s c ∧ IdsInv s ∧ c.checkOps [a, b] = .ok () ∧ c.checkReads [a, b] lane0 = .ok () ∧ (c.doing lane0).lanes = [0] ∧
    (c.read (c.resolve a) 0).lo.toNat = 0 := by
  intro i hi s hs
  simp only [List.mem_cons, List.not_mem_nil, or_false] at hi
  rcases hi with rfl | rfl | rfl <;>
    (simp only [List.mem_cons, List.not_mem_nil, or_false] at hs
     rcases hs with rfl | rfl <;>
       exact ⟨issues_of (by decide), ids_of (by decide), ok_of (by decide), ok_of (by decide), by decide, by decide⟩)

theorem wit_TreeUpdates_clauses : let i : Instr := .wadd 3 true (wF (.v 6)); (cxAt (atInstr i)).blk.tree? 3 = none ∧
    (cxAt (planted (atInstr i))).blk.tree? 3 = some (List.replicate 16 5) ∧
    ((cxAt (planted (atInstr i))).read ((cxAt (planted (atInstr i))).resolve (treeA (.v 6) .ident)) 0).lo.toNat = 128 := by decide

/-- `WLOAD` and `WSAVE` of tree 3 at 128. -/
theorem wit_TreeImages : ∀ i ∈ [Instr.wload 3 { a := .v 6, pa := .ident, g := lane0 }, .wsave 3 { a := .v 6, pa := .ident, g := lane0 }],
    let s := planted (atInstr i); let c := cxAt s
    Issues i s c ∧ IdsInv s ∧ c.treeImage 3 { a := .v 6, pa := .ident, g := lane0 } = .ok (List.replicate 16 5, some 128) ∧
    (c.begun i).imageReady 128 64 = .ok (okD default ((c.begun i).imageReady 128 64)) ∧ c.imageFree 128 64 = .ok () ∧ s.boarded c.b 128 64 false = false ∧ c.canFlush false = true := by
  intro i hi
  simp only [List.mem_cons, List.not_mem_nil, or_false] at hi
  rcases hi with rfl | rfl <;> exact ⟨issues_of (by decide), ids_of (by decide), rfl, okD_of (by decide), ok_of (by decide), by decide, by decide⟩

/-- The unit has taken a query and a save. -/
def taken (m : TreeOp) : State := (atInstr .nop).modCore 0 fun c => { c with trees := [m] }

theorem wit_UnitCompletes : ∀ m ∈ [{ (default : TreeOp) with id := 70, block := 2, dests := [50] }, { (default : TreeOp) with id := 70, block := 2, save := some (128, [1#8, 2#8]) }],
    let s := taken m
    MemInv s ∧ s.uncompared ∧ (s.core 0).halted = false ∧ (s.core 0).trees.find? (fun k => !(s.block k.block).saved) = some m ∧ (s.block? m.block).isSome = true ∧
    (∀ e ∈ m.dests, (s.core 0).entry? e = some (anEntry 50 0 .v ((List.range 32).map fun l => BitVec.ofNat 32 (10 + l)))) := by
  intro m hm
  simp only [List.mem_cons, List.not_mem_nil, or_false] at hm
  rcases hm with rfl | rfl <;> exact ⟨mem_of (by decide), uncompared_of (by decide), by decide, by decide, by decide, by decide⟩

theorem wit_UnitRests : ((State.reset.modCore 0 fun c => { c with halted := true }).core 0).halted = true := by decide

/-- Queries of the tree at the index in `v4`, 0; `WFIND` and `WCUT` of the target in the pair `v20`, `v21`. -/
def qF (a : Opnd) : L2u := { d := .v 3, a := a, pa := .ident, g := odd }

theorem wit_TreeQueries : ∀ x ∈ [(Instr.wget 3 (qF (.v 4)), false, false, Opnd.v 4), (.wpre 3 { qF (.v 4) with d := .v 8 }, true, false, .v 4),
      (.wfind 3 (qF (.v 20)), false, true, .v 20), (.wcut 3 (qF (.v 20)), false, true, .v 20)],
    let s := planted (atInstr x.1); let c := cxAt s; let d := dOp (if x.2.1 then .v 8 else .v 3) onlyV x.2.1; let a := treeA x.2.2.2 .ident x.2.2.1
    Issues x.1 s c ∧ IdsInv s ∧ c.blk.tree? 3 = some (List.replicate 16 5) ∧ c.checkOps [d, a] = .ok () ∧ c.checkReads [a] odd = .ok () ∧
    c.acting odd ≠ 0#64 ∧ c.leader odd = some 1 ∧ (∀ l, l < 64 → (c.doing odd).has l = true → (c.read (c.resolve a) l).lo.toNat < 16) ∧
    c.allMergeable (c.acting odd) ((List.range d.span).map fun j => ((c.dstReg d).1, (c.dstReg d).2 + j)) = .ok () := by
  intro x hx
  simp only [List.mem_cons, List.not_mem_nil, or_false] at hx
  rcases hx with rfl | rfl | rfl | rfl <;>
    exact ⟨issues_of (by decide), ids_of (by decide), by decide, ok_of (by decide), ok_of (by decide), by decide, by decide, by decide, ok_of (by decide)⟩

theorem wit_Wsum : let i : Instr := .wsum 3 (.v 8) Guard.always; let s := planted (atInstr i); let c := cxAt s; let d := dOp (.v 8) onlyV true
    Issues i s c ∧ IdsInv s ∧ c.blk.tree? 3 = some (List.replicate 16 5) ∧ c.checkOps [d] = .ok () ∧ c.checkReads [] Guard.always = .ok () ∧
    c.acting Guard.always ≠ 0#64 ∧ c.acting Guard.always = fullMask c.width :=
  ⟨issues_of (by decide), ids_of (by decide), by decide, ok_of (by decide), ok_of (by decide), by decide, by decide⟩

/-! Events. -/

/-- The device with the block of `atInstr`, no path issuing. -/
def atRest (i : Instr) : State := { atInstr i with issuing := none }
/-- The path at a code address, outside a clause. -/
def pathAt (pc : Word) (s : State) : State :=
  withWarp s fun w => { w with paths := w.paths.map fun p => { p with pc := pc, clause := none } }
/-- A path in a clause, one at a header of N 1, one that stands at a word which is no header. -/
def selectStates : List State :=
  [atRest .nop, withHeader (pathAt 0#32 ((atRest .nop).modCore 0 fun c => { c with icache := c.icache.map fun k => { k with words := setAt 0 0x10001FE0#32 k.words } })),
   pathAt 8#32 (atRest .nop)]

theorem wit_Select : ∀ s ∈ selectStates, (s.core 0).halted = false ∧ (s.core 0).halting = none ∧
    (let u := (s.vecReady 0 0).beforeIssue 0; let r := u.survey 0 0; let k := (r.2.core 0).quad 0
     (u.insteadOfIssue 0 0).isNone = true ∧ k.busy ≤ k.clock ∧ (choose k (unyielded k r.1)).isSome = true) := by
  intro s hs
  simp only [selectStates, List.mem_cons, List.not_mem_nil, or_false] at hs
  rcases hs with rfl | rfl | rfl <;> exact ⟨by decide, by decide, by decide, by decide, by decide⟩

theorem wit_Select_fronts : selectStates.map (fun s => (s.survey 0 0).1.map (·.front)) =
    [[.inside], [.start 0x10001FE0#32], [.trap 0x06 0 8#32]] := by decide

/-- Two 16-wide warps of one quadrant at the same instruction; the second may leave a cycle to others. -/
def packing (yield : Option Nat) : State :=
  withBlock (withPacket 5 0#32 (atRest .nop)) fun b => { b with warps := b.warps ++ b.warps.map fun w =>
    { w with idx := 4, slot := 4, paths := w.paths.map fun p => { p with yield := yield } } }

theorem wit_Select_pair : let s := packing none; let u := (s.vecReady 0 0).beforeIssue 0; let r := u.survey 0 0; let k := (r.2.core 0).quad 0
    let xs := unyielded k r.1
    (s.core 0).halted = false ∧ (s.core 0).halting = none ∧ (u.insteadOfIssue 0 0).isNone = true ∧ k.busy ≤ k.clock ∧
    (choose k xs).map (fun x => (x.c.w, x.c.l.physW, (packMate xs x).map (·.c.w))) = some (0, 16, some 4) := by decide

theorem wit_Select_yields : let s := packing (some 0); let u := (s.vecReady 0 0).beforeIssue 0; let r := u.survey 0 0; let k := (r.2.core 0).quad 0
    k.clock = 0 ∧ r.1.map (fun x => (x.c.w, x.c.pt.yield)) = [(0, none), (4, some 0)] ∧ (choose k (unyielded k r.1)).isSome = true := by decide

/-- A path whose next instruction waits for an operand is not ready. -/
theorem wit_Select_stalls : let s := (atRest (.iadd rrr)).modCore 0 fun c => { c with entries := c.entries.map fun e => if e.eid = 50 then { e with st := .pending, known := false } else e }
    (candidates (s.freePaths 0 0)).length = 1 ∧ (s.survey 0 0).1 = [] := by decide

theorem wit_Select_halted : ∀ s ∈ [State.reset.modCore 4 fun c => { c with halting := some 7 }, State.reset.modCore 4 fun c => { c with halted := true }],
    (s.core 4).halted = true ∨ (s.core 4).halting ≠ none := by decide

/-- With nothing to choose, at reset; and with a trap to deliver, which comes first. -/
theorem wit_Select_other : let s := State.reset; let u := (s.vecReady 0 3).beforeIssue 0
    (s.core 0).halted = false ∧ (s.core 0).halting = none ∧ (u.insteadOfIssue 0 3).isNone = true ∧ ((u.survey 0 3).2.choosePath 0 3 (u.survey 0 3).1 (fun _ => true)).isNone = true ∧
    3 < ((u.survey 0 3).2.core 0).quads.length := by decide

/-- A trap delivered to the warp. -/
def aDelivery : Delivery := { cause := 0x0B, info := 1#32, precise := false, threads := 1#64, replay := true, fpc := 0#32, fva := 0, fmask := 1#64, adopted := none }
/-- The state with it. -/
def delivering (s : State) : State := withWarp s fun w => { w with deliver := [aDelivery] }

theorem wit_Select_delivery : let s := delivering (atRest .nop); let u := (s.vecReady 0 0).beforeIssue 0
    (s.core 0).halted = false ∧ (s.core 0).halting = none ∧ (u.insteadOfIssue 0 0).isSome = true := by decide

theorem wit_Ageing : let s := withWarp (atRest .nop) fun w => { w with paths := w.paths.map fun p => { p with aged := some 1 } }
    let u := (s.vecReady 0 0).beforeIssue 0; let k := ((u.survey 0 0).2.core 0).quad 0
    let xs := (unyielded k (u.survey 0 0).1).filter fun x => x.c.pt.aged.isSome && !x.c.det
    (s.core 0).halted = false ∧ (s.core 0).halting = none ∧ (u.insteadOfIssue 0 0).isNone = true ∧ k.busy ≤ k.clock ∧ (choose k xs).map (·.front) = some .inside := by decide

/-- With no aged path nothing is chosen, and with its quadrant busy nothing issues. -/
theorem wit_Ageing_none : let s := atRest .nop; let u := (s.vecReady 0 0).beforeIssue 0; let k := ((u.survey 0 0).2.core 0).quad 0
    (u.insteadOfIssue 0 0).isNone = true ∧ k.busy ≤ k.clock ∧ (choose k ((unyielded k (u.survey 0 0).1).filter fun x => x.c.pt.aged.isSome && !x.c.det)).isNone = true ∧
    (let t := s.modCore 0 fun c => { c with quads := c.quads.map fun q => { q with busy := 9 } }; let v := (t.vecReady 0 0).beforeIssue 0
     (v.insteadOfIssue 0 0).isNone = true ∧ (((v.survey 0 0).2.core 0).quad 0).clock < (((v.survey 0 0).2.core 0).quad 0).busy) := by decide

theorem wit_TrapEntryEvent : ∀ s ∈ [delivering (atRest .nop), delivering (inTx (atRest .nop))],
    (s.warp 2 0).delivery = some (aDelivery, 3) ∧ s.resting 2 = false ∧ (s.warp 2 0).quiet = true ∧
    ((s.modWarp 2 0 fun x => { x with deliver := x.deliver.erase aDelivery }).cxOf 2 0 3).isSome = true := by
  intro s hs
  simp only [List.mem_cons, List.not_mem_nil, or_false] at hs
  rcases hs with rfl | rfl <;> exact ⟨by decide, by decide, by decide, by decide⟩

theorem wit_TrapEntryEvent_clauses : let s := delivering (atRest .nop); let h := delivering (inHandler (atRest .nop))
    let u := s.modWarp 2 0 fun x => { x with deliver := x.deliver.erase aDelivery }
    let c : Cx := (u.cxOf 2 0 3).getD default
    (s.warp 2 0).tx = none ∧ (s.warp 2 0).handler = none ∧ (h.warp 2 0).delivery = some (aDelivery, 3) ∧ (h.warp 2 0).handler.isSome = true ∧
    ((delivering (pending (atRest .nop) { storeAccess with kind := .load .b32 false, data := [], dests := [50] })).warp 2 0).quiet = false ∧ c.intact (u.drained c.core 2 0 3) = true ∧
    (withBlock s fun b => { b with saved := true }).resting 2 = true := by decide

/-- A frame to be written, and a slot of an absent register that is poisoned: the path does not outlive the fill. -/
theorem wit_TrapEntryEvent_lost : let s := delivering { poisonedSlot with issuing := none }; let u := s.modWarp 2 0 fun x => { x with deliver := x.deliver.erase aDelivery }
    let c : Cx := (u.cxOf 2 0 3).getD default
    (s.warp 2 0).delivery = some (aDelivery, 3) ∧ s.resting 2 = false ∧ (s.warp 2 0).tx = none ∧ (s.warp 2 0).quiet = true ∧ u.framesTrap c 0x0B = true ∧
    c.intact (u.drained c.core 2 0 3) = false := by decide

/-- `v1`'s entry known and not yet ready. -/
def computing : State := (atRest .nop).modCore 0 fun c => { c with entries := c.entries.map fun e => if e.eid = 50 then { e with st := .pending } else e }

theorem wit_EntryReady : ((computing.core 0).entry? 50).map (fun e => (e.st, e.known, e.due)) = some (.pending, true, none) ∧
    (∀ k ∈ (computing.core 0).trees, 50 ∉ k.dests) ∧ ((computing.core 0).entry? 50).all (fun e => !e.bearing && !e.key.any (·.saggar) && !e.dead) = true := by decide

/-- An entry of a saggar launch with a key, which is compared before it is ready. -/
def comparing : State := computing.modCore 0 fun c => { c with entries := c.entries.map fun e => { e with key := some { (default : Key) with saggar := true } } }

theorem wit_EntryReady_saggar : ((comparing.core 0).entry? 50).map (fun e => (e.st, e.known, e.due, e.dead, e.key.any (·.saggar))) =
    some (.pending, true, none, false, true) := by decide

/-- An `s` register, and the second piece of `v1`, in the save area. -/
theorem wit_RegisterFill_s : let s := withPages (withWarp (atRest .nop) fun w => { w with paths := w.paths.map fun p => { p with sAbsent := [(4, none)] } })
    let c := (s.cxOf 2 0 3).getD default
    IdsInv s ∧ (s.warp 2 0).paths = [c.pt] ∧ s.cxOf 2 0 c.pt.id = some c ∧ alook 4 c.pt.sAbsent = some none ∧ c.blk.saved = false ∧ c.blk.ended = false ∧
    s.slotLost 2 0 .s 4 = false :=
  ⟨ids_of (by decide), by decide, some_of (by decide), by decide, by decide, by decide, by decide⟩

theorem wit_RegisterFill : let s := withPages (withWarp (atRest .nop) fun w => { w with absent := [(.v, 1, 1)] }); let c := (s.cxOf 2 0 3).getD default
    IdsInv s ∧ (s.warp 2 0).paths = [c.pt] ∧ s.cxOf 2 0 c.pt.id = some c ∧ (RegClass.v, 1, 1) ∈ c.wp.absent ∧ c.blk.saved = false ∧ c.blk.ended = false ∧
    s.slotLost 2 0 .v 1 = false ∧ (s.modCtx 0 0 fun x => { x with tlb := [] }).slotLost 2 0 .v 1 = true :=
  ⟨ids_of (by decide), by decide, some_of (by decide), by decide, by decide, by decide, by decide, by decide⟩

/-- A path that waits for the second code line of a context with a code region of two lines and its tag records after it. -/
def fetching : State :=
  withWarp ((withPages (atRest .nop)).modCtx 0 0 fun c => { c with csize := 256#64, tbase := 256#64 }) fun w =>
    { w with paths := w.paths.map fun p => { p with fetch := some 128 } }

/-- The same with `v1`'s result pending: no other register names it. -/
theorem wit_RegisterFill_pending : let s := withPages (withWarp computing fun w => { w with absent := [(.v, 1, 1)] }); let c := (s.cxOf 2 0 3).getD default
    IdsInv s ∧ (s.warp 2 0).paths = [c.pt] ∧ s.cxOf 2 0 c.pt.id = some c ∧ (RegClass.v, 1, 1) ∈ c.wp.absent ∧ c.blk.saved = false ∧ c.blk.ended = false ∧
    s.slotLost 2 0 .v 1 = false ∧ regPtr c.wp c.pt .v 1 = 50 ∧ c.cst.isReady 50 = false ∧ c.wp.v.all (fun x => x.1 == 1 || x.2 != 50) = true ∧
    c.wp.p.all (fun x => x.2 != 50) = true ∧ c.pt.s.all (fun x => x.2 != 50) = true :=
  ⟨ids_of (by decide), by decide, some_of (by decide), by decide, by decide, by decide, by decide, by decide, by decide, by decide, by decide, by decide⟩

theorem wit_IcacheFill : let s := fetching; let b := s.block 2; let l := s.launch b.launch; let x := s.ctx 0 0
    s.block? 2 = some b ∧ b.ended = false ∧ b.saved = false ∧ b.fetchers 128 ≠ [] ∧ (∀ k ∈ (s.core b.core).icache, k.is l 2 128 = false) ∧
    x.cbase.toNat ≤ 128 ∧ 128 + 128 ≤ x.cbase.toNat + x.csize.toNat ∧
    ∃ leaf, s.translate (some 0) 0 0 128 = .leaf leaf ∧ leaf.attr.fx = true ∧
      let u := s.cacheLeaf 0 0 0 leaf
      (u.codeBad 2 leaf.attr.hbm (leaf.pa 128) 128 || u.tagBad 2 l x 128) = false ∧ (u.tagRecord 2 l x 128).isSome = true ∧
      ({ u with badBytes := [lineAddr leaf.attr.hbm (leaf.pa 128)] } : State).codeBad 2 leaf.attr.hbm (leaf.pa 128) 128 = true :=
  ⟨by decide, by decide, by decide, by decide, by decide, by decide, by decide, _, rfl, by decide, by decide, by decide, by decide⟩

/-- A load of the warp parked on a page that has no mapping. -/
def aParked (kind : AccessKind) (posted : Bool) (answer : Option Bool) : Parked :=
  { tag := 5, kind := kind, va := 4096, mask := 1#64, fpc := 0#32, line := false,
    accs := if kind == .ld then [{ storeAccess with kind := .load .b32 false, va := 4096, place := .scratch, data := [], dests := [50] }] else [],
    copy := none, answer := answer, posted := posted, stale := false }
/-- The state with it; its pages are mapped. -/
def replaying (r : Parked) : State := withPages (withWarp (atRest .nop) fun w => { w with replay := [r] })

theorem wit_TranslationWalk : ∀ r ∈ [aParked .ld false none, aParked .ld true none, aParked .ld true (some true), aParked .fetch true (some true)], let s := replaying r
    MemInv s ∧ (s.warp 2 0).replay.find? (·.tag == 5) = some r ∧ s.resting 2 = false ∧ r.stale = false ∧ (s.ctx 0 0).records = [] ∧ r.tag < tagLimit ∧
    (r.answer = some true → ((s.warp 2 0).replay.find? fun y => !y.stale && y.answer == some true) = some r) ∧
    (s.launch (s.block 2).launch).det = false ∧ r.copy = none ∧ r.line = false := by
  intro r hr
  simp only [List.mem_cons, List.not_mem_nil, or_false] at hr
  rcases hr with rfl | rfl | rfl | rfl <;> exact ⟨mem_of (by decide), by decide, by decide, by decide, by decide, by decide, by decide, by decide, by decide, by decide⟩

/-- Another access of the warp has its answer before; a declined one; the walk of a copy; a cancelled one; a halting core. -/
theorem wit_TranslationWalk_clauses : let r := aParked .ld true (some true); let f := { r with tag := 4 }; let k := { aParked .copy true (some true) with copy := some 70 }
    (((withWarp (replaying r) fun w => { w with replay := [f, r] }).warp 2 0).replay.find? fun y => !y.stale && y.answer == some true) = some f ∧
    (aParked .ld true (some false)).answer = some false ∧
    ((moving .inn 128).copies.find? (·.id == 70)).isSome = true ∧ (({ moving .inn 128 with copies := [{ (default : Copy) with id := 70, block := 2 }] } : State).copies.find? (·.id == 70)).map (·.reserved) = some false ∧
    ((replaying k).warp 2 0).replay.find? (·.tag == 5) = some k ∧ ((replaying { r with stale := true }).warp 2 0).replay.map (·.stale) = [true] ∧
    ((replaying r).modCore 0 fun c => { c with halting := some 1 }).resting 2 = true := by decide

theorem wit_TranslationWalk_lanes : let r := aParked .ld true (some true); let s := replaying r
    ∃ t, ∀ k ∈ r.accs, (∃ ty p, k.kind = .load ty p) ∧ k.place = .scratch ∧ (s.warpCx 2 0).laneAddr .sp (r.use k).1 (r.use k).2 k.va = .ok t :=
  ⟨_, fun k hk => by obtain rfl := List.mem_singleton.mp hk; exact ⟨⟨_, _, rfl⟩, rfl, rfl⟩⟩

theorem wit_TranslationWalk_room : let x := (replaying (aParked .ld false none)).modCtx 0 0 fun c => { c with fqsize := 4 }
    ((x.ctx 0 0).fqtail.toNat + 1) % 2 ^ (x.ctx 0 0).fqsize ≠ (x.ctx 0 0).fqhead.toNat % 2 ^ (x.ctx 0 0).fqsize := by decide

theorem wit_Fresp : let r := aParked .ld true none; let s := replaying r
    s.parkedOf 0 0 5 = some (2, 0, r) ∧ (s.warp 2 0).replay.find? (·.tag == 5) = some r ∧ s.resting 2 = false ∧ r.stale = false ∧ r.kind ≠ .fetch ∧ r.copy = none ∧
    (s.warp 2 0).exited = false ∧ s.uncompared :=
  ⟨by decide, by decide, by decide, by decide, by decide, by decide, by decide, uncompared_of (by decide)⟩

/-- A copy's request, and a reservation held by another copy. -/
def waitingFor (held units : Nat) : State :=
  let s := moving .inn 128
  let k := s.copies.headD default
  let r : CurReq := { serial := 60, cls := .copy, core := 0, who := 70, units := units, passed := 0 }
  { s with copies := [k, { k with id := 71 }] }.setCluster 0 { Cluster.init with reqs := [r], held := [(.copy, 0, 71, held)] }

theorem wit_Reservations : ∀ n ∈ [111, 112], let s := waitingFor n 1; let r : CurReq := { serial := 60, cls := .copy, core := 0, who := 70, units := 1, passed := 0 }
    (s.cluster 0).reqs = [r] ∧ s.holderLives r.cls r.core r.who = true ∧ (∀ h ∈ (s.cluster 0).held, s.holderLives h.1 h.2.1 h.2.2.1 = true) ∧
    (∀ i, i < 8 → (s.core (8 * 0 + i)).matq = []) ∧ ((s.cluster 0).held.map fun h => h.2.2.2).sum = n ∧ (s.core 0).halted = false ∧
    ((s.modCore 0 fun c => { c with halted := true }).core 0).halted = true := by decide

theorem wit_PickReq : let r : CurReq := { serial := 60, cls := .copy, core := 0, who := 70, units := 1, passed := 64 }
    pickReq [r, { r with serial := 59, cls := .matrix, passed := 63 }] = some r ∧
    (pickReq [{ r with passed := 0 }, { r with serial := 59, cls := .matrix, passed := 63 }]).map (·.serial) = some 59 := by decide

theorem wit_Watchdog : let m := { anOp with st := 2, pb := 80 }; let s := engine (atRest .nop) m
    let t : State := { s with copies := [{ (default : Copy) with id := 71, block := 2, dir := .out, ranges := [(128, 16)], parts := [{ g := some 0, sh := 128, len := 16, fill := [], lane := 0 }] }] }
    m ∈ (s.core 0).matq ∧ m.reserved = true ∧ m.st = 2 ∧ (s.core 0).matq.any (fun m => m.owes != 4 && s.matHeld 0 m) = false ∧
    (t.core 0).matq.any (fun m => m.owes != 4 && t.matHeld 0 m) = true := by decide

/-- The block with a checkpoint that it may go back to, and one that has gone back four times. -/
def checkpointed (n : Nat) : State :=
  withBlock (atRest .nop) fun b => { b with rollbacks := n, ck := some { (default : BlockCk) with serial := 60, warps := b.warps } }

theorem wit_Rollback : let s := checkpointed 3; let b := s.block 2
    s.block? 2 = some b ∧ b.ended = false ∧ b.saved = false ∧ b.ck.isSome = true ∧ b.eligible = true ∧ b.rollbacks < 4 ∧
    (∃ k, b.ck = some k ∧ ∃ w ∈ b.warps, (k.warps.find? (·.idx == w.idx)).isSome = true) ∧ 4 ≤ ((checkpointed 4).block 2).rollbacks ∧ ((checkpointed 4).launch? ((checkpointed 4).block 2).launch).isSome = true := by decide

/-- An error in data that nothing uses: an entry that no register names, and a byte of no block. -/
theorem wit_Poison : let s := atRest .nop; let e := (s.modCore 0 fun c => { c with entries := c.entries ++ [anEntry 60 9 .v []] })
    ((e.core 0).entry? 60).isSome = true ∧ (e.poison 0 60).poisoned 0 = [] ∧ e.block? 2 = some (e.block 2) ∧ (e.block 2).ended = false ∧
    (e.block 2).saved = false ∧ s.block? 9 = none := by decide

/-- A bucket of package 0. -/
def leaky (fill : BitVec 16) (leak : BitVec 12) : State :=
  State.reset.modPkg 0 fun p => { p with buckets := [(.laneGroup, 3, { fill := fill, leak := leak, inc := 15, mark := 1 })] }

theorem wit_Buckets : let b := ((leaky 65535 1).pkg 0).bucket .laneGroup 3
    b.leak ≠ 0#12 ∧ b.fill ≠ 0#16 ∧ ((State.reset.pkg 0).bucket .laneGroup 3).leak = 0#12 := by decide

/-! Launches. -/

/-- Function 0's queue 1 in host memory with a packet of zeros rung. -/
def rung : State := State.reset.setFn 0 { State.reset.fn 0 with queues := [(1, { Queue.init with en := true, size := 4, door := 1 })] }

theorem wit_LaunchPacket : let k := (alook 1 (rung.fn 0).queues).getD Queue.init
    MemInv rung ∧ (rung.waitingIn 0 1).isNone = true ∧ k.en = true ∧ 4 ≤ k.size ∧ k.size ≤ 16 ∧ k.head.toNat % 2 ^ k.size ≠ k.door.toNat % 2 ^ k.size ∧
    (rung.ctx 0 k.ctx).st = .empty :=
  ⟨mem_of (by decide), by decide, by decide, by decide, by decide, by decide, by decide⟩

/-- The launch of `atInstr`, waiting in an Active context. -/
def launching (phase : Phase) : State :=
  let s := (withPages (atRest .nop)).modCtx 0 0 fun c => { c with st := .active, frcount := 8, stksize := 0, watts := 100, minStep := 255 }
  { s with blocks := [], launches := s.launches.map fun l => { l with phase := phase, next := 0 } }

theorem wit_LaunchAccept : let s := launching .waiting; let x := s.ctx 0 0
    MemInv s ∧ ((s.waitingIn 0 0).map fun l => (s.waitsHold l, decide (l.maxp ≤ x.watts), decide (l.minf ≤ x.minStep), l.boost)) = some (true, true, true, false) ∧
    x.st = .active ∧ x.saving = [] :=
  ⟨mem_of (by decide), by decide, by decide, by decide⟩

/-- Cluster 0 alone is in service: its package has the tokens that its floor asks, whatever they are. -/
def oneCluster : State :=
  { (launching .running).modPkg 0 fun p => { p with tokens := Config.floorTokens 0 } with
    clusters := (List.range 8).map fun k => (k, { Cluster.init with degraded := k != 0 }) }

theorem oneCluster_eligible : oneCluster.eligible [0, 1, 2, 3, 4, 5, 6, 7] = [0] := by
  have h : oneCluster.inService 0 = true := by
    show (true && !decide (Config.floorTokens 0 < Config.floorTokens 0)) = true
    simp
  have k : oneCluster.eligibleOf [0, 1, 2, 3, 4, 5, 6, 7] = [0] := by decide
  simp [State.eligible, State.ranked, State.rankInsert, h, k]

theorem wit_BlockDispatch : let s := oneCluster; let l := s.launch 1
    s.launch? 1 = some l ∧ s.queueOrder = [1] ∧ s.dispatchable l = true ∧ l.det = false ∧ (s.placeSpan l l.clusters).isSome = true ∧ s.paramBytes l = some [] := by
  refine ⟨by decide, by decide, by decide, by decide, ?_, by decide⟩
  have h : (oneCluster.launch 1).clusters = [0, 1, 2, 3, 4, 5, 6, 7] := by decide
  simp only [State.placeSpan, h, oneCluster_eligible]
  decide

/-- The block with all its threads exited. -/
def finished : State := withWarp (atRest .nop) fun w => { w with threads := w.threads.map fun t => { t with exited := true }, paths := [] }

theorem wit_BlockEnd : finished.block? 2 = some (finished.block 2) ∧ finished.canEnd (finished.block 2) = true ∧ (finished.launch? (finished.block 2).launch).isSome = true ∧
    finished.uncompared ∧ (∀ x ∈ (finished.block 2).release, finished.placeBoarded x.place x.addr x.bytes.length false = false) := ⟨by decide, by decide, by decide, uncompared_of (by decide), by decide⟩

theorem wit_LaunchComplete : let s := { launching .running with launches := (launching .running).launches.map fun l => { l with ended := 1 } }; let l := s.launch 1
    MemInv s ∧ s.launch? 1 = some l ∧ l.phase = .running ∧ l.blocks ≤ l.ended ∧ (∀ b ∈ s.blocks, b.launch ≠ 1) ∧
    (∀ y ∈ s.launches, y.id ≠ 1 → ¬ (y.fn = l.fn ∧ y.ctx = l.ctx ∧ y.phase = .running)) ∧ (s.ctx 0 0).st = .active ∧ (s.ctx 0 0).saving = [] :=
  ⟨mem_of (by decide), by decide, by decide, by decide, by decide, by decide, by decide, by decide⟩

/-- Cluster 5 of the first package in a state of its gate, no other cluster of the package Active. -/
def gated (g : Gate) : State :=
  { State.reset with clusters := (List.range 64).map fun k => (k, { Cluster.init with gate := if k = 5 then g else .gated }) }

/-- A package whose tokens are below its floor, whatever the floor is, when it asks for one. -/
theorem wit_Gates_floor : 0 < Config.floorTokens 0 → ((gated .active).modPkg 0 fun p => { p with tokens := 0 }).belowFloor 0 = true := by
  intro h
  show decide (0 < Config.floorTokens 0) = true
  simp [h]

theorem wit_Gates : ((gated .active).cluster 5).gate = .active ∧ (gated .active).emptyCluster 5 = true ∧
    (∀ j, j < 64 → j ≠ 5 → ((gated .active).cluster j).gate ≠ .active) ∧ ((gated .gating).cluster 5).gate = .gating ∧
    ((gated .waking).cluster 5).gate = .waking := by decide

/-- A DET launch whose two blocks have arrived, both having written the word at 64. -/
def conflicting : State :=
  let s := withBlock (detMode (atRest .nop)) fun b => { b with arrived := true, view := [(64, 7#8)], written := [64] }
  { s with blocks := s.blocks ++ s.blocks.map fun b => { b with id := 9, num := 1, view := [(64, 8#8)] } }

theorem wit_StepEnd : let s := conflicting; let l := s.launch 1
    MemInv s ∧ s.launch? 1 = some l ∧ s.stepReady l = true ∧ l.held = [] ∧ (∀ x ∈ s.gridBlocks 1, s.writesLost x = false) ∧ (∀ x ∈ s.gridBlocks 1, ∀ y ∈ x.atoms, y.addr % 4 = 0) ∧
    (∀ x ∈ s.gridBlocks 1, ∀ y ∈ s.gridBlocks 1, x.id = y.id → x = y) ∧
    ((s.gridBlocks 1).filter fun x => x.stored.contains (false, 64) || x.atomic.contains (false, 64)).map (·.id) = [2, 9] :=
  ⟨mem_of (by decide), by decide, by decide, by decide, by decide, by decide, by decide, by decide⟩

/-- One of the blocks has written a word of a package to which no link leads. -/
theorem wit_StepEnd_lost : let s := cutPackage (withBlock conflicting fun b => { b with view := [(2 ^ 29, 7#8)], written := [2 ^ 29] }); let b := s.block 2
    (s.launch? 1).isSome = true ∧ s.stepReady (s.launch 1) = true ∧ b ∈ s.gridBlocks 1 ∧ s.writesLost b = true ∧ s.block? b.id = some b ∧ b.ck = none := by decide

/-- A context whose TLB maps its first page to the start of the scratchpad, LRO or not. -/
def tabled (lro : Bool) (s : State) : State :=
  s.modCtx 0 0 fun c => { c with tlb := [{ unit := .core 0, base := 0, size := 65536, word := if lro then 0x3C00#32 else 0x3800#32, frame := 0 }] }

theorem wit_HostWrite : (State.reset.mappers false 64 = [] ∧ MemInv State.reset) ∧
    (∃ x ∈ (tabled true (atRest .nop)).mappers false 64, x.2.attr.lro = true) ∧
    (let s := tabled false (detMode (atRest .nop))
     (∀ y ∈ s.mappers false 64, y.2.attr.lro = false) ∧ ((s.mappers false 64).find? (fun y => y.1.det)).isSome = true) :=
  ⟨⟨by decide, mem_of (by decide)⟩, by decide, by decide, by decide⟩

/-- Memory that no launch maps, with no context alive; a frame that another live context has reached. -/
theorem wit_HostWrite_hbm : State.reset.mappers true 64 = [] ∧ State.reset.liveCtxs.length < 2 := by decide

theorem wit_MapFrame : let s := ((atRest .nop).modCtx 0 0 fun c => { c with st := .active, pages := [(false, 0, 65536)] }).modCtx 0 1 fun c => { c with st := .active }
    MemInv s ∧ hasFrame (false, 0, 65536) (s.ctx 0 1).pages = false ∧
    ∃ o ∈ s.liveCtxs, o ≠ (0, 1) ∧ (s.framesOf (s.ctx o.1 o.2)).any (sharesFrame (false, 0, 65536)) = true :=
  ⟨mem_of (by decide), by decide, (0, 0), by decide, by decide, by decide⟩

/-! Registers and commands. -/

/-- Context slot 3 of function 2 in a state. -/
def slotIn (st : CtxState) : State := State.reset.modCtx 2 3 fun c => { c with st := st, id := 7#32, feature := 0xE1#32 }

theorem wit_RegisterWrite : ((slotIn .idle).ctx 2 3).st = .idle ∧ ((slotIn .active).ctx 2 3).st ≠ .idle ∧
    ((alook 1 (rung.fn 0).queues).getD Queue.init).en = true ∧ ((slotIn .active).ctx 2 3).stepsize = 0#64 ∧ (((slotIn .active).modCtx 2 3 fun c => { c with stepsize := 131072#64 }).ctx 2 3).stepsize = 131072#64 ∧ ((slotIn .idle).ctx 2 3).st ≠ .empty ∧ ((slotIn .idle).ctx 2 3).records = [] ∧
    (State.reset.ctx 2 3).st = .empty := by decide

theorem wit_SnapshotPin : (atRest .nop).block? 2 = some ((atRest .nop).block 2) ∧ packageOf ((atRest .nop).block 2).core = 0 ∧
    ((atRest .nop).block 2).ended = false ∧ ((atRest .nop).block 2).saved = false := by decide

/-- A command for slot 3 at the head of function 2's ring, at host address 4096; `w1` is its word 1. -/
def aCommand (op w1 : Nat) (s : State) : State :=
  let f := s.fn 2
  { s with host := (Memory.setWord [] 4096 (BitVec.ofNat 32 (op + 768))).setWord 4100 (BitVec.ofNat 32 w1) }.setFn 2 { f with cmdbase := 4096#64, cmdsize := 4, cmddoor := 1 }

theorem wit_Commands : ∀ op ∈ [1, 2, 3, 5, 6, 7, 8, 9], ∀ st ∈ [CtxState.empty, .idle, .active, .saved], let s := aCommand op 0 (slotIn st)
    ∃ ws, s.nextCmd 2 = some ws ∧ cmdSlot ws = 3 ∧ cmdOp ws = op ∧ cmdPlain ws = true ∧ (s.ctx 2 3).st = st ∧ s.ctxids.length + 1 < 2 ^ 32 := by
  intro op ho st hs
  simp only [List.mem_cons, List.not_mem_nil, or_false] at ho hs
  rcases ho with rfl | rfl | rfl | rfl | rfl | rfl | rfl | rfl <;> rcases hs with rfl | rfl | rfl | rfl <;>
    exact ⟨_, rfl, by decide, by decide, by decide, by decide, by decide⟩

theorem wit_Commands_memory : MemInv (aCommand 1 0 (slotIn .empty)) := mem_of (by decide)

/-- The block of `atInstr` in context 3 of function 2, which is Active. -/
def resident : State :=
  let s := slotIn .active
  let x := atRest .nop
  { s with blocks := x.blocks, launches := x.launches.map fun l => { l with fn := 2, ctx := 3, ctxid := 7#32 } }

theorem wit_Preempt : (slotIn .active).coresWith 7#32 = [] ∧ resident.coresWith 7#32 = [0] ∧ (∀ k ∈ resident.coresWith 7#32, (resident.core k).halting = none) := by decide

/-- Tables at HBM address 0 that map the first GiB to the scratchpad. -/
def rooted (s : State) : State :=
  { s with hbm := (((Memory.setWord [] 4 1#32).setWord 8 131072#32).setWord 131072 0x3800#32).setWord 131076 2#32 }

theorem wit_Seal : let s := rooted ((slotIn .idle).modCtx 2 3 fun c => { c with csize := 256#64, tbase := 256#64 }); let x := s.ctx 2 3
    x.st ≠ .empty ∧ x.cbase.toNat ≤ 128 ∧ 128 + 128 ≤ x.cbase.toNat + x.csize.toNat ∧ (s.recordPlace 2 3 x 128).isSome = true ∧
    (s.place none 2 3 128).isSome = true ∧ (s.vread none 2 3 128 128).isSome = true :=
  ⟨by decide, by decide, by decide, by decide, by decide, by decide +kernel⟩

theorem wit_Resume : let s := slotIn .saved; let x := s.ctx 2 3
    x.st = .saved ∧ 0 < s.packages ∧ featureOk x.feature (s.pkg 0).feature = true ∧ (State.placeSaved 0 (s.savedSpans 2 3) s).isSome = true := by decide

theorem wit_Linfo : rung.slotLaunch 0 1 2 = false ∧ { rung with hbm := [(8, 2#8)], host := [(8, 2#8)] }.slotLaunch 0 1 1 = true ∧
    ((launching .complete).launches.map fun l => { l with queue := 1, slot := 1 }).any (fun l => l.fn == 0 && l.queue == 1 && l.slot == 1 && l.phase != .waiting) = true := by
  decide

/-- A block that its core saves, without a frame page, and a checkpoint. -/
theorem wit_Halts_lost : let s := resident.modCore 0 fun c => { c with halting := some 7, halted := true }; let b := s.block 2
    (s.core 0).halting = some 7 ∧ (s.core 0).halted = true ∧ b ∈ s.blocksOf 0 7 ∧ s.saveLost 0 b = true ∧ s.block? b.id = some b ∧ b.ck = none := by decide

theorem wit_Halts : let s := State.reset.modCore 4 fun c => { c with halting := some 7 }; let t := s.modCore 4 fun c => { c with halted := true }
    (s.core 4).halting = some 7 ∧ (s.core 4).halted = false ∧ (t.core 4).halting = some 7 ∧ (t.core 4).halted = true ∧
    ∀ b ∈ t.blocksOf 4 7, t.saveLost 4 b = false := by decide

/-! Management. -/

theorem wit_Management : 0 < State.reset.packages ∧ (State.reset.pkg 0).tokinit = false ∧ ((State.reset.modPkg 0 fun p => { p with tokinit := true }).pkg 0).tokinit = true ∧
    (7, 63, 3) ∉ (State.reset.pkg 0).spared ∧ counterCount .cluster = 64 ∧ counterCount .laneGroup = 8192 ∧ ((slotIn .idle).ctx 2 3).st ≠ .empty ∧ ((atRest .nop).launch? 1).isSome = true := by decide

theorem wit_Management_drain : let s := State.reset.setCluster 63 { Cluster.init with draining := true, drains := 2 }; let t := State.reset.setCluster 63 { Cluster.init with drained := true }
    (s.cluster (64 * 0 + 8 * 7 + 7)).draining = true ∧ (s.cluster 63).drained = false ∧ s.emptyCluster 63 = true ∧ (t.cluster 63).drained = true ∧ t.emptyCluster 63 = true := by
  decide

/-- A token of package 1 on its way to package 0, in a device of two packages. -/
def tokens : State :=
  ({ State.reset with packages := 2 }.modPkg 1 fun p => { p with flight := [(60, 0, 4)], zhobor := [4] })

theorem wit_Tokens : (tokens.pkgs.find? fun p => p.2.flight.any fun t => t.1 == 60 && t.2.1 == 0) = some (1, tokens.pkg 1) ∧
    (60, 0, (4 : Fin 16).val) ∈ (tokens.pkg 1).flight ∧ (4 : Fin 16) ∈ (tokens.pkg 1).zhobor ∧ (3 : Fin 16) ∉ (tokens.pkg 1).zhobor := by decide

/-- Whatever the floor of a package is, it may hold one token more. -/
theorem wit_TokenSend : let s := { State.reset with packages := 2 }.modPkg 0 fun p => { p with tokinit := true, tokens := Config.floorTokens 0 + 1 }
    0 < s.packages ∧ 1 < s.packages ∧ (s.pkg 0).tokinit = true ∧ Config.floorTokens 0 + 1 ≤ (s.pkg 0).tokens ∧ (0 : Fin 16) ∉ (s.pkg 0).zhobor ∧
    (s.pkg 0).group = [] := ⟨by decide, by decide, rfl, Nat.le_refl _, by decide, rfl⟩

/-- In a group, at a step above what one token less allows. -/
theorem wit_TokenSend_group : let s := { State.reset with packages := 2 }.modPkg 0 fun p => { p with
        tokinit := true, tokens := Config.floorTokens 0 + 1, group := [0, 1], freq := [Config.freqFor 0 (min (5 * Config.floorTokens 0) p.envelope) + 1] }
    Config.floorTokens 0 + 1 ≤ (s.pkg 0).tokens ∧ (s.pkg 0).group ≠ [] ∧
    ∃ x ∈ (s.pkg 0).freq, ({ s.pkg 0 with tokens := (s.pkg 0).tokens - 1 } : Package).maxFreq 0 < x := by
  refine ⟨Nat.le_refl _, by decide, _, List.mem_singleton.mpr rfl, ?_⟩
  show (if decide (Config.floorTokens 0 < Config.floorTokens 0) = true then 0
    else Config.freqFor 0 (min (5 * Config.floorTokens 0) Package.init.envelope)) < Config.freqFor 0 (min (5 * Config.floorTokens 0) Package.init.envelope) + 1
  simp

theorem wit_Firmware : let s := State.reset.modPkg 0 fun p => { p with image := some [1#8] }
    0 < s.packages ∧ (s.pkg 0).image = some [1#8] ∧ s.noneResident 0 = true := by decide

theorem wit_Links : ∃ k : Fin 16, k ≠ 0 ∧ k ∉ (State.reset.pkg 0).zhobor := ⟨15, by decide, by decide⟩

/-- A block of package 0 with a store on its way to package 1. -/
theorem wit_Links_cut : let s := (pending (atRest .nop) { storeAccess with place := .scratch, addr := 2 ^ 29 }).modPkg 0 fun p => { p with zhobor := (List.finRange 16).tail }
    (∀ k : Fin 16, k ≠ 0 → k ∈ (s.pkg 0).zhobor) ∧ s.block? 2 = some (s.block 2) ∧ s.strands (s.block 2) 0 = true ∧ (s.block 2).ck = none := by decide

/-! ### One step of an instruction -/

/-- The small state with words in `v8` and after, the same in every lane. -/
def withVals (i : Instr) (xs : List Word) : State :=
  let s := (atInstr i).modCore 0 fun c =>
    { c with entries := c.entries ++ xs.zipIdx.map fun x => anEntry (70 + x.2) (8 + x.2) .v (List.replicate 32 x.1) }
  withWarp s fun w => { w with v := w.v ++ (List.range xs.length).map fun k => (8 + k, 70 + k) }
/-- A register's lane after one step of an instruction that reads `v8` and after. -/
def after (i : Instr) (xs : List Word) (cls : RegClass) (n l : Nat) : Option Word :=
  match step (withVals i xs) with
  | .next t => (t.cxOf 2 0 3).map fun c => c.get cls n l
  | _ => none
/-- Long forms on `v3`, `v8`, `v9`, `v10`. -/
def m2 (a b : Opnd) : L2 := { d := .v 3, a := a, b := b, pa := .ident, pb := .ident, g := Guard.always }
/-- One source. -/
def m1 (a : Opnd) : L2u := { d := .v 3, a := a, pa := .ident, g := Guard.always }
/-- Three sources. -/
def m3 : L3 := { d := .v 3, a := .v 8, b := .v 9, c := .v 10, pa := .ident, g := Guard.always }
/-- Round to nearest even without flush. -/
def rne : FMod := { rnd := .rne, ftz := false }

theorem test_iadd_wraps : after (.iaddLong (m2 (.v 8) (.v 9)) .s32) [0xFFFFFFFF#32, 2#32] .v 3 31 = some 1#32 := by decide
theorem test_iadd_lanes : laneAfter (.iadd rrr) .v 3 4 = some 17#32 := by decide
theorem test_isub_borrows : after (.isubLong (m2 (.v 8) (.v 9)) .u32) [3#32, 5#32] .v 3 0 = some 0xFFFFFFFE#32 := by decide
theorem test_imul_wraps : after (.imulLong (m2 (.v 8) (.v 9)) .s32) [0x10001#32, 0x10001#32] .v 3 0 = some 0x00020001#32 := by decide
theorem test_imulhi_signed : after (.imulhiLong (m2 (.v 8) (.v 9)) .s32) [0xFFFFFFFF#32, 2#32] .v 3 0 = some 0xFFFFFFFF#32 := by decide
theorem test_imulhi_unsigned : after (.imulhiLong (m2 (.v 8) (.v 9)) .u32) [0xFFFFFFFF#32, 2#32] .v 3 0 = some 1#32 := by decide
theorem test_imin_signed : after (.iminLong (m2 (.v 8) (.v 9)) .s32) [0x80000000#32, 1#32] .v 3 0 = some 0x80000000#32 := by decide
theorem test_imax_unsigned : after (.imaxLong (m2 (.v 8) (.v 9)) .u32) [0x80000000#32, 1#32] .v 3 0 = some 0x80000000#32 := by decide
theorem test_iabs_lowest : after (.iabsLong (m1 (.v 8)) .s32) [0x80000000#32] .v 3 0 = some 0x80000000#32 := by decide
theorem test_imad : after (.imad m3 .s32) [6#32, 7#32, 0xFFFFFFFF#32] .v 3 0 = some 41#32 := by decide
theorem test_shl_long_amount : after (.shlLong (m2 (.v 8) (.v 9)) .b32) [1#32, 32#32] .v 3 0 = some 0#32 := by decide
theorem test_shr_31 : after (.shrLong (m2 (.v 8) (.v 9)) .b32) [0x80000000#32, 31#32] .v 3 0 = some 1#32 := by decide
theorem test_sar_fills : after (.sarLong (m2 (.v 8) (.v 9)) .b32) [0x80000000#32, 99#32] .v 3 0 = some 0xFFFFFFFF#32 := by decide
theorem test_and : after (.andLong (m2 (.v 8) (.v 9))) [0xFF00FF00#32, 0x0FF00FF0#32] .v 3 0 = some 0x0F000F00#32 := by decide
theorem test_or : after (.orLong (m2 (.v 8) (.v 9))) [0xFF000000#32, 0x000000F0#32] .v 3 0 = some 0xFF0000F0#32 := by decide
theorem test_xor : after (.xorLong (m2 (.v 8) (.v 9))) [0xFF00FF00#32, 0x0FF00FF0#32] .v 3 0 = some 0xF0F0F0F0#32 := by decide
/-- Table 0x96 is the parity of three bits. -/
theorem test_logic3_parity : after (.logic3 m3 0x96) [0x0F#32, 0x33#32, 0x55#32] .v 3 0 = some 0x69#32 := by decide
theorem test_popc : after (.popcLong (m1 (.v 8))) [0x80000001#32] .v 3 0 = some 2#32 := by decide
theorem test_clz_zero : after (.clzLong (m1 (.v 8))) [0#32] .v 3 0 = some 32#32 := by decide
theorem test_brev : after (.brevLong (m1 (.v 8))) [0x00000005#32] .v 3 0 = some 0xA0000000#32 := by decide
/-- Bits 4 to 7 of 0xF5, signed: 15 reads as −1. -/
theorem test_bfx_signed : after (.bfx m3 .s32) [0xF5#32, 4#32, 4#32] .v 3 0 = some 0xFFFFFFFF#32 := by decide
/-- Position 8, width 4 in one operand: 0x0408. -/
theorem test_bfi : after (.bfi m3) [0xA#32, 0xFFFFFFFF#32, 0x00000408#32] .v 3 0 = some 0xFFFFFAFF#32 := by decide
theorem test_lea : after (.lea m3 .u32) [100#32, 5#32, 3#32] .v 3 0 = some 140#32 := by decide
theorem test_sel : laneAfter (.sel { d := .v 3, a := .v 1, b := .v 2, c := .p 1, pa := .ident, g := Guard.always } .b32) .v 3 4 = some 3#32 := by decide
theorem test_icmp : laneAfter (.icmp { d := .p 2, a := .v 1, b := .v 2, pa := .ident, pb := .ident, g := Guard.always } .s32 .gt) .p 2 5 = some 1#32 := by decide
theorem test_movi : laneAfter (.movi (.v 3) 0xDEADBEEF) .v 3 7 = some 0xDEADBEEF#32 := by decide
/-- 1.5 + 2.25 = 3.75. -/
theorem test_fadd : after (.faddLong (m2 (.v 8) (.v 9)) rne) [0x3FC00000#32, 0x40100000#32] .v 3 0 = some 0x40700000#32 := by decide
/-- ∞ − ∞ raises NV and nothing else. -/
theorem test_fadd_invalid : (cxAt (withVals (.faddLong (m2 (.v 8) (.v 9)) rne) [0x7F800000#32, 0xFF800000#32])).laneFlags
    (semFadd (m2 (.v 8) (.v 9)) 2 rne) = 1#32 := by decide
/-- 1 − 1 = +0. -/
theorem test_fsub : after (.fsubLong (m2 (.v 8) (.v 9)) rne) [0x3F800000#32, 0x3F800000#32] .v 3 0 = some 0#32 := by decide
/-- 3 × −0.5 = −1.5. -/
theorem test_fmul : after (.fmulLong (m2 (.v 8) (.v 9)) rne) [0x40400000#32, 0xBF000000#32] .v 3 0 = some 0xBFC00000#32 := by decide
/-- 2 × 3 + 0.25 = 6.25. -/
theorem test_ffma : after (.ffma m3 rne) [0x40000000#32, 0x40400000#32, 0x3E800000#32] .v 3 0 = some 0x40C80000#32 := by decide
theorem test_fmin_zeros : after (.fminLong (m2 (.v 8) (.v 9)) false) [0#32, 0x80000000#32] .v 3 0 = some 0x80000000#32 := by decide
theorem test_fmax_nan : after (.fmaxLong (m2 (.v 8) (.v 9)) false) [0x7FC00000#32, 0x3F800000#32] .v 3 0 = some 0x3F800000#32 := by decide
/-- 7 as an unsigned word is 7.0. -/
theorem test_cvt : after (.cvt (m1 (.v 8)) .rne .f32 .u32) [7#32] .v 3 0 = some 0x40E00000#32 := by decide
theorem test_cvt_down : after (.cvt (m1 (.v 8)) .rtz .s32 .f32) [0xC0600000#32] .v 3 0 = some 0xFFFFFFFD#32 := by decide
/-- 2.5 to the nearest even integer is 2.0. -/
theorem test_frnd : after (.frnd (m1 (.v 8)) .f32 rne false) [0x40200000#32] .v 3 0 = some 0x40000000#32 := by decide
theorem test_rcp_exact : after (.rcpLong (m1 (.v 8)) false) [0x7F800000#32] .v 3 0 = some 0#32 := by decide
/-- Lane 4 reads lane 3. -/
theorem test_shfl : laneAfter (.shfl { d := .v 3, a := .v 1, b := .v 2, pa := .ident, pb := .ident, g := Guard.always } .b32 false) .v 3 4 = some 13#32 := by decide
/-- Lane 6 of quad 1 reads the quad's lane 3, whose value is 17. -/
theorem test_qswz : laneAfter (.qswz { d := .v 3, a := .v 1, b := .v 2, pa := .ident, pb := .ident, g := Guard.always } .b32) .v 3 6 = some 17#32 := by decide
theorem test_vote : laneAfter (.vote .every (.p 2) (.p 1) odd) .p 2 1 = some 1#32 := by decide
/-- The odd lanes hold 11, 13, …, 41: their sum is 416. -/
theorem test_redux : laneAfter (.redux { d := .v 3, a := .v 1, pa := .ident, g := odd } { op := .add, ty := .u32, rnd := .rne, ftz := false }) .v 3 1 = some 416#32 := by decide
/-- Inclusive in lane 2: 10 + 11 + 12. -/
theorem test_scan : laneAfter (.scan { d := .v 3, a := .v 1, pa := .ident, g := Guard.always } { op := .add, ty := .u32, rnd := .rne, ftz := false } false) .v 3 2 = some 33#32 := by
  decide +kernel
theorem test_mov : laneAfter (.mov { d := 3, a := 1, g := 7 }) .v 3 9 = some 19#32 := by decide
/-- A guarded write keeps the other lanes: `v1` of an even lane. -/
theorem test_guard_keeps : laneAfter (.iaddLong { l2 with d := .v 1, g := odd } .s32) .v 1 4 = some 14#32 := by decide
theorem test_guard_writes : laneAfter (.iaddLong { l2 with d := .v 1, g := odd } .s32) .v 1 5 = some 18#32 := by decide
theorem test_getsr_lane : laneAfter (.getsr (.v 3) 0 Guard.always) .v 3 9 = some 9#32 := by decide
theorem test_plop : laneAfter (.plop (.p 2) (.p 1) (.p 3) 0b1000 Guard.always) .p 2 0 = some 0#32 := by decide
/-- A rotation of the source by one lane: lane 3 reads lane 4. -/
theorem test_perm_rot : laneAfter (.iaddLong { l2 with pa := .rot 1 } .s32) .v 3 3 = some 17#32 := by decide

/-- A word that the next step fetches is the word that it runs. -/
theorem test_withFetchWord : (State.reset.withFetchWord 32 0x6D000005).issuing.isSome = true ∧
    (match step (State.reset.withFetchWord 32 0x6D000005) with | .next t => (t.warp 2 0).xi | _ => 0#32) = 5#32 := by decide

end Sys2Proof.Tests
end

section
/-! SUPPORT. Registers are pointers: what a rewritten warp, a repointed register and a sweep of the value store leave of what the
acting path reads, of memory and of the device's registers. -/

namespace Sys2Proof.Machine

open Sys2Proof

/-! ### Keyed lists and pointer lists -/

@[simp] theorem alook_adel {α : Type} (k : Nat) (xs : List (Nat × α)) : alook k (adel k xs) = none := by
  induction xs with
  | nil => rfl
  | cons x xs ih => rcases x with ⟨j, y⟩; by_cases h : j = k <;> simp_all [adel, alook]

theorem alook_adel_ne {α : Type} {k j : Nat} (xs : List (Nat × α)) (h : j ≠ k) : alook j (adel k xs) = alook j xs := by
  induction xs with
  | nil => rfl
  | cons x xs ih =>
    rcases x with ⟨i, y⟩
    by_cases hi : i = k
    · subst hi; simpa [adel, alook, Ne.symm h] using ih
    · by_cases hj : i = j
      · subst hj; simp [adel, alook, hi]
      · simpa [adel, alook, hi, hj] using ih

theorem mem_of_alook {α : Type} {k : Nat} {v : α} {xs : List (Nat × α)} (h : alook k xs = some v) : (k, v) ∈ xs := by
  induction xs with
  | nil => simp [alook] at h
  | cons x xs ih => rcases x with ⟨j, y⟩; by_cases hj : j = k <;> simp_all [alook]

/-- A pointer reads as it was last set; the zero entry is what an unlisted register points to. -/
@[simp] theorem alook_setPtr (n e : Nat) (xs : List (Nat × Nat)) : (alook n (setPtr n e xs)).getD 0 = e := by
  unfold setPtr
  split <;> simp_all

theorem alook_setPtr_ne {n k : Nat} (e : Nat) (xs : List (Nat × Nat)) (h : k ≠ n) : alook k (setPtr n e xs) = alook k xs := by
  unfold setPtr
  split
  · exact alook_adel_ne xs h
  · exact alook_aput_ne e xs h

/-- The entry that a list of pointers gives is the zero entry or named by the list. -/
theorem alook_getD_mem (n : Nat) (xs : List (Nat × Nat)) : (alook n xs).getD 0 = 0 ∨ (alook n xs).getD 0 ∈ ptrIds xs := by
  cases h : alook n xs with
  | none => exact .inl rfl
  | some e => exact .inr (List.mem_map_of_mem (f := (·.2)) (mem_of_alook h))

/-! ### A rewritten warp -/

/-- A rewrite that keeps keys commutes with the search for one. -/
theorem find?_map_of_key {α : Type} (key : α → Nat) (k : Nat) {f : α → α} (hf : ∀ x, key (f x) = key x) (xs : List α) :
    (xs.map f).find? (fun x => key x == k) = (xs.find? fun x => key x == k).map f := by
  simp [List.find?_map, hf]

theorem State.block?_modWarp (s : State) (b w : Nat) (f : Warp → Warp) (k : Nat) :
    (s.modWarp b w f).block? k = (s.block? k).map fun x => if x.id = b then x.modWarp w f else x :=
  find?_map_of_key Block.id k (fun x => by split <;> rfl) s.blocks

/-- A field of blocks that the rewrite of a warp keeps. -/
theorem State.block_modWarp_field {β : Type} (g : Block → β) (s : State) (b w : Nat) {f : Warp → Warp}
    (hg : ∀ x : Block, g (x.modWarp w f) = g x) (k : Nat) : g ((s.modWarp b w f).block k) = g (s.block k) := by
  simp only [State.block, State.block?_modWarp]
  cases s.block? k with
  | none => rfl
  | some x => by_cases h : x.id = b <;> simp [h, hg]

/-- A field of warps that the rewrite of a warp keeps. -/
theorem Block.warp_modWarp_field {β : Type} (g : Warp → β) (x : Block) (w : Nat) {f : Warp → Warp}
    (hi : ∀ y, (f y).idx = y.idx) (hg : ∀ y, g (f y) = g y) (k : Nat) : g ((x.modWarp w f).warp k) = g (x.warp k) := by
  have hfind : (x.modWarp w f).warps.find? (·.idx == k) = (x.warps.find? (·.idx == k)).map fun y => if y.idx = w then f y else y :=
    find?_map_of_key Warp.idx k (fun y => by split <;> simp [hi]) x.warps
  simp only [Block.warp, hfind]
  cases x.warps.find? (·.idx == k) with
  | none => rfl
  | some y => by_cases h : y.idx = w <;> simp [h, hg]

/-! ### Memory and the device's registers -/

/-- Every byte of every memory, and the device's registers, are the same: what `Untouched` says beside registers. -/
def SameOutside (s t : State) : Prop := SameBytes s t ∧ SameDevice s t

theorem SameOutside.refl (s : State) : SameOutside s s :=
  ⟨⟨fun _ => rfl, fun _ => rfl, fun _ => rfl, fun _ _ => rfl, fun _ _ _ => rfl, fun _ => rfl⟩, rfl, rfl, rfl, rfl⟩

theorem SameOutside.trans {s t u : State} (h : SameOutside s t) (k : SameOutside t u) : SameOutside s u := by
  obtain ⟨⟨h1, h2, h3, h4, h5, h6⟩, h7, h8, h9, h10⟩ := h
  obtain ⟨⟨k1, k2, k3, k4, k5, k6⟩, k7, k8, k9, k10⟩ := k
  exact ⟨⟨fun a => (k1 a).trans (h1 a), fun a => (k2 a).trans (h2 a), fun a => (k3 a).trans (h3 a), fun b a => (k4 b a).trans (h4 b a),
    fun b w a => (k5 b w a).trans (h5 b w a), fun n => (k6 n).trans (h6 n)⟩, k7.trans h7, k8.trans h8, k9.trans h9, k10.trans h10⟩

theorem SameOutside.fresh (s : State) : SameOutside s s.fresh := SameOutside.refl s

/-- Rewriting a warp that keeps its stack. -/
theorem SameOutside.modWarp (s : State) (b w : Nat) {f : Warp → Warp} (hi : ∀ x, (f x).idx = x.idx) (hs : ∀ x, (f x).stack = x.stack) :
    SameOutside s (s.modWarp b w f) := by
  have hshared (k : Nat) : ((s.modWarp b w f).block k).shared = (s.block k).shared :=
    State.block_modWarp_field Block.shared s b w (fun _ => rfl) k
  have hstack (k j : Nat) : ((s.modWarp b w f).warp k j).stack = (s.warp k j).stack :=
    State.block_modWarp_field (fun x => (x.warp j).stack) s b w (fun x => Block.warp_modWarp_field Warp.stack x w hi hs j) k
  exact ⟨⟨fun _ => rfl, fun _ => rfl, fun _ => rfl, fun k a => by rw [hshared], fun k j a => by rw [hstack], fun _ => rfl⟩,
    rfl, rfl, rfl, rfl⟩

/-- Rewriting a core that keeps its stack cache. -/
theorem SameOutside.setCore (s : State) (n : Nat) {x : CoreSt} (hx : x.stackCache = (s.core n).stackCache) :
    SameOutside s (s.setCore n x) := by
  have hcache (k : Nat) : ((s.setCore n x).core k).stackCache = (s.core k).stackCache := by
    by_cases h : k = n
    · subst h; rw [State.core_setCore, hx]
    · rw [State.core_setCore_ne s x h]
  exact ⟨⟨fun _ => rfl, fun _ => rfl, fun _ => rfl, fun _ _ => rfl, fun _ _ _ => rfl, hcache⟩, rfl, rfl, rfl, rfl⟩

/-! ### Freeing -/

/-- Entries that a filter drops, or a rewrite changes, do not count in the search for another identity. -/
theorem find?_eid_map_filter (p : Entry → Bool) {f : Entry → Entry} (hf : ∀ x, (f x).eid = x.eid) (e : Nat) (xs : List Entry)
    (h : ∀ x ∈ xs, x.eid = e → p x = true ∧ f x = x) : ((xs.filter p).map f).find? (·.eid == e) = xs.find? (·.eid == e) := by
  induction xs with
  | nil => rfl
  | cons x xs ih =>
    have ih := ih fun y hy => h y (List.mem_cons_of_mem x hy)
    by_cases hx : x.eid = e
    · obtain ⟨hp, hfx⟩ := h x List.mem_cons_self hx
      simp [hp, hfx, hx]
    · by_cases hp : p x = true <;> simp [hp, hf, hx, ih]

/-- Freeing leaves a referenced entry as it is, and makes none (R37). -/
theorem CoreSt.sweepOnce_entry? {roots : List Nat} {c : CoreSt} {e : Nat} (he : e ∈ roots ∨ c.entry? e = none) :
    (c.sweepOnce roots).1.entry? e = c.entry? e := by
  simp only [CoreSt.sweepOnce]
  split
  · rfl
  · refine find?_eid_map_filter _ (fun x => by split <;> rfl) e c.entries fun x hx hxe => ?_
    have hr : e ∈ roots := he.resolve_right fun hn => by
      have := List.find?_eq_none.mp hn x hx
      simp [hxe] at this
    have hlive : e ∉ (c.entries.filter fun y => !y.dead && !(roots ++ c.recordIds).contains y.eid).map (·.eid) := by
      simp only [List.mem_map, List.mem_filter, not_exists, not_and]
      rintro y ⟨-, hy⟩ rfl
      simp [hr] at hy
    have hlive' := Bool.eq_false_iff.mpr (mt List.contains_iff_mem.mp hlive)
    subst hxe
    simp only [hlive', Bool.false_and, Bool.not_false, Bool.false_eq_true, if_false, and_self]

theorem CoreSt.sweepOnce_stackCache (roots : List Nat) (c : CoreSt) : (c.sweepOnce roots).1.stackCache = c.stackCache := by
  simp only [CoreSt.sweepOnce]
  split <;> rfl

theorem CoreSt.sweepN_entry? {roots : List Nat} {e : Nat} : ∀ (k n : Nat) {c : CoreSt}, (e ∈ roots ∨ c.entry? e = none) →
    (CoreSt.sweepN roots k c n).1.entry? e = c.entry? e
  | 0, _, _, _ => rfl
  | k + 1, n, c, he => by
    have honce := CoreSt.sweepOnce_entry? he
    simp only [CoreSt.sweepN]
    split
    · rfl
    · rw [CoreSt.sweepN_entry? k _ (by rwa [honce]), honce]

theorem CoreSt.sweepN_stackCache (roots : List Nat) : ∀ (k n : Nat) (c : CoreSt), (CoreSt.sweepN roots k c n).1.stackCache = c.stackCache
  | 0, _, _ => rfl
  | k + 1, n, c => by
    simp only [CoreSt.sweepN]
    split
    · rfl
    · rw [CoreSt.sweepN_stackCache roots k, CoreSt.sweepOnce_stackCache]

/-- A sweep in a warp's name frees nothing, or leaves the swept core and the warp's count of deaths (R56). -/
theorem State.sweep_cases (s : State) (core b w : Nat) : s.sweep core (some (b, w)) = s ∨
    ∃ k n m, s.sweep core (some (b, w)) =
      (s.setCore core (CoreSt.sweepN (s.roots core) k (s.core core) n).1).modWarp b w fun x => { x with deaths := x.deaths + m } := by
  simp only [State.sweep, List.nil_append]
  split
  · exact .inl rfl
  · exact .inr ⟨_, _, _, rfl⟩

theorem SameOutside.sweep (s : State) (core b w : Nat) : SameOutside s (s.sweep core (some (b, w))) := by
  obtain h | ⟨k, n, m, h⟩ := s.sweep_cases core b w <;> rw [h]
  · exact .refl s
  · exact (SameOutside.setCore s core (CoreSt.sweepN_stackCache _ _ _ _)).trans (.modWarp _ b w (fun _ => rfl) fun _ => rfl)

theorem SameOutside.endWaits (c : Cx) (s : State) : SameOutside s (c.endWaits s) :=
  (SameOutside.modWarp s c.b c.w (f := fun x => { x with waits := x.waits.filter fun e => !c.pt.mask.has e.2.2 })
    (fun _ => rfl) fun _ => rfl).trans (.sweep _ c.core c.b c.w)

/-! ### Repointing -/

theorem SameOutside.point (s : State) (b w pid : Nat) (cls : RegClass) (n e : Nat) : SameOutside s (s.point b w pid cls n e) := by
  cases cls with
  | v => exact .modWarp s b w (fun _ => rfl) fun _ => rfl
  | p => exact .modWarp s b w (fun _ => rfl) fun _ => rfl
  | s => exact (SameOutside.fresh s).trans (.modWarp _ b w (fun _ => rfl) fun _ => rfl)

theorem SameOutside.present (s : State) (b w pid : Nat) (act : Mask) (cls : RegClass) (n : Nat) :
    SameOutside s (s.present b w pid act cls n) := by
  unfold State.present
  split
  · exact .modWarp s b w (fun _ => rfl) fun _ => rfl
  · exact .modWarp s b w (fun _ => rfl) fun _ => rfl

theorem SameOutside.pointAll (b w pid : Nat) (act : Mask) : ∀ (ds : List (RegClass × Nat)) (es : List Nat) (s : State),
    SameOutside s (s.pointAll b w pid act ds es)
  | [], _, s => .refl s
  | _ :: _, [], s => .refl s
  | (cls, n) :: ds, e :: es, s =>
    ((SameOutside.point s b w pid cls n e).trans (.present _ b w pid act cls n)).trans (SameOutside.pointAll b w pid act ds es _)

/-! ### The context of a path -/

/-- What the context of a path is made of. -/
structure IsCx (s : State) (b w p : Nat) (c : Cx) : Prop where
  state : c.s = s
  ids : c.b = b ∧ c.w = w ∧ c.pid = p
  block : s.block? b = some c.blk
  warp : c.wp = c.blk.warp w
  path : c.wp.path? p = some c.pt
  launch : s.launch? c.blk.launch = some c.l
  width : c.width = c.l.w
  core : c.core = c.blk.core
  store : c.cst = s.core c.core

theorem State.cxOf_eq_some {s : State} {b w p : Nat} {c : Cx} : s.cxOf b w p = some c ↔ IsCx s b w p c := by
  constructor
  · intro h
    simp only [State.cxOf] at h
    split at h
    · simp at h
    · split at h
      · rename_i blk hb _ _ pt l hp hl
        injection h with h
        subst h
        exact ⟨rfl, ⟨rfl, rfl, rfl⟩, hb, rfl, hp, hl, rfl, rfl, rfl⟩
      · simp at h
  · rintro ⟨hs, ⟨hb, hw, hp⟩, hblk, hwp, hpt, hl, hwidth, hcore, hcst⟩
    cases c
    simp only at hs hb hw hp hblk hwp hpt hl hwidth hcore hcst
    subst hs hb hw hp hwp hwidth hcore hcst
    simp only [State.cxOf, hblk, hpt, hl]

theorem State.cxOf_of_cx {s : State} {c : Cx} (h : s.cx = some c) : s.cxOf c.b c.w c.pid = some c := by
  simp only [State.cx] at h
  split at h
  · simp at h
  · obtain ⟨-, hb, hw, hp⟩ := State.cxOf_state h
    rw [hb, hw, hp, h]

/-- The path's warp is one of its block's warps, and not the empty one of a search that fails. -/
theorem IsCx.find_warp {s : State} {b w p : Nat} {c : Cx} (h : IsCx s b w p c) : c.blk.warps.find? (·.idx == w) = some c.wp := by
  have hp := h.path
  rw [h.warp] at hp ⊢
  simp only [Block.warp] at hp ⊢
  cases hf : c.blk.warps.find? (·.idx == w) with
  | some x => rfl
  | none =>
    simp only [hf] at hp
    exact absurd hp (by simp [Warp.path?, show (default : Warp).paths = [] from rfl])

/-- A path's context after the rewrite of its warp. -/
theorem IsCx.modWarp {s : State} {b w p : Nat} {c : Cx} {q : Path} {f : Warp → Warp} (h : IsCx s b w p c)
    (hi : ∀ x, (f x).idx = x.idx) (hq : (f c.wp).path? p = some q) :
    IsCx (s.modWarp b w f) b w p { c with s := s.modWarp b w f, blk := c.blk.modWarp w f, wp := f c.wp, pt := q } := by
  have hid : c.blk.id = b := by simpa using List.find?_some h.block
  have hwarp : (c.blk.modWarp w f).warp w = f c.wp := by
    rw [Block.warp, Block.find_modWarp c.blk w f hi, h.find_warp, Option.map_some, Option.getD_some]
  exact { h with state := rfl, block := by simp [State.block?_modWarp, h.block, hid], warp := hwarp.symm, path := hq }

theorem IsCx.fresh {s : State} {b w p : Nat} {c : Cx} (h : IsCx s b w p c) : IsCx s.fresh b w p { c with s := s.fresh } :=
  { h with state := rfl }

/-- A path's context after its core is rewritten. -/
theorem IsCx.setCore {s : State} {b w p : Nat} {c : Cx} (x : CoreSt) (h : IsCx s b w p c) :
    IsCx (s.setCore c.core x) b w p { c with s := s.setCore c.core x, cst := x } :=
  { h with state := rfl, store := (State.core_setCore s c.core x).symm }

/-! ### What a path keeps -/

/-- From one context of a path to a later one: the entries of registers outside a list, and what those registers read, the
registers without entries, `KEYS` and `BINDS`, are the same, and no entry takes the place of the zero entry. -/
structure Repointed (c d : Cx) (ds : List (RegClass × Nat)) : Prop where
  ended : d.blk.ended = c.blk.ended
  core : d.core = c.core
  special : SameSpecial c d
  keys : d.wp.keys = c.wp.keys
  binds : d.wp.binds = c.wp.binds
  zero : c.cst.entry? 0 = none → d.cst.entry? 0 = none
  ptr : ∀ cls n, (cls, n) ∉ ds → regPtr d.wp d.pt cls n = regPtr c.wp c.pt cls n
  regs : SameRegs c d ds

theorem SameSpecial.refl (c : Cx) : SameSpecial c c := by simp [SameSpecial]

theorem SameSpecial.trans {c d e : Cx} (h : SameSpecial c d) (k : SameSpecial d e) : SameSpecial c e := by
  unfold SameSpecial at *
  simp only [h, k, and_self]

theorem Repointed.refl (c : Cx) (ds : List (RegClass × Nat)) : Repointed c c ds :=
  ⟨rfl, rfl, .refl c, rfl, rfl, id, fun _ _ _ => rfl, fun _ _ _ _ => rfl⟩

theorem Repointed.trans {c d e : Cx} {ds : List (RegClass × Nat)} (h : Repointed c d ds) (k : Repointed d e ds) : Repointed c e ds where
  ended := k.ended.trans h.ended
  core := k.core.trans h.core
  special := h.special.trans k.special
  keys := k.keys.trans h.keys
  binds := k.binds.trans h.binds
  zero := k.zero ∘ h.zero
  ptr cls n hn := (k.ptr cls n hn).trans (h.ptr cls n hn)
  regs cls n l hn := (k.regs cls n l hn).trans (h.regs cls n l hn)

theorem Repointed.mono {c d : Cx} {xs ys : List (RegClass × Nat)} (h : Repointed c d xs) (hs : xs ⊆ ys) : Repointed c d ys :=
  { h with ptr := fun cls n hn => h.ptr cls n (mt (@hs _) hn), regs := fun cls n l hn => h.regs cls n l (mt (@hs _) hn) }

/-- The rewrite of a warp moves no entry: what a register reads follows from what it points to. -/
theorem Repointed.of_warp {c : Cx} {s : State} {f : Warp → Warp} {q : Path} {ds : List (RegClass × Nat)}
    (hs : SameSpecial c { c with wp := f c.wp, pt := q }) (hk : (f c.wp).keys = c.wp.keys) (hb : (f c.wp).binds = c.wp.binds)
    (hp : ∀ cls n, (cls, n) ∉ ds → regPtr (f c.wp) q cls n = regPtr c.wp c.pt cls n) (w : Nat) :
    Repointed c { c with s := s, blk := c.blk.modWarp w f, wp := f c.wp, pt := q } ds where
  ended := rfl
  core := rfl
  special := hs
  keys := hk
  binds := hb
  zero := id
  ptr := hp
  regs cls n l hn := by simp only [Cx.get, CoreSt.regLane, hp cls n hn]

/-- The path's context after a rewrite of its warp that keeps pointers: the path reads what it read. -/
theorem IsCx.modWarp_quiet {s : State} {b w p : Nat} {c : Cx} {f : Warp → Warp} (h : IsCx s b w p c) (hi : ∀ x, (f x).idx = x.idx)
    (hpaths : (f c.wp).paths = c.wp.paths) (hv : (f c.wp).v = c.wp.v) (hp : (f c.wp).p = c.wp.p)
    (hs : SameSpecial c { c with wp := f c.wp }) (hk : (f c.wp).keys = c.wp.keys) (hb : (f c.wp).binds = c.wp.binds) :
    ∃ d, IsCx (s.modWarp b w f) b w p d ∧ d.cst = c.cst ∧ Repointed c d [] :=
  ⟨_, h.modWarp hi (q := c.pt) (by rw [Warp.path?, hpaths]; exact h.path), rfl,
    .of_warp hs hk hb (fun cls n _ => by cases cls <;> simp only [regPtr, hv, hp]) w⟩

/-! ### Freeing keeps what a path reads -/

/-- No core lists an entry with the zero entry's identity (R35). -/
theorem entry?_zero_of_idsInv {s : State} (h : IdsInv s) (k : Nat) : (s.core k).entry? 0 = none := by
  obtain ⟨-, -, hcores⟩ := h
  refine List.find?_eq_none.mpr fun e he => ?_
  cases hk : alook k s.cores with
  | none => simp [State.core, hk, CoreSt.init] at he
  | some x =>
    simp only [State.core, hk, Option.getD_some] at he
    have := (hcores _ (mem_of_alook hk)).2 e he
    simp
    omega

/-- A register of the path points to the zero entry or to an entry that its warp names. -/
theorem IsCx.regPtr_mem {s : State} {b w p : Nat} {c : Cx} (h : IsCx s b w p c) (cls : RegClass) (n : Nat) :
    regPtr c.wp c.pt cls n = 0 ∨ regPtr c.wp c.pt cls n ∈ c.wp.regIds := by
  have hpath : c.pt ∈ c.wp.paths := List.mem_of_find?_eq_some h.path
  simp only [Warp.regIds, List.mem_append, List.mem_flatMap]
  cases cls with
  | v => exact (alook_getD_mem n c.wp.v).imp_right fun hm => .inl (.inl (.inl (.inl hm)))
  | p => exact (alook_getD_mem n c.wp.p).imp_right fun hm => .inl (.inl (.inl (.inr hm)))
  | s => exact (alook_getD_mem n c.pt.s).imp_right fun hm => .inl (.inl (.inr ⟨c.pt, hpath, hm⟩))

/-- What a live block's warp names is referenced on its core (R35). -/
theorem IsCx.regIds_roots {s : State} {b w p : Nat} {c : Cx} (h : IsCx s b w p c) (he : c.blk.ended = false) {e : Nat}
    (hm : e ∈ c.wp.regIds) : e ∈ s.roots c.core := by
  have hblk : c.blk ∈ s.blocks := List.mem_of_find?_eq_some h.block
  have hwarp : c.wp ∈ c.blk.warps := List.mem_of_find?_eq_some h.find_warp
  refine List.mem_append_left _ (List.mem_flatMap.mpr ⟨c.blk, List.mem_filter.mpr ⟨hblk, by simp [h.core]⟩, ?_⟩)
  simp only [Block.ids, he, Bool.false_eq_true, if_false]
  exact List.mem_append_left _ (List.mem_flatMap.mpr ⟨c.wp, hwarp, List.mem_append_left _ (List.mem_append_left _ hm)⟩)

/-- A rewrite of the path's core that keeps what its warp names, and lists no zero entry anew, keeps what the path reads. -/
theorem IsCx.setCore_keeps {s : State} {b w p : Nat} {c : Cx} (h : IsCx s b w p c) {x : CoreSt}
    (hx : ∀ e, e = 0 ∨ e ∈ c.wp.regIds → x.entry? e = c.cst.entry? e) :
    ∃ d, IsCx (s.setCore c.core x) b w p d ∧ Repointed c d [] :=
  ⟨_, h.setCore x, { Repointed.refl c [] with
    zero := (hx 0 (.inl rfl)).trans
    regs := fun cls n l _ => by simp only [Cx.get, CoreSt.regLane, CoreSt.laneVal, hx _ (h.regPtr_mem cls n)] }⟩

/-- A sweep of the path's core in its warp's name frees no entry that the path reads (R37). -/
theorem IsCx.sweep {s : State} {b w p : Nat} {c : Cx} (h : IsCx s b w p c) (he : c.blk.ended = false) (hz : c.cst.entry? 0 = none) :
    ∃ d, IsCx (s.sweep c.core (some (b, w))) b w p d ∧ Repointed c d [] := by
  obtain hs | ⟨k, n, m, hs⟩ := s.sweep_cases c.core b w <;> rw [hs]
  · exact ⟨c, h, .refl c []⟩
  · have hkeep (e : Nat) (hh : e = 0 ∨ e ∈ c.wp.regIds) :
        (CoreSt.sweepN (s.roots c.core) k (s.core c.core) n).1.entry? e = c.cst.entry? e := by
      rw [h.store] at hz ⊢
      exact CoreSt.sweepN_entry? k n (hh.symm.imp (h.regIds_roots he) fun h0 => by rw [h0, hz])
    obtain ⟨d, hd, hcd⟩ := h.setCore_keeps hkeep
    obtain ⟨e, hde, -, hre⟩ := hd.modWarp_quiet (f := fun x => { x with deaths := x.deaths + m }) (fun _ => rfl) rfl rfl rfl (.refl d) rfl rfl
    exact ⟨e, hde, hcd.trans hre⟩

/-- A path that issues ends its waits, and reads what it read (R50, R56). -/
theorem IsCx.endWaits {s : State} {c : Cx} (h : IsCx s c.b c.w c.pid c) (he : c.blk.ended = false) (hz : c.cst.entry? 0 = none) :
    ∃ d, IsCx (c.endWaits s) c.b c.w c.pid d ∧ Repointed c d [] := by
  obtain ⟨d, hd, -, hcd⟩ := h.modWarp_quiet (f := fun x => { x with waits := x.waits.filter fun e => !c.pt.mask.has e.2.2 })
    (fun _ => rfl) rfl rfl rfl (.refl c) rfl rfl
  obtain ⟨e, hde, hre⟩ := hd.sweep (hcd.ended.trans he) (hcd.zero hz)
  rw [hcd.core] at hde
  exact ⟨e, hde, hcd.trans hre⟩

/-! ### Repointing registers -/

theorem Warp.path?_modPath_some {w : Warp} {i : Nat} {f : Path → Path} {q : Path} (hf : ∀ x, (f x).id = x.id) (h : w.path? i = some q) :
    (w.modPath i f).path? i = some (f q) := by
  rw [Warp.path?_modPath w i f hf, h, Option.map_some]

/-- A repointed register points to its new entry, and every other one where it did. -/
theorem IsCx.point {s : State} {b w p : Nat} {c : Cx} (h : IsCx s b w p c) (cls : RegClass) (n e : Nat) :
    ∃ d, IsCx (s.point b w p cls n e) b w p d ∧ d.cst = c.cst ∧ Repointed c d [(cls, n)] ∧ regPtr d.wp d.pt cls n = e := by
  have hne {k : RegClass} {j : Nat} (hk : (k, j) ∉ [(cls, n)]) (hc : k = cls) : j ≠ n := by
    rintro rfl; subst hc; simp at hk
  cases cls with
  | v =>
    refine ⟨_, h.modWarp (f := fun x => { x with v := setPtr n e x.v }) (fun _ => rfl) h.path, rfl,
      .of_warp (.refl c) rfl rfl (fun k j hk => ?_) w, alook_setPtr n e _⟩
    cases k with
    | v => exact congrArg (·.getD 0) (alook_setPtr_ne e _ (hne hk rfl))
    | s => rfl
    | p => rfl
  | p =>
    refine ⟨_, h.modWarp (f := fun x => { x with p := setPtr n e x.p }) (fun _ => rfl) h.path, rfl,
      .of_warp (.refl c) rfl rfl (fun k j hk => ?_) w, alook_setPtr n e _⟩
    cases k with
    | p => exact congrArg (·.getD 0) (alook_setPtr_ne e _ (hne hk rfl))
    | s => rfl
    | v => rfl
  | s =>
    refine ⟨_, h.fresh.modWarp (fun _ => rfl) (Warp.path?_modPath_some (fun _ => rfl) h.path), rfl,
      .of_warp (.refl c) rfl rfl (fun k j hk => ?_) w, alook_setPtr n e _⟩
    cases k with
    | s => exact congrArg (·.getD 0) (alook_setPtr_ne e _ (hne hk rfl))
    | v => rfl
    | p => rfl

/-- Marking pieces of a register as present moves no pointer (R65). -/
theorem IsCx.present {s : State} {b w p : Nat} {c : Cx} (h : IsCx s b w p c) (act : Mask) (cls : RegClass) (n : Nat) :
    ∃ d, IsCx (s.present b w p act cls n) b w p d ∧ d.cst = c.cst ∧ Repointed c d [] := by
  unfold State.present
  split
  · exact ⟨_, h.modWarp (fun _ => rfl) (Warp.path?_modPath_some (fun _ => rfl) h.path), rfl,
      .of_warp (.refl c) rfl rfl (fun k _ _ => by cases k <;> rfl) w⟩
  · exact ⟨_, h.modWarp (fun _ => rfl) h.path, rfl, .of_warp (.refl c) rfl rfl (fun k _ _ => by cases k <;> rfl) w⟩

/-- Registers that are repointed in turn point to their entries, and every other register where it did. -/
theorem IsCx.pointAll {b w p : Nat} (act : Mask) : ∀ (ds : List (RegClass × Nat)) (es : List Nat) {s : State} {c : Cx}, IsCx s b w p c →
    ∃ d, IsCx (s.pointAll b w p act ds es) b w p d ∧ d.cst = c.cst ∧ Repointed c d ds ∧
      (ds.Nodup → ∀ (j : Nat) cls n e, ds[j]? = some (cls, n) → es[j]? = some e → regPtr d.wp d.pt cls n = e)
  | [], _, _, c, h => ⟨c, h, rfl, .refl c [], by simp⟩
  | x :: ds, [], _, c, h => ⟨c, h, rfl, .refl c _, by simp⟩
  | (cls, n) :: ds, e :: es, _, c, h => by
    obtain ⟨d1, h1, hcst1, hr1, hp1⟩ := h.point cls n e
    obtain ⟨d2, h2, hcst2, hr2⟩ := h1.present act cls n
    obtain ⟨d3, h3, hcst3, hr3, hp3⟩ := IsCx.pointAll act ds es h2
    have hr : Repointed c d3 ((cls, n) :: ds) :=
      (hr1.mono (by simp)).trans ((hr2.mono (by simp)).trans (hr3.mono (by simp)))
    refine ⟨d3, h3, by rw [hcst3, hcst2, hcst1], hr, fun hnd j k m e' hj he => ?_⟩
    obtain ⟨hout, hnd⟩ := List.nodup_cons.mp hnd
    cases j with
    | zero =>
      simp only [List.getElem?_cons_zero, Option.some.injEq, Prod.mk.injEq] at hj he
      obtain ⟨rfl, rfl⟩ := hj
      rw [hr3.ptr _ _ hout, hr2.ptr _ _ (by simp), hp1, he]
    | succ j => exact hp3 hnd j k m e' hj he

end Sys2Proof.Machine
end

section
/-! SUPPORT. `MOV` (R43, R365): one lane operation, which shares its source's entries or forms a key. -/

namespace Sys2Proof.Machine

open Sys2Proof

/-! ### Operands that pass their check -/

theorem firstBad_eq_none {f : OpSpec → Bool} : ∀ {xs : List OpSpec}, firstBad f xs = none → ∀ x ∈ xs, f x = true
  | [], _, _, hx => by simp at hx
  | y :: ys, h, x, hx => by
    simp only [firstBad] at h
    split at h
    · rename_i hy
      obtain rfl | hx := List.mem_cons.mp hx
      · exact hy
      · exact firstBad_eq_none h x hx
    · simp at h

/-- Operands that pass their check have codes that their fields accept (R58). -/
theorem Cx.ok_of_checkOps {c : Cx} {xs : List OpSpec} (h : c.checkOps xs = .ok ()) :
    ∀ x ∈ xs, x.ok c.wp.grant c.width (sDest xs) = true := by
  simp only [Cx.checkOps] at h
  split at h
  · simp at h
  · rename_i hb
    exact firstBad_eq_none hb

/-- A register in a field that accepts no predicate: its class is another one, and it is a pair where the field is one (R58, R59). -/
theorem Cx.resolve_reg {c : Cx} {x : OpSpec} {g w n : Nat} {sd pair : Bool} {cls : RegClass} {perm : Perm} (hx : x.ok g w sd = true)
    (hp : x.acc.p = false) (hr : c.resolve x = .reg cls n pair perm) : cls ≠ .p ∧ pair = x.pair := by
  unfold Cx.resolve at hr
  split at hr
  case h_4 ho => simp [OpSpec.ok, ho, hp] at hx
  all_goals cases hr
  all_goals exact ⟨by decide, rfl⟩

/-! ### `MOV` -/

/-- An instruction is a `MOV`, short or long, with its lane operation and permutation. -/
def IsMov (i : Instr) (m : Sem) (pa : Perm) : Prop :=
  (∃ f : Rr, i = .mov f ∧ m = semMov (longRr f) 1 .b32 ∧ pa = .ident) ∨
    ∃ (f : L2u) (t : BitTy), i = .movLong f t ∧ m = semMov f 2 t ∧ pa = f.pa

theorem IsMov.sem {i : Instr} {m : Sem} {pa : Perm} (h : IsMov i m pa) : ∃ (f : L2u) (n : Nat) (t : BitTy), m = semMov f n t := by
  obtain ⟨f, -, rfl, -⟩ | ⟨f, t, -, rfl, -⟩ := h
  · exact ⟨_, _, _, rfl⟩
  · exact ⟨_, _, _, rfl⟩

/-- A `MOV` is a lane operation unless it shares. -/
theorem IsMov.opOf {i : Instr} {m : Sem} {pa : Perm} (h : IsMov i m pa) {c : Cx} (hs : c.sharesMov m pa = none) : opOf c i = some m := by
  obtain ⟨f, rfl, rfl, rfl⟩ | ⟨f, t, rfl, rfl, rfl⟩ := h
  · exact if_pos (by rw [hs]; rfl)
  · exact if_pos (by rw [hs]; rfl)

/-- A `MOV` that issues answers what its body does: no saggar launch compares it (R258). -/
theorem IsMov.exec_next {i : Instr} {m : Sem} {pa : Perm} (h : IsMov i m pa) {s t : State} {c : Cx} (hi : Issues i s c)
    (hb : runMov i m pa c = .ok t) : exec i s = .next t := by
  obtain ⟨hcx, -, -, -, hn, -⟩ := hi
  have hexec : exec i s = issue i s (runMov i m pa) := by
    obtain ⟨f, rfl, rfl, rfl⟩ | ⟨f, t, rfl, rfl, rfl⟩ := h
    · rfl
    · rfl
  have hc : c.compares i = false := by
    obtain ⟨f, rfl, -⟩ | ⟨f, t, rfl, -⟩ := h
    · exact Bool.and_false _
    · exact Bool.and_false _
  rw [hexec, issue_next (runMov i m pa) hcx hn (.inl hc)]
  simp [Cx.begun, hc, hb]

/-- A `MOV` that shares and passes its checks points its destinations at its source's entries. -/
theorem runMov_shares {i : Instr} {m : Sem} {pa : Perm} {c : Cx} {ids : List Nat} (hr : LaneReady c m)
    (ha : c.acting m.guard ≠ 0#64) (hs : c.sharesMov m pa = some ids) :
    runMov i m pa c = .ok (c.advance (((c.endWaits c.s).pointAll c.b c.w c.pid (fullMask c.width) (c.dests m) ids).sweep
      c.core c.actor) m.words) := by
  obtain ⟨hops, hreads, -, -⟩ := hr
  simp [runMov, hops, hreads, ha, hs, bind, Except.bind]

/-- What the pointers of a sharing `MOV` are (R43): its one source and its destination are registers of one class, and the pointers
those of the source's registers. -/
theorem Cx.sharesMov_eq_some {c : Cx} {m : Sem} {pa : Perm} {ids : List Nat} {a : OpSpec} (ha : m.srcs = [a]) :
    c.sharesMov m pa = some ids ↔ ∃ cls dn an dpair dperm pair perm, c.resolve m.dst = .reg cls dn dpair dperm ∧
      c.resolve a = .reg cls an pair perm ∧ pa = .ident ∧ c.looksUp m = true ∧
      ids = (List.range (if pair then 2 else 1)).map fun i => regPtr c.wp c.pt cls (an + i) := by
  have hlist (cls : RegClass) (an : Nat) (pair : Bool) : (List.range (if pair then 2 else 1)).map (fun i => regPtr c.wp c.pt cls (an + i)) =
      regPtr c.wp c.pt cls an :: (if pair then [regPtr c.wp c.pt cls (an + 1)] else []) := by
    cases pair <;> rfl
  simp only [hlist, Cx.sharesMov, ha, List.map_cons, List.map_nil]
  constructor
  · intro h
    split at h
    · rename_i hd hs
      obtain ⟨hs, -⟩ := List.cons.inj hs
      split at h
      · rename_i hc
        simp only [Bool.and_eq_true, beq_iff_eq] at hc
        obtain ⟨⟨rfl, hpa⟩, hlooks⟩ := hc
        exact ⟨_, _, _, _, _, _, _, hd, hs, hpa, hlooks, (Option.some.inj h).symm⟩
      · simp at h
    · simp at h
  · rintro ⟨cls, dn, an, dpair, dperm, pair, perm, hd, hs, rfl, hlooks, rfl⟩
    simp [hd, hs, hlooks]

theorem Src.reg?_eq_some {x : Src} {cls : RegClass} {n : Nat} : x.reg? = some (cls, n) ↔ ∃ pair perm, x = .reg cls n pair perm := by
  cases x <;> simp [Src.reg?]

/-- Which operations share (R43). -/
theorem Cx.sharesMov_isSome {c : Cx} {m : Sem} {pa : Perm} {a : OpSpec} (ha : m.srcs = [a]) :
    (c.sharesMov m pa).isSome = true ↔ pa = .ident ∧ (c.resolve a).reg?.map (·.1) = (c.resolve m.dst).reg?.map (·.1) ∧
      (c.resolve a).reg? ≠ none ∧ c.looksUp m = true := by
  rw [Option.isSome_iff_exists]
  simp only [Cx.sharesMov_eq_some ha]
  constructor
  · rintro ⟨_, cls, dn, an, dpair, dperm, pair, perm, hd, hs, hpa, hlooks, -⟩
    simp [hd, hs, hpa, hlooks, Src.reg?]
  · rintro ⟨hpa, hcls, hsrc, hlooks⟩
    obtain ⟨⟨cls, an⟩, hs⟩ := Option.ne_none_iff_exists'.mp hsrc
    obtain ⟨⟨cls', dn⟩, hd, rfl⟩ := Option.map_eq_some_iff.mp (hcls.symm.trans (congrArg (Option.map (·.1)) hs))
    obtain ⟨pair, perm, hs⟩ := Src.reg?_eq_some.mp hs
    obtain ⟨dpair, dperm, hd⟩ := Src.reg?_eq_some.mp hd
    exact ⟨_, _, dn, an, dpair, dperm, pair, perm, hd, hs, hpa, hlooks, rfl⟩

/-- The registers that a sharing `MOV` writes, and the entries that it points them at: those of as many source registers of the
same class. -/
theorem Cx.sharesMov_ids {c : Cx} {f : L2u} {n : Nat} {t : BitTy} {pa : Perm} {ids : List Nat} (hr : LaneReady c (semMov f n t))
    (hs : c.sharesMov (semMov f n t) pa = some ids) : let m := semMov f n t
    ∃ cls dn an, cls ≠ RegClass.p ∧ (c.resolve (m.srcs.getD 0 default)).reg? = some (cls, an) ∧
      c.dests m = (List.range m.dst.span).map (fun i => (cls, dn + i)) ∧
      ids = (List.range m.dst.span).map fun i => regPtr c.wp c.pt cls (an + i) := by
  intro m
  have hsrcs : m.srcs = [m.srcs.getD 0 default] := rfl
  obtain ⟨cls, dn, an, dpair, dperm, pair, perm, hd, ha, -, -, rfl⟩ := (Cx.sharesMov_eq_some hsrcs).mp hs
  obtain ⟨hops, -⟩ := hr
  have hok : (m.srcs.getD 0 default).ok c.wp.grant c.width (sDest m.ops) = true :=
    Cx.ok_of_checkOps hops _ (List.mem_cons_of_mem _ List.mem_cons_self)
  obtain ⟨hp, rfl⟩ := Cx.resolve_reg hok (by cases t <;> rfl) ha
  refine ⟨cls, dn, an, hp, Src.reg?_eq_some.mpr ⟨_, _, ha⟩, ?_, rfl⟩
  simp only [Cx.dests, Cx.dstReg, hd, Src.reg?, Option.getD_some]
  exact List.append_nil _

/-- A sharing `MOV` completes with its destinations at the source's entries, and every other register as it was (R43). -/
theorem IsMov.completes_sharing {i : Instr} {m : Sem} {pa : Perm} (h : IsMov i m pa) {s : State} {c : Cx} {ids : List Nat}
    (hi : Issues i s c) (hids : IdsInv s) (hr : LaneReady c m) (ha : c.acting m.guard ≠ 0#64) (hs : c.sharesMov m pa = some ids) :
    ∃ (u : State) (d : Cx), CompletesVia i s c m.words u d ∧ Untouched s c u d (c.dests m) ∧ SameSpecial c d ∧
      d.wp.keys = c.wp.keys ∧ d.wp.binds = c.wp.binds ∧
      ∀ (j : Nat) (cls : RegClass) (n : Nat), (c.dests m)[j]? = some (cls, n) →
        ids[j]? = some (regPtr d.wp d.pt cls n) ∧
          ∃ a, (c.resolve (m.srcs.getD 0 default)).reg? = some (cls, a) ∧ ∀ l, d.get cls n l = c.get cls (a + j) l := by
  obtain ⟨f, k, t, rfl⟩ := h.sem
  have ⟨hissuing, hended, _⟩ := hi
  obtain rfl := State.cx_state hissuing
  have hcx := State.cxOf_eq_some.mp (State.cxOf_of_cx hissuing)
  have hzero : c.cst.entry? 0 = none := hcx.store ▸ entry?_zero_of_idsInv hids c.core
  obtain ⟨cls, dn, an, hcls, hsrc, hdests, hptrs⟩ := Cx.sharesMov_ids hr hs
  obtain ⟨d1, h1, hr1⟩ := hcx.endWaits hended hzero
  obtain ⟨d2, h2, hcst2, hr2, hp2⟩ := h1.pointAll (fullMask c.width) (c.dests (semMov f k t)) ids
  obtain ⟨d3, h3, hr3⟩ := h2.sweep (hr2.ended.trans (hr1.ended.trans hended)) (hr2.zero (hr1.zero hzero))
  rw [hr2.core, hr1.core] at h3
  have hrep : Repointed c d3 (c.dests (semMov f k t)) := (hr1.mono (by simp)).trans (hr2.trans (hr3.mono (by simp)))
  have hout := ((SameOutside.endWaits c c.s).trans (.pointAll c.b c.w c.pid (fullMask c.width) (c.dests (semMov f k t)) ids _)).trans
    (.sweep _ c.core c.b c.w)
  refine ⟨_, d3, ⟨h.exec_next hi (runMov_shares hr ha hs), State.cxOf_eq_some.mpr h3⟩, ⟨hrep.regs, hout⟩, hrep.special, hrep.keys,
    hrep.binds, fun j cls' n hj => ?_⟩
  have hnodup : (c.dests (semMov f k t)).Nodup := by
    rw [hdests]
    exact List.Nodup.map (fun a b hab => by simpa using hab) List.nodup_range
  obtain ⟨hlt, rfl, rfl⟩ : j < (semMov f k t).dst.span ∧ cls = cls' ∧ dn + j = n := by
    simpa [hdests, List.getElem?_eq_some_iff] using hj
  have hj' : ids[j]? = some (regPtr c.wp c.pt cls (an + j)) := by simp [hptrs, List.getElem?_range hlt]
  have hptr2 : regPtr d2.wp d2.pt cls (dn + j) = regPtr c.wp c.pt cls (an + j) := hp2 hnodup j cls _ _ hj hj'
  refine ⟨by rw [hr3.ptr _ _ (by simp), hptr2, hj'], an, hsrc, fun l => ?_⟩
  calc d3.get cls (dn + j) l
      = d2.get cls (dn + j) l := hr3.regs _ _ l (by simp)
    _ = d1.get cls (an + j) l := by simp [Cx.get, CoreSt.regLane, hcls, hcst2, hptr2, hr1.ptr]
    _ = c.get cls (an + j) l := hr1.regs _ _ l (by simp)

/-- Settles O23: which `MOV`s share is read off `sharesMov`, and one that shares ends its waits, repoints its destinations and
sweeps, none of which changes what a register outside the destinations reads. -/
theorem movSharesItsSource : Obligations.MovSharesItsSource := by
  unfold Obligations.MovSharesItsSource
  intro i s c m pa hi hids (hm : IsMov i m pa) src dst
  have hiff : (c.sharesMov m pa).isSome = true ↔ pa = .ident ∧ src.map (·.1) = dst.map (·.1) ∧ src ≠ none ∧ c.looksUp m = true := by
    obtain ⟨f, n, t, rfl⟩ := hm.sem
    exact Cx.sharesMov_isSome rfl
  refine ⟨fun hno => ?_, hiff.mpr, fun ids hr ha hs => hm.completes_sharing hi hids hr ha hs⟩
  have hnone : c.sharesMov m pa = none := by
    rw [← Option.not_isSome_iff_eq_none, hiff]
    rintro ⟨hpa, hcls, hsrc, hlooks⟩
    obtain h | h | h | h := hno
    · exact h hpa
    · exact h hcls
    · exact hsrc h
    · simp [hlooks] at h
  exact ⟨hnone, hm.opOf hnone⟩

end Sys2Proof.Machine
end

section
/-! SUPPORT. `SETXI` (R63, R387): its encodings, and `xi` as the only thing that it writes. -/

namespace Sys2Proof

/-- A field that is cut in two has a value exactly when its parts have the parts of that value. -/
theorem Word.fld_eq_append_iff (w : Word) {lo m n : Nat} (a : BitVec m) (b : BitVec n) :
    w.fld lo (m + n) = a ++ b ↔ w.fld (lo + n) m = a ∧ w.fld lo n = b := by
  have hcut : w.fld (lo + n) m ++ w.fld lo n = w.fld lo (m + n) := BitVec.extractLsb'_append_extractLsb'_eq_extractLsb' rfl
  rw [← hcut]
  constructor
  · intro h
    have hhigh := congrArg (·.extractLsb' n m) h
    have hlow := congrArg (·.extractLsb' 0 n) h
    simp only [BitVec.extractLsb'_append_eq_left, BitVec.extractLsb'_append_eq_right] at hhigh hlow
    exact ⟨hhigh, hlow⟩
  · rintro ⟨rfl, rfl⟩
    rfl

namespace Machine

/-! ### Encodings -/

/-- Words whose opcode byte has the L bit clear are read as a short form, and a defined opcode's fields give an instruction or
`RESBITS` (R100, R102, R109). -/
theorem decodeWords_short {w0 : Word} (w1 : Word) {op : BitVec 7} {r : Option Instr} (h : w0.fld 24 8 = 0#1 ++ op)
    (hr : decodeShort op.toNat w0 = some r) : decodeWords w0 w1 = r.elim (.error .resbits) .ok := by
  obtain ⟨hl, rfl⟩ := (w0.fld_eq_append_iff 0#1 op).mp h
  have hl : w0.getLsbD 31 = false := by simpa using congrArg (·.getLsbD 0) hl
  simp only [decodeWords, hl, hr, Bool.false_eq_true, if_false]
  cases r with
  | none => rfl
  | some i => rfl

/-- Which words `SETXI` has (R63, R387): those of opcode 0x6D whose D and high bits of A name a mode. -/
theorem decodeWords_setxi {w0 : Word} (w1 : Word) (h : w0.fld 24 8 = 0x6D#8) : decodeWords w0 w1 =
    if w0.fld 17 7 = 0#7 ∧ w0.fld 10 7 = 0#7 then .ok (.setxi (w0.fld 0 10))
    else if w0.fld 17 7 = 1#7 ∧ w0.fld 15 2 = 0#2 then .ok (.setxiS (w0.fld 10 5) (w0.fld 0 10))
    else .error .resbits := by
  have hmode0 : w0.fld 17 7 = 0#7 ∧ w0.fld 10 7 = 0#7 ↔ w0.fld 10 14 = 0#14 := (w0.fld_eq_append_iff 0#7 0#7).symm
  have hmode1 : w0.fld 17 7 = 1#7 ∧ w0.fld 15 2 = 0#2 ↔ w0.fld 15 9 = 4#9 := (w0.fld_eq_append_iff 1#7 0#2).symm
  have hop : w0.fld 24 8 = 0#1 ++ 0x6D#7 := h
  have hshort : decodeShort (0x6D#7).toNat w0 = if w0.fld 10 14 == 0#14 then some (some (.setxi (w0.fld 0 10)))
      else some (need (w0.fld 15 9 == 4#9) (some (.setxiS (w0.fld 10 5) (w0.fld 0 10)))) := rfl
  simp only [hmode0, hmode1]
  by_cases h0 : w0.fld 10 14 = 0#14
  · simp [decodeWords_short w1 hop (hshort.trans (if_pos (by simp [h0]))), h0]
  · have hr := decodeWords_short w1 hop (hshort.trans (if_neg (by simp [h0])))
    by_cases h1 : w0.fld 15 9 = 4#9
    · simp [hr, h0, h1, need]
    · simp [hr, h0, h1, need]

/-! ### An instruction that no saggar launch compares -/

/-- An instruction that no saggar launch compares acts in the context that it issues in (R258). -/
theorem Cx.begun_of_uncompared {i : Instr} (c : Cx) (hg : comparedGuard i = none) : c.begun i = c := by
  simp [Cx.begun, Cx.compares, hg]

/-- An instruction that no saggar launch compares answers the state that its body answers. -/
theorem Issues.issue_ok {i : Instr} {s t : State} {c : Cx} {body : Cx → Except Stop State} (hi : Issues i s c)
    (hg : comparedGuard i = none) (hb : body c = .ok t) : issue i s body = .next t := by
  obtain ⟨hcx, -, -, -, hn, hp⟩ := hi
  rw [issue_next body hcx hn (State.cx_state hcx ▸ hp), c.begun_of_uncompared hg, hb]

/-- An instruction that no saggar launch compares, and whose body does not complete, fails with its body's stop. -/
theorem Issues.issue_error {i : Instr} {s : State} {c : Cx} {e : Stop} {body : Cx → Except Stop State} (hi : Issues i s c)
    (hg : comparedGuard i = none) (hb : body c = .error e) : issue i s body = .next (c.fail i body e) := by
  obtain ⟨hcx, -, -, -, hn, hp⟩ := hi
  rw [issue_next body hcx hn (State.cx_state hcx ▸ hp), c.begun_of_uncompared hg, hb]

/-! ### A register that is not ready -/

/-- How a register that is not readable stops its instruction (R45, R50, R65, R97): an absent piece is filled, an entry is waited
for, and a result of the warp's own stalls the path or takes `SCHED`. -/
theorem Cx.readable_error {c : Cx} {field n : Nat} {cls : RegClass} {e : Stop} (h : c.readable field cls n = .error e) :
    (∃ fill, e = .await fill) ∨ (∃ id, e = .waitEntry id) ∨ e = .stall ∨ e = .trap tcSCHED field := by
  unfold Cx.readable at h
  split at h
  · cases h
  split at h
  · cases h; exact .inl ⟨_, rfl⟩
  split at h
  · cases h
  split at h
  · cases h
  · cases h; exact .inr (.inl ⟨_, rfl⟩)
  split at h
  · split at h
    · cases h; exact .inr (.inr (.inl rfl))
    · cases h; exact .inr (.inr (.inr rfl))
  · cases h; exact .inr (.inl ⟨_, rfl⟩)

/-- A register that is not readable stops its instruction in all lanes: none rolls back alone (R209). -/
theorem Cx.fail_of_readable {c : Cx} {field n : Nat} {cls : RegClass} {e : Stop} (h : c.readable field cls n = .error e) (i : Instr)
    (body : Cx → Except Stop State) : c.fail i body e = c.stop i e := by
  obtain ⟨fill, rfl⟩ | ⟨id, rfl⟩ | rfl | rfl := Cx.readable_error h
  · rfl
  · rfl
  · rfl
  · rfl

/-! ### Writing `xi` -/

/-- Writing `xi` leaves the path's registers, its warp's other special registers, memory and the device as they were (R63). -/
theorem Cx.setXi_writes_xi {i : Instr} {s : State} {c : Cx} (hi : Issues i s c) (hids : IdsInv s) (x : Word) :
    ∃ d, (c.setXi x).cxOf c.b c.w c.pid = some d ∧ Untouched s c (c.setXi x) d [] ∧
      SameSpecial { c with wp := { c.wp with xi := x } } d := by
  obtain ⟨hissuing, hended, -⟩ := hi
  obtain rfl := State.cx_state hissuing
  have hcx := State.cxOf_eq_some.mp (State.cxOf_of_cx hissuing)
  have hzero : c.cst.entry? 0 = none := hcx.store ▸ entry?_zero_of_idsInv hids c.core
  obtain ⟨d, hd, hr⟩ := hcx.endWaits hended hzero
  have hxi := hd.modWarp (f := fun w => { w with xi := x }) (fun _ => rfl) hd.path
  have hout : SameOutside c.s (c.setXi x) := (SameOutside.endWaits c c.s).trans (.modWarp _ c.b c.w (fun _ => rfl) fun _ => rfl)
  obtain ⟨-, hspecial⟩ := hr.special
  refine ⟨_, State.cxOf_eq_some.mpr hxi, ⟨fun cls n l hn => ?_, hout⟩, rfl, hspecial⟩
  rw [← hr.regs cls n l hn]
  cases cls with
  | v => rfl
  | s => rfl
  | p => rfl

/-- `SETXI` in mode 0 completes with the immediate in `xi` (R63). -/
theorem execSetxi_completes {imm : BitVec 10} {s : State} {c : Cx} (hi : Issues (.setxi imm) s c) :
    exec (.setxi imm) s = .next (c.advance (c.setXi (imm.setWidth 32)) 1) :=
  show execSetxi imm s = _ from hi.issue_ok rfl rfl

/-- `SETXI` in mode 1 completes with the sum in `xi` once its register is readable (R63, R97). -/
theorem execSetxiS_completes {n : BitVec 5} {imm : BitVec 10} {s : State} {c : Cx} (hi : Issues (.setxiS n imm) s c)
    (hr : c.readable 1 .s n.toNat = .ok ()) :
    exec (.setxiS n imm) s = .next (c.advance (c.setXi (c.get .s n.toNat 0 + imm.setWidth 32)) 1) :=
  hi.issue_ok rfl (by simp [hr, Cx.get])

/-- `SETXI` in mode 1 stops as its register does (R45, R97). -/
theorem execSetxiS_stops {n : BitVec 5} {imm : BitVec 10} {s : State} {c : Cx} {e : Stop} (hi : Issues (.setxiS n imm) s c)
    (hr : c.readable 1 .s n.toNat = .error e) : exec (.setxiS n imm) s = .next (c.stop (.setxiS n imm) e) := by
  rw [← c.fail_of_readable hr]
  exact hi.issue_error rfl (by simp [hr])

/-- Settles O27: both modes of `SETXI` end their waits and write `xi` in their warp, which moves no pointer and no byte; the
sum's register is read before, and stops the instruction where it is not ready. -/
theorem setxiWritesXi : Obligations.SetxiWritesXi := by
  unfold Obligations.SetxiWritesXi
  refine ⟨fun w0 w1 h => decodeWords_setxi w1 h, rfl, rfl, fun imm n s c hids =>
    ⟨fun hi => ?_, fun hi => ⟨fun e hr => ?_, fun hr => ?_⟩⟩⟩
  · obtain ⟨d, hd, hsame, hxi⟩ := Cx.setXi_writes_xi hi hids (imm.setWidth 32)
    exact ⟨_, d, ⟨execSetxi_completes hi, hd⟩, hsame, hxi⟩
  · exact execSetxiS_stops hi hr
  · obtain ⟨d, hd, hsame, hxi⟩ := Cx.setXi_writes_xi hi hids (c.get .s n.toNat 0 + imm.setWidth 32)
    exact ⟨_, d, ⟨execSetxiS_completes hi hr, hd⟩, hsame, hxi⟩

end Machine
end Sys2Proof
end

section
/-! SUPPORT. One step (R94, R100, R110, R219): what it fetches, which path or event it takes, and what it leaves of the agenda. -/

namespace Sys2Proof.Machine

open Sys2Proof

/-! ### Fetching -/

theorem Cx.decoded_ok {w0 w1 : Word} {i : Instr} (h : decodeWords w0 w1 = .ok i) (c : Cx) : c.decoded w0 w1 = .run i := by
  simp only [Cx.decoded, h]

/-- A first word with the L bit clear is the whole instruction: the second word counts as zero (R100). -/
theorem State.fetched_short {s : State} {c : Cx} {w0 : Word} (hcx : s.cx = some c)
    (h0 : s.codeWord c.core c.b c.l c.pt.pc = some w0) (hl : w0.getLsbD 31 = false) : s.fetched = c.decoded w0 0#32 := by
  simp only [State.fetched, hcx, h0, hl, Bool.false_eq_true, if_false]

/-- A first word with the L bit set takes the word after it (R100). -/
theorem State.fetched_long {s : State} {c : Cx} {w0 w1 : Word} (hcx : s.cx = some c)
    (h0 : s.codeWord c.core c.b c.l c.pt.pc = some w0) (hl : w0.getLsbD 31 = true)
    (h1 : s.codeWord c.core c.b c.l (c.pt.pc + 4#32) = some w1) : s.fetched = c.decoded w0 w1 := by
  simp only [State.fetched, hcx, h0, hl, h1, if_true]

/-- The instruction of a short or long form whose words are in the I-cache is fetched (R94, R100). -/
theorem State.fetched_run {s : State} {c : Cx} {w0 w1 : Word} {i : Instr} (hcx : s.cx = some c)
    (h0 : s.codeWord c.core c.b c.l c.pt.pc = some w0)
    (hlong : w0.getLsbD 31 = true → s.codeWord c.core c.b c.l (c.pt.pc + 4#32) = some w1) (hshort : w0.getLsbD 31 = false → w1 = 0#32)
    (hd : decodeWords w0 w1 = .ok i) : s.fetched = .run i := by
  cases hl : w0.getLsbD 31 with
  | false =>
    obtain rfl := hshort hl
    rw [State.fetched_short hcx h0 hl, c.decoded_ok hd]
  | true => rw [State.fetched_long hcx h0 hl (hlong hl), c.decoded_ok hd]

/-! ### The second path of a packed pair -/

theorem State.issuing_of_cx {s : State} {c : Cx} (h : s.cx = some c) : ∃ k, s.issuing = some k := by
  cases hk : s.issuing with
  | some k => exact ⟨k, rfl⟩
  | none => simp [State.cx, hk] at h

/-- While a path issues, the other one of its pair waits (R18). -/
theorem State.promoted_of_issuing {s : State} {k : Issuing} (h : s.issuing = some k) : s.promoted = s := by
  simp only [State.promoted, h]

theorem State.promoted_of_unpacked {s : State} (h : s.packed = none) : s.promoted = s := by
  cases hi : s.issuing with
  | none => simp only [State.promoted, hi, h]
  | some k => exact State.promoted_of_issuing hi

/-- The second path of a pair issues when nothing holds it, parks it or waits to be delivered to it, and its transaction has no
conflict (R18). -/
theorem State.promoted_of_packed {s : State} {k : Issuing} {c : Cx} (hissuing : s.issuing = none) (hpacked : s.packed = some k)
    (hc : s.cxOf k.block k.warp k.path = some c) (hhold : c.pt.hold = none) (hpark : c.pt.park = none)
    (hparked : c.wp.parkedOn c.pt = false) (hdelivery : c.wp.delivery = none) (htx : ∀ t, c.wp.tx = some t → t.conflict = false) :
    s.promoted = { s with packed := none, issuing := some k } := by
  have hconflict : (c.wp.tx.any fun t => t.conflict) = false := by
    cases ht : c.wp.tx with
    | none => rfl
    | some t => exact htx t ht
  simp [State.promoted, hissuing, hpacked, hc, hhold, hpark, hparked, hdelivery, hconflict]

/-- Promoting leaves no second path to promote. -/
theorem State.promoted_promoted (s : State) : s.promoted.promoted = s.promoted := by
  cases hi : s.issuing with
  | some k => rw [State.promoted_of_issuing hi, State.promoted_of_issuing hi]
  | none =>
    cases hp : s.packed with
    | none => rw [State.promoted_of_unpacked hp, State.promoted_of_unpacked hp]
    | some k => exact State.promoted_of_unpacked (by simp [State.promoted, hi, hp])

/-! ### The step -/

/-- A step begins by promoting the second path of a pair: it is the step of the promoted state (R18). -/
theorem step_promoted (s : State) : step s.promoted = step s := by
  simp only [step, State.promoted_promoted]

/-- A step with an issuing path runs the instruction that is fetched (R219). -/
theorem step_of_fetched {s : State} {k : Issuing} {i : Instr} (hk : s.issuing = some k) (hf : s.fetched = .run i) : step s = exec i s := by
  simp only [step, State.promoted_of_issuing hk, hk, hf]

/-- A step with no path to issue takes the next event, where the agenda or the schedule has one. -/
theorem step_of_event {s t : State} {e : Instr} (hissuing : s.issuing = none) (hpacked : s.packed = none)
    (he : s.nextEvent = (some e, t)) : step s = exec e t := by
  simp only [step, State.promoted_of_unpacked hpacked, hissuing, he]

theorem step_of_no_event {s t : State} (hissuing : s.issuing = none) (hpacked : s.packed = none)
    (he : s.nextEvent = (none, t)) : step s = .next t := by
  simp only [step, State.promoted_of_unpacked hpacked, hissuing, he]

/-- Choosing an event counts the step, and drops at most the first event that is due. -/
theorem State.nextEvent_state (s : State) : s.nextEvent.2 = { s with tick := s.tick + 1 } ∨
    ∃ e rest, s.agenda = e :: rest ∧ s.nextEvent.2 = { s with tick := s.tick + 1, agenda := rest } := by
  cases ha : s.agenda with
  | nil => exact .inl (by simp only [State.nextEvent, ha])
  | cons e rest =>
    cases hdue : Config.dueFirst s.tick with
    | false => exact .inl (by simp [State.nextEvent, ha, hdue])
    | true => exact .inr ⟨e, rest, rfl, by simp [State.nextEvent, ha, hdue]⟩

/-- Settles O4: a path that issues fetches the instruction that the words at its PC decode to; the second path of a pair is promoted,
which the step does first; and with neither, the step is that of `nextEvent`. -/
theorem stepRunsTheDecodedInstruction : Obligations.StepRunsTheDecodedInstruction := by
  unfold Obligations.StepRunsTheDecodedInstruction
  refine ⟨fun s c w0 w1 i hcx h0 hlong hshort hd => ?_, fun s k c hissuing hpacked hc hhold hpark hparked hdelivery htx => ?_,
    fun s hissuing hpacked => ⟨fun e t => step_of_event hissuing hpacked, fun t => step_of_no_event hissuing hpacked, s.nextEvent_state⟩⟩
  · obtain ⟨k, hk⟩ := State.issuing_of_cx hcx
    exact step_of_fetched hk (State.fetched_run hcx h0 hlong hshort hd)
  · rw [← State.promoted_of_packed hissuing hpacked hc hhold hpark hparked hdelivery htx, step_promoted]

end Sys2Proof.Machine
end
